-- ==== Sys2Proof/Word.lean ====
section
/-! DEFINITION. The word type, the byte type and the association lists the machine's tables are held in. -/

namespace Sys2Proof

/-- One main-file, scalar or frame word: 32 bits (R20, R227). -/
abbrev Word := BitVec 32

/-- One byte of memory. -/
abbrev Byte := BitVec 8

/-- One bit for each lane of a warp, lane 0 lowest. -/
abbrev Lanes := BitVec 32

/-- A table keyed by a number, kept as plain data with keys strictly rising. -/
abbrev Map (α : Type) := List (Nat × α)

end Sys2Proof
end

