-- ==== Sys2Proof/Config.lean ====
section
/-! DEFINITION. What the manual leaves open or to one part: free values, each an opaque constant that nothing can
evaluate, and the fixed sizes of the BVX-Y8. -/

namespace Sys2Proof

/-- The value a special function returns within its bound, by function, width and operand bits (R146; DESIGN CHOICE, log entry 10). -/
opaque Config.sfuValue : Nat → Nat → Nat → Nat

/-- Whether an early read of a register in flight returns the value from before the operation, by warp, word, register
× 32 + lane, and place of the read in the word (R55; DESIGN CHOICE, log entry 5). -/
opaque Config.earlyOld : Nat → Nat → Nat → Nat → Bool

/-- L0 or L1 read before any producer, by warp, word, register and lane (R51; DESIGN CHOICE, log entry 4). -/
opaque Config.lastResult : Nat → Nat → Nat → Nat → BitVec 32

/-- A register value after an error its protection cannot correct (R392; DESIGN CHOICE, log entry 11). -/
opaque Config.upsetValue : Nat → BitVec 32

/-- What an event counter holds when it is read (R1, R415; DESIGN CHOICE, log entry 17). -/
opaque Config.counterValue : Nat → BitVec 64

/-- Whether a core drops its translations only as an invalidation request ends, by request and core (R334; DESIGN CHOICE, log entry
18). -/
opaque Config.invLate : Nat → Nat → Bool

/-- A byte of what a spawn queue writes for an entry in a collision ring, by entry and place (R235, R245; DESIGN CHOICE, log
entry 87). -/
opaque Config.spawnRingByte : Nat → Nat → Byte

/-- What a heat record holds of a page: the elements in its low half, the stalled clocks in its high half (R1, R338; DESIGN
CHOICE, log entry 41). -/
opaque Config.heatCount : Nat → BitVec 64

/-- Which of the eligible groups a core takes in a mode of the weaker promise (R247; DESIGN CHOICE, log entry 89). -/
opaque Config.weakChoice : Nat → Nat

/-- A byte of an event log entry (R407, R411; DESIGN CHOICE, log entry 19). -/
opaque Config.logByte : Nat → Nat → Byte

/-- The life histograms as LIFEREAD lays them out, by the counts held (R409, R411; DESIGN CHOICE, log entry 19). -/
opaque Config.lifeBytes : List (Nat × Nat) → List Byte

/-- The device identity public key, and the certificate for it (R414; DESIGN CHOICE, log entry 20). -/
opaque Config.publicKey : List Byte
opaque Config.certificate : List Byte

/-- Whether a firmware image passes the checks of its signature and digests (R412; DESIGN CHOICE, log entry 20). -/
opaque Config.imageOk : List Byte → Bool

/-- A firmware image's security version (R412; DESIGN CHOICE, log entry 20). -/
opaque Config.imageVersion : List Byte → Nat

/-- The stages of a firmware image: the Deimos, I/O die and compute die firmware (R412; DESIGN CHOICE, log entry 20). -/
opaque Config.imageStage : List Byte → Nat → List Byte

/-- The configuration that is active at a boot (R414; DESIGN CHOICE, log entry 20). -/
opaque Config.activeConfig : Nat → List Byte

/-- A byte of the SHAKE256 output of a message (R412, R414; DESIGN CHOICE, log entry 20). -/
opaque Config.shakeByte : List Byte → Nat → Byte

/-- A byte of the signature over a report (R414; DESIGN CHOICE, log entry 20). -/
opaque Config.signByte : List Byte → Nat → Byte

end Sys2Proof
end

