-- ==== Sys2Proof/Machine/Bits.lean ====
section
/-! DEFINITION. Bit fields, sign extension, byte order and the 32-bit hash (R2, R3, R105, R106). -/

namespace Sys2Proof

/-- Bits `[h:l]` of `x` as an unsigned number (R105, `bits`). -/
def bitsOf (x h l : Nat) : Nat := (x / 2 ^ l) % 2 ^ (h + 1 - l)

/-- Bit `i` of `x`. -/
def bitOf (x i : Nat) : Bool := x.testBit i

/-- The `n`-bit value `x` read as two's complement (R105, `sext`). -/
def sextInt (n x : Nat) : Int :=
  if n = 0 then 0
  else if x % 2 ^ n < 2 ^ (n - 1) then ((x % 2 ^ n : Nat) : Int) else ((x % 2 ^ n : Nat) : Int) - ((2 ^ n : Nat) : Int)

/-- The integer `i` reduced modulo `2^n`. -/
def wrapInt (n : Nat) (i : Int) : Nat := (i % ((2 ^ n : Nat) : Int)).toNat

/-- `lo` if `x < lo`, `hi` if `x > hi`, else `x` (R105, `sat`). -/
def satInt (x lo hi : Int) : Int := if x < lo then lo else if hi < x then hi else x

/-- The `n` bytes of `x`, lowest first (R3). -/
def bytesLE : Nat → Nat → List Byte
  | 0, _ => []
  | n + 1, x => BitVec.ofNat 8 (x % 256) :: bytesLE n (x / 256)

/-- The number whose bytes, lowest first, are given (R3). -/
def ofBytesLE : List Byte → Nat
  | [] => 0
  | b :: bs => b.toNat + 256 * ofBytesLE bs

/-- The number written with its low 32 bits in the first word, 32 more in each next one (R3). -/
def ofWords : List Word → Nat
  | [] => 0
  | w :: ws => w.toNat + 2 ^ 32 * ofWords ws

/-- `n` words of `x`, lowest first (R3). -/
def wordsOf : Nat → Nat → List Word
  | 0, _ => []
  | n + 1, x => BitVec.ofNat 32 (x % 2 ^ 32) :: wordsOf n (x / 2 ^ 32)

/-- The device's 32-bit hash (R105, R106). -/
def hash32 (x : Word) : Word :=
  let h := x ^^^ (x >>> 15)
  let h := h * 0x2C1B3C6D#32
  let h := h ^^^ (h >>> 13)
  let h := h * 0x297A2D39#32
  h ^^^ (h >>> 16)

/-- The smallest multiple of `m` at or above `x`. -/
def roundUp (x m : Nat) : Nat := if m = 0 then x else (x + m - 1) / m * m

/-- The bits of a lane mask that are set, in rising lane order. -/
def lanesOf (m : Lanes) : List Nat := (List.range 32).filter fun l => m.getLsbD l

/-- The mask whose set bits are the lanes for which `f` answers true. -/
def maskOf (f : Nat → Bool) : Lanes :=
  (List.range 32).foldl (fun m l => if f l then m ||| (1#32 <<< l) else m) 0#32

/-- How many lanes of a mask are set. -/
def popLanes (m : Lanes) : Nat := (lanesOf m).length

/-- `x` limited to `2^n - 1`, for the saturating counters. -/
def satNat (n x : Nat) : Nat := if x < 2 ^ n then x else 2 ^ n - 1

end Sys2Proof
end

