-- ==== Sys2Proof/Syntax.lean ====
section
/-! DEFINITION. The syntax: register specifiers, the operand record of each word shape (R86) and `Instr`, with one
constructor for each row of the opcode table. A row is either an instruction word or an event, a step of a unit, of
the host or of management that no word encodes; an event's arguments are what the outside world supplies or what the
manual leaves the device to choose. -/

namespace Sys2Proof

/-- The special registers of R56. -/
inductive SReg where
  | fpl | tag | lane | nlane | blk | core | die | dev | clk
deriving DecidableEq, Repr

/-- The queue registers of R61. -/
inductive Queue where
  | qma | qmw | qmo | qca | qcb | qce | qsi | qso | qek
deriving DecidableEq, Repr

/-- A register specifier (R65). A field that must be zero is `.v 0`. -/
inductive Spec where
  | v (n : BitVec 8)
  | s (n : BitVec 8)
  | o (n : BitVec 3)
  | l (n : BitVec 1)
  | t (n : BitVec 4)
  | sp (r : SReg)
  | q (r : Queue)
  | imm (x : BitVec 8)
deriving DecidableEq, Repr

/-- The second source of a shape I word: a specifier, or the IMM32 of the 96-bit form (R76). -/
inductive Opd where
  | spec (x : Spec)
  | imm32 (x : Word)
deriving DecidableEq, Repr

/-- The element types of the type code table (R75). -/
inductive Ty where
  | i32 | u32 | i64 | u64 | f32 | f64 | f16 | bf16 | f16x2 | bf16x2 | i16x2 | u16x2 | i8x4 | u8x4
deriving DecidableEq, Repr

/-- The rounding codes 0b000 to 0b110 (R27). -/
inductive Rnd where
  | rne | rtz | rup | rdn | rna | sr | dyn
deriving DecidableEq, Repr

/-- The predicate of a word: PR and PN (R52). -/
structure Guard where
  pr : BitVec 3
  pn : Bool
deriving DecidableEq, Repr

/-- The control bits of a word (R74). -/
structure Ctl where
  sc : Bool
  oen : Bool
  oidx : BitVec 3
  nodst : Bool
  rls : Bool
  yld : Bool
deriving DecidableEq, Repr

/-- A predicate source field: bit 3 is the negation (R77). -/
structure PSrc where
  neg : Bool
  p : BitVec 3
deriving DecidableEq, Repr

/-- A clause field of a terminator word (R81). -/
structure Clause where
  cpred : BitVec 4
  fr : BitVec 6
  pl : BitVec 6
  tg : BitVec 6
deriving DecidableEq, Repr

/-- Shape E: `END` and `ENDR` (R81). -/
structure EndW where
  c0 : Clause
  c1 : Clause
  c2 : Clause
  c3 : Clause
deriving DecidableEq, Repr

/-- `NOP` in 64, 96 or 128 bits: `len` is bits [1:0] (R71). -/
structure NopW where
  len : BitVec 2
  g : Guard
deriving DecidableEq, Repr

/-- Shape B of the opcodes whose MOD is given with the instruction (R75, R86). -/
structure SysW where
  g : Guard
  ctl : Ctl
  fn : BitVec 4
  mod : BitVec 8
  d : Spec
  a : Spec
  b : Spec
deriving DecidableEq, Repr

/-- Shape I of those opcodes: `ARM` and `TCSET`. -/
structure SysI where
  g : Guard
  ctl : Ctl
  fn : BitVec 4
  mod : BitVec 8
  d : Spec
  a : Spec
  b : Opd
deriving DecidableEq, Repr

/-- Shape J of those opcodes: `WAIT`, `CSRR` and `CSRW`. -/
structure SysJ where
  g : Guard
  ctl : Ctl
  fn : BitVec 4
  mod : BitVec 8
  d : Spec
  a : Spec
  b : Spec
  imm : Word
deriving DecidableEq, Repr

/-- Shape C of those opcodes (R78). -/
structure SysC where
  g : Guard
  ctl : Ctl
  fn : BitVec 4
  mod : BitVec 8
  d : Spec
  a : Spec
  b : Spec
  c : Spec
  mod2 : BitVec 6
deriving DecidableEq, Repr

/-- Shape MO: a memory word with a 64-bit offset (R79, R80). -/
structure MemW where
  g : Guard
  ctl : Ctl
  esz : BitVec 3
  cp : BitVec 2
  scope : BitVec 3
  scl : BitVec 2
  sub : BitVec 2
  d : Spec
  a : Spec
  b : Spec
  ofs : BitVec 64
deriving DecidableEq, Repr

/-- Shape MA: a memory word with data operands C and C2 and a 44-bit offset (R79, R80). -/
structure MaW where
  g : Guard
  ctl : Ctl
  esz : BitVec 3
  cp : BitVec 2
  scope : BitVec 3
  scl : BitVec 2
  sub : BitVec 2
  d : Spec
  a : Spec
  b : Spec
  c : Spec
  c2 : Spec
  ofs : BitVec 44
deriving DecidableEq, Repr

/-- Shapes I, J and B of OPC 0x10 to 0x7F (R75): one or two sources; a one-source word has `b = .spec (.v 0)`. -/
structure Alu2 where
  g : Guard
  ctl : Ctl
  ty : Ty
  rnd : Rnd
  xf : Bool
  fn : BitVec 4
  d : Spec
  a : Spec
  b : Opd
deriving DecidableEq, Repr

/-- Shape C of OPC 0x10 to 0x6F (R75, R78). -/
structure Alu3 where
  g : Guard
  ctl : Ctl
  ty : Ty
  rnd : Rnd
  xf : Bool
  fn : BitVec 4
  d : Spec
  a : Spec
  b : Spec
  c : Spec
  mod2 : BitVec 6
deriving DecidableEq, Repr

/-- `ISETP` and `FSETP`: a compare into a predicate (R127, R135). -/
structure CmpW where
  g : Guard
  ctl : Ctl
  ty : Ty
  cond : BitVec 4
  pd : BitVec 3
  a : Spec
  b : Opd
deriving DecidableEq, Repr

/-- `IADDC`: carry in from a predicate, carry out to another (R124). -/
structure AddcW where
  g : Guard
  ctl : Ctl
  ty : Ty
  d : Spec
  a : Spec
  b : Spec
  cin : PSrc
  cout : BitVec 4
deriving DecidableEq, Repr

/-- `ISEL`: selection by a predicate (R127). -/
structure SelW where
  g : Guard
  ctl : Ctl
  ty : Ty
  d : Spec
  a : Spec
  b : Spec
  pc : PSrc
deriving DecidableEq, Repr

/-- `PAND`, `POR`, `PXOR` and `PNOT` (R130). -/
structure PredW where
  g : Guard
  ctl : Ctl
  pd : BitVec 3
  pa : PSrc
  pb : PSrc
deriving DecidableEq, Repr

/-- `PTEST` and `PCLR` (R145): `fn` 1 is `.ANY`. -/
structure PtestW where
  g : Guard
  ctl : Ctl
  fn : BitVec 4
  pd : BitVec 3
deriving DecidableEq, Repr

/-- `LVOTE` and `LCNT` (R150): `d` is a predicate number, or a V register for `.BAL` and `LCNT`. -/
structure VoteW where
  g : Guard
  ctl : Ctl
  fn : BitVec 4
  d : BitVec 8
  pa : PSrc
deriving DecidableEq, Repr

/-- A slot of a pair word (R82). In a compare `d` is `.v p` with `p` the predicate, and `rnd` the condition. In the
integer select `c` is `.v k` with `k` the predicate source field. -/
structure Slot where
  cop : BitVec 5
  pn : Bool
  pr : BitVec 3
  d : Spec
  a : Spec
  b : Spec
  c : Spec
  rnd : BitVec 3
  ty : Ty
deriving DecidableEq, Repr

/-- A pair word: an integer slot and a floating-point slot (R82). -/
structure PairW where
  x : Slot
  y : Slot
deriving DecidableEq, Repr

/-- Five level fields of 12 bits of a loop-nest word, level 0 innermost (R85). -/
structure Five where
  l0 : BitVec 12
  l1 : BitVec 12
  l2 : BitVec 12
  l3 : BitVec 12
  l4 : BitVec 12
deriving DecidableEq, Repr

/-- A loop-nest word (R85). -/
structure LoopW where
  sblk : BitVec 6
  ext : Five
  st0 : Five
  st1 : Five
  st2 : Five
deriving DecidableEq, Repr

/-- The five words of a token (R225). -/
structure Token where
  w0 : Word
  w1 : Word
  w2 : Word
  w3 : Word
  w4 : Word
deriving DecidableEq, Repr

/-- Where an arriving token comes from: a message in flight on the device, or a device link. -/
inductive Arrival where
  | net (msg : Nat)
  | link (t : Token)
deriving DecidableEq, Repr

/-- The key of a group of ready instances: bin, whether it is a sequencer bin, task, block, and under DET = 1 tag
bits [19:5] (R236, R279). -/
structure GroupKey where
  seq : Bool
  bin : Nat
  task : Nat
  blk : Nat
  grp : Nat
deriving DecidableEq, Repr

/-- A soft error met by an access (R392): none, one that is corrected, or one that cannot be, with the structure's
code. -/
inductive Upset where
  | none
  | corrected (structure_ : Nat)
  | hit (structure_ : Nat)
deriving DecidableEq, Repr

/-- A step of an eviction (R363): the place of its command at Encke, and which of the reads or writes that come in any order
is meant. -/
structure EvictStep where
  idx : Nat
  pick : Nat
deriving DecidableEq, Repr

/-- A host CXL.mem access (R266): a device physical address and what is done there. For an HDIRECT write, `l2copy`
says whether the home L2 holds an older copy of the sectors (R268). A host atomic outside SYSATOMIC is a read
followed by a later write (R269). -/
inductive HostAcc where
  | read (pa size : Nat) (hdirect : Bool)
  | write (pa : Nat) (data : List Byte) (hdirect l2copy : Bool)
  | atomicAdd (pa size : Nat) (val : Nat)
  | atomicXchg (pa size : Nat) (val : Nat)
  | atomicCas (pa size : Nat) (cmp val : Nat)
deriving DecidableEq, Repr

/-- One sample of the module's sensors (R408): temperatures in °C, voltages in mV, currents in A, power in W. -/
structure Sample where
  dieTemp : List Nat
  dieVolt : List Nat
  dieAmp : List Nat
  ioTemp : List Nat
  stackTemp : List Nat
  power : Nat
deriving DecidableEq, Repr

/-- What a boot finds (R10, R395, R396): the physical cores that fail their test, by die × 34 + core, the stacks that do not
train, the negotiated host link and the frames whose bad rows found no spare. -/
structure BootResult where
  badCores : List Nat
  badStacks : List Nat
  lanes : Nat
  rate : Nat
  retiredFrames : List Nat
deriving DecidableEq, Repr

/-- One operation of the part: an instruction word, or an event. One constructor for each row of the opcode
table. -/
inductive Instr where
  /-- END (R110): Terminator that ends the block, performs its clauses through the successor entries, keeps the lanes' frames and retires the warp. -/
  | endK (x : EndW)
  /-- ENDR (R112): Terminator that performs its clauses and then releases the frame of every filled lane before retiring the warp. -/
  | endR (x : EndW)
  /-- TRAP (R114): Terminator that waits for the counters, sends nothing, releases uncommitted FALLOC frames, writes a program trap record 0x08 and retires the warp. -/
  | trap (x : SysW)
  /-- NOP (R71): No operation in 64, 96 or 128 bits; changes no architectural state and does not update L0 or L1. -/
  | nop (x : NopW)
  /-- SEND (R116): Each active lane sends one token to the frame named by A, with payload B and tag C, on this device or on another one under XDEV. -/
  | send (x : SysC)
  /-- SENDM (R116): Each active lane sends one token to every member frame of a group of the context's group table. -/
  | sendm (x : SysC)
  /-- ARM (R119): Each active lane sets the remaining count of an arrival counter in the frame named by A. -/
  | arm (x : SysI)
  /-- FALLOC (R117): Each active lane allocates a pending frame on the issuing core and writes its handle to D, or writes the null handle when there is no space. -/
  | falloc (x : SysC)
  /-- FFREE (R118): Each active lane releases the frame named by A, which may lie on any core; a remote frame is released through a message. -/
  | ffree (x : SysW)
  /-- LDF (R120): Loads one word or a word pair of the lane's own frame into registers. -/
  | ldf (x : MemW)
  /-- STF (R120): Stores one word or a word pair into the lane's own frame; presence bits are not changed. -/
  | stf (x : MemW)
  /-- TCSET (R121): Sets the warp's TILECOORD from two 16-bit operands or from IMM32. -/
  | tcset (x : SysI)
  /-- BRK (R115): When the task descriptor's debug bit is set, writes a breakpoint record 0x09 and parks the warp; otherwise has no effect. -/
  | brk (x : SysW)
  /-- IADD (R123): Integer add, wrapping or saturating under .SAT. -/
  | iadd (x : Alu2)
  /-- ISUB (R123): Integer subtract, wrapping or saturating under .SAT. -/
  | isub (x : Alu2)
  /-- IADDC (R124): 32-bit add with a carry in from one predicate and a carry out to another. -/
  | iaddc (x : AddcW)
  /-- IMUL (R123): Low w bits of an integer product. -/
  | imul (x : Alu2)
  /-- IMULH (R123): High 32 bits of a signed or unsigned 64-bit product. -/
  | imulh (x : Alu2)
  /-- IMAD (R123): Integer multiply-add, keeping the low w bits. -/
  | imad (x : Alu3)
  /-- IMADW (R124): Wide multiply-add of two 32-bit sources and a 64-bit pair, into a 64-bit pair. -/
  | imadw (x : Alu3)
  /-- IMIN (R123): Integer minimum, signed or unsigned by type. -/
  | imin (x : Alu2)
  /-- IMAX (R123): Integer maximum, signed or unsigned by type. -/
  | imax (x : Alu2)
  /-- IABS (R123): Integer absolute value, optionally saturating. -/
  | iabs (x : Alu2)
  /-- AND (R123): Bitwise and. -/
  | and (x : Alu2)
  /-- OR (R123): Bitwise or. -/
  | or (x : Alu2)
  /-- XOR (R123): Bitwise exclusive or. -/
  | xor (x : Alu2)
  /-- ANDN (R123): Bitwise and with the complement of B. -/
  | andn (x : Alu2)
  /-- SHL (R125): Logical shift left. -/
  | shl (x : Alu2)
  /-- SHR (R125): Logical shift right, filling with zeros. -/
  | shr (x : Alu2)
  /-- SAR (R125): Arithmetic shift right, filling with the sign bit. -/
  | sar (x : Alu2)
  /-- ROT (R125): Rotate left by the count mod w. -/
  | rot (x : Alu2)
  /-- BFE (R126): Extracts a bit field, zero-extended or sign-extended. -/
  | bfe (x : Alu3)
  /-- BFI (R126): Inserts the low bits of B into a bit field of A. -/
  | bfi (x : Alu3)
  /-- POPC (R123): Counts the set bits. -/
  | popc (x : Alu2)
  /-- CLZ (R123): Counts the leading zero bits. -/
  | clz (x : Alu2)
  /-- CTZ (R123): Counts the trailing zero bits. -/
  | ctz (x : Alu2)
  /-- BREV (R123): Reverses the bit order. -/
  | brev (x : Alu2)
  /-- HASH (R106): Computes the device's fixed 32-bit hash of A. -/
  | hash (x : Alu2)
  /-- ISETP (R127): Integer compare that writes a predicate. -/
  | isetp (x : CmpW)
  /-- ISEL (R127): Selects A or B according to a predicate. -/
  | isel (x : SelW)
  /-- LEA (R128): Computes a + b × 2^s. -/
  | lea (x : Alu3)
  /-- MOV (R129): Copies register bits; a queue register in D pushes one entry, and a queue register in A pops one. -/
  | mov (x : Alu2)
  /-- MOVI (R129): Writes IMM32 to D according to the instruction's type. -/
  | movi (x : Alu2)
  /-- MOVS (R129): Reads a special register, or the full frame handle under .H; reads of CLK, CORE, DIE and DEV are record or replay points. -/
  | movs (x : Alu2)
  /-- PAND (R130): Predicate and. -/
  | pand (x : PredW)
  /-- POR (R130): Predicate or. -/
  | por (x : PredW)
  /-- PXOR (R130): Predicate exclusive or. -/
  | pxor (x : PredW)
  /-- PNOT (R130): Predicate complement. -/
  | pnot (x : PredW)
  /-- FADD (R133): Floating-point add, rounded once. -/
  | fadd (x : Alu2)
  /-- FSUB (R133): Floating-point subtract, rounded once. -/
  | fsub (x : Alu2)
  /-- FMUL (R133): Floating-point multiply, rounded once. -/
  | fmul (x : Alu2)
  /-- FFMA (R133): Fused multiply-add with a single rounding. -/
  | ffma (x : Alu3)
  /-- FMIN (R134): Floating-point minimum that ignores a NaN, or propagates it under .NAN. -/
  | fmin (x : Alu2)
  /-- FMAX (R134): Floating-point maximum that ignores a NaN, or propagates it under .NAN. -/
  | fmax (x : Alu2)
  /-- FSETP (R135): Floating-point compare that writes a predicate. -/
  | fsetp (x : CmpW)
  /-- FCLASS (R136): Writes a one-hot class mask of the operand. -/
  | fclass (x : Alu2)
  /-- FRND (R137): Rounds to an integral value in the same format. -/
  | frnd (x : Alu2)
  /-- FSCALE (R137): Computes a × 2^n, rounded once. -/
  | fscale (x : Alu2)
  /-- FDOT2 (R138): Two-element half-precision dot product with accumulate into binary32, rounded once. -/
  | fdot2 (x : Alu3)
  /-- FDOT4 (R138): Four-element narrow-format dot product with accumulate into binary32, rounded once. -/
  | fdot4 (x : Alu3)
  /-- FCVT (R141): Converts between wide and narrow floating formats, applying block scales. -/
  | fcvt (x : Alu3)
  /-- ICVT (R143): Converts between integer and floating-point formats. -/
  | icvt (x : Alu3)
  /-- CVTN (R144): Computes a block scale from a block magnitude, and encodes elements or writes the scale code under .SCALE. -/
  | cvtn (x : Alu3)
  /-- PTEST (R145): Writes the lane's poison flag, or whether any lane is poisoned, to a predicate. -/
  | ptest (x : PtestW)
  /-- PCLR (R145): Clears the poison flag of each active lane. -/
  | pclr (x : PtestW)
  /-- RCP (R146): Reciprocal within the stated accuracy bound. -/
  | rcp (x : Alu2)
  /-- RSQ (R146): Reciprocal square root within the stated accuracy bound. -/
  | rsq (x : Alu2)
  /-- SQRT (R146): Square root, correctly rounded under RND. -/
  | sqrt (x : Alu2)
  /-- EXP2 (R146): Computes 2^x within the stated accuracy bound. -/
  | exp2 (x : Alu2)
  /-- LOG2 (R146): Computes log2 x within the stated accuracy bound. -/
  | log2 (x : Alu2)
  /-- SIN (R146): Sine with exact argument reduction. -/
  | sin (x : Alu2)
  /-- COS (R146): Cosine with exact argument reduction. -/
  | cos (x : Alu2)
  /-- TANH (R146): Hyperbolic tangent within the stated accuracy bound. -/
  | tanh (x : Alu2)
  /-- SIGM (R146): Logistic sigmoid within the stated accuracy bound. -/
  | sigm (x : Alu2)
  /-- LSHUF (R149): Moves register values between lanes by index, xor, up or down. -/
  | lshuf (x : Alu2)
  /-- LBCAST (R149): Broadcasts one lane's value, or the first active lane's under .FIRST, to every active lane. -/
  | lbcast (x : Alu2)
  /-- LVOTE (R150): Combines a predicate across the warp as ALL, ANY, UNI, or a ballot mask under .BAL. -/
  | lvote (x : VoteW)
  /-- LCNT (R150): Counts the active lanes whose predicate is true, or the prefix count under .PRE. -/
  | lcnt (x : VoteW)
  /-- LSCAN (R151): Inclusive or exclusive scan over the lanes in increasing lane order. -/
  | lscan (x : Alu2)
  /-- LRED (R152): Reduces over the warp by the fixed pairwise tree and writes the result to every active lane. -/
  | lred (x : Alu2)
  /-- SELCFG (R155): Places an entry in QSI that discards the context's selection and opens a new one with k and c. -/
  | selcfg (x : Alu2)
  /-- SELPUSH (R155): Places a row of candidates in QSI, one per column whose lane is active. -/
  | selpush (x : Alu2)
  /-- SELPOP (R155): Requests the value or row index of a given rank in each column and blocks until the result is in QSO. -/
  | selpop (x : Alu2)
  /-- LD (R167): Loads from global memory through the translation register or S-pair base. -/
  | ld (x : MemW)
  /-- ST (R167): Stores to global memory, as a sink for poisoned lanes. -/
  | st (x : MemW)
  /-- LDS (R167): Loads from own scratch, or from a gang member's scratch through a remote pointer. -/
  | lds (x : MemW)
  /-- STS (R167): Stores to own or remote scratch, writing poison marks for poisoned lanes. -/
  | sts (x : MemW)
  /-- LDX (R167): Loads from global memory through a 64-bit address held in each lane. -/
  | ldx (x : MemW)
  /-- STX (R167): Stores to global memory through a 64-bit address held in each lane. -/
  | stx (x : MemW)
  /-- STRED (R169): Sums lanes by address in the core and sends one addition per address to its home L2. -/
  | stred (x : MaW)
  /-- LDZ (R174): Reads value and coordinate pairs of a zero-removed stream by pair number. -/
  | ldz (x : MemW)
  /-- STZ (R173): Appends the non-zero values of the warp to a stream, reserving positions at the header's home L2. -/
  | stz (x : MemW)
  /-- ATOM (R171): Read-modify-write at the home L2, optionally returning the old value. -/
  | atom (x : MaW)
  /-- RED (R170): Read-modify-write at the home L2 that returns no value. -/
  | red (x : MaW)
  /-- FENCE (R175): Orders the warp's earlier and later accesses as a release, an acquire or both, at a scope. -/
  | fence (x : SysW)
  /-- CINV_L1 (R176): Invalidates every line of the issuing core's L1. -/
  | cinvL1 (x : SysW)
  /-- CINV_L2 (R176): Writes back and invalidates each line of a range in its home L2. -/
  | cinvL2 (x : SysW)
  /-- CFLUSH (R176): Writes back each dirty line of a range, which stays valid. -/
  | cflush (x : SysW)
  /-- PREF (R177): Prefetch hint with no architectural effect. -/
  | pref (x : MemW)
  /-- BIND (R178): Translates a virtual base once and binds a translation register with its physical base and limit. -/
  | bind (x : SysW)
  /-- UNBIND (R178): Makes a translation register unbound. -/
  | unbind (x : SysW)
  /-- QPUSH (R179): Pushes n entries to an engine queue, as a release unless .NR is given; blocks while the queue is full. -/
  | qpush (x : SysW)
  /-- QPOP (R179): Pops n entries from a queue into registers; blocks while the queue is empty. -/
  | qpop (x : SysW)
  /-- QFENCE (R180): Places a marker so that the warp's later entries in the named queues wait for the earlier entries. -/
  | qfence (x : SysW)
  /-- WAIT (R181): Stalls the warp until its outstanding-operation counters fall to the given limits. -/
  | wait (x : SysJ)
  /-- CPY (R182): Pushes a copy command from 16 S registers to QCA or QCB and counts it in CPC. -/
  | cpy (x : SysC)
  /-- VLOOP (R188): Runs a loop nest of up to five levels over three memory operands, spread over the lanes. -/
  | vloop (x : LoopW)
  /-- VLOOPR_ADD (R189): Loop-nest reduction by addition, written once as one element. -/
  | vlooprAdd (x : LoopW)
  /-- VLOOPR_MIN (R189): Loop-nest reduction by minimum. -/
  | vlooprMin (x : LoopW)
  /-- VLOOPR_MAX (R189): Loop-nest reduction by maximum. -/
  | vlooprMax (x : LoopW)
  /-- PAIR_WORD (R84): Issues one integer compact operation and one floating-point compact operation as a single word. -/
  | pairWord (x : PairW)
  /-- MLDW (R201): Issues a load of one weight tile into SHADOW, from QMW or from scratch. -/
  | mldw (x : SysC)
  /-- MSWAP (R202): Exchanges ACTIVE and SHADOW in engine order. -/
  | mswap (x : SysW)
  /-- MSTREAM (R203): Issues a stream of n activation rows against ACTIVE into an accumulator. -/
  | mstream (x : SysC)
  /-- MDRAIN (R204): Issues a drain of accumulator rows to QMO, to scratch or to global memory, converted to the output type. -/
  | mdrain (x : SysC)
  /-- MZERO (R205): Clears accumulator rows and their marks. -/
  | mzero (x : SysW)
  /-- MFMT (R199): Checks and installs the activation and weight formats. -/
  | mfmt (x : SysW)
  /-- EVPOP (R206): Pops one QCE entry into eight S registers, or writes zeros when QCE is empty. -/
  | evpop (x : SysW)
  /-- EVWAIT (R206): Waits for a QCE entry and pops it into eight S registers. -/
  | evwait (x : SysW)
  /-- KVLD (R210): Reads K or V row elements of a sequence by physical or original index, optionally with the original position. -/
  | kvld (x : MemW)
  /-- POSLD (R211): Reads the original position, or the mass counter, of a resolved slot. -/
  | posld (x : MemW)
  /-- MASSACC (R212): Adds probabilities as Q8.24 to the mass counters of resolved slots. -/
  | massacc (x : MaW)
  /-- EVICT (R213): Pushes an eviction command from 16 S registers to QEK. -/
  | evict (x : SysW)
  /-- SEQLOCK_ACQ (R215): Sets BUSY of a sequence descriptor, parking while it is set. -/
  | seqlockAcq (x : SysW)
  /-- SEQLOCK_REL (R215): Clears BUSY as a release at package scope. -/
  | seqlockRel (x : SysW)
  /-- SEQLOCK_TRY (R215): Sets BUSY if it was clear and writes success to a scalar predicate. -/
  | seqlockTry (x : SysW)
  /-- RDEF (R216): Defines or removes an entry of the context's region table. -/
  | rdef (x : SysC)
  /-- RSTAT (R217): Reads a region's conflict or merged-granule count for the task's revision. -/
  | rstat (x : SysW)
  /-- CSRR (R220): Reads a context control and status register. -/
  | csrr (x : SysJ)
  /-- CSRW (R220): Writes a context control and status register, with validation and privilege checks. -/
  | csrw (x : SysJ)
  /-- ECALL (R221): Waits for the counters, releases at system scope, writes a system call record 0x19 and parks the warp. -/
  | ecall (x : SysW)
  /-- SRET (R222): Supervisor returns a value to a warp parked by ECALL and resumes it. -/
  | sret (x : SysW)
  /-- PERFRD (R224): Reads a core or L2 event counter into an S pair. -/
  | perfrd (x : SysW)
  /-- RESUMEQ (R223): Supervisor restarts a parked warp, copy queue or matrix drain named by a resume identifier. -/
  | resumeq (x : SysW)
  /-- COUNTERS_DRAINED (R55): A terminator, TRAP or ECALL that waited for its four counters to reach zero proceeds with its sends or record. -/
  | countersDrained (uid : Nat)
  /-- WAIT_RELEASE (R181): A warp stalled at WAIT resumes once its counters fall to the limits. -/
  | waitRelease (uid : Nat)
  /-- COUNTER_STALL_RELEASE (R54): An instruction stalled because its counter would exceed 255 issues once the counter falls. -/
  | counterStallRelease (uid : Nat)
  /-- QUEUE_UNBLOCK (R63): A push blocked on a full queue, or a pop blocked on an empty one, is performed once room or an entry appears. -/
  | queueUnblock (uid : Nat)
  /-- BUSY_PARK_RELEASE (R209): A KVLD, POSLD or MASSACC parked on a busy sequence repeats its descriptor read once BUSY clears. -/
  | busyParkRelease (uid : Nat)
  /-- SEQLOCK_PARK_RELEASE (R215): A SEQLOCK.ACQ parked on a set BUSY retries once BUSY clears. -/
  | seqlockParkRelease (uid : Nat)
  /-- MATRIX_ISSUE_RELEASE (R193): A matrix instruction stalled at issue with 16 instructions waiting, or with another context owning the engine, issues once the stall clears. -/
  | matrixIssueRelease (uid : Nat)
  /-- HELD_TOKEN_VISIBLE (R116): A token held until the sending lane's earlier stores are performed becomes visible to its circuit. -/
  | heldTokenVisible (msg : Nat)
  /-- HELD_RELEASE_STORE (R167): A store carrying RLS that was held until its release holds is performed. -/
  | heldReleaseStore (op : Nat)
  /-- ACCESS_PERFORMED (R259): A load, store or engine write is performed at its coherence point, and the warp's counter is decremented. -/
  | accessPerformed (op piece : Nat) (upset : Upset)
  /-- STRED_ADDITION (R169): A reduction addition is performed indivisibly at the home L2, into an exact accumulator under DET = 1. -/
  | stredAddition (op group : Nat)
  /-- ATOMIC_STEP (R171): An atomic lane performs its indivisible read-modify-write at the home L2 and returns the old value. -/
  | atomicStep (op lane : Nat)
  /-- TOKEN_ARRIVAL (R230): The matching unit takes one token, checks it, writes its slot or hands it to the join logic, counts the arrival and enqueues a completed instance. -/
  | tokenArrival (src : Arrival)
  /-- ARM_ARRIVAL (R119): An ARM message is performed at the frame's core in circuit order and sets the counter's remaining count. -/
  | armArrival (msg : Nat)
  /-- FFREE_MESSAGE (R118): A remote release message reaches its core and releases the frame. -/
  | ffreeMessage (msg : Nat)
  /-- COLLISION_RETRY (R234): A collided token, or one held behind a parked instance, is retried from the collision ring in its order. -/
  | collisionRetry (ctx core : Nat)
  /-- PARKED_DESCRIPTOR_SCAN (R237): The scanner re-enqueues one parked descriptor per clock while descriptors are free. -/
  | parkedDescriptorScan (core : Nat)
  /-- GATHER_TIMEOUT (R238): The oldest instance of a bin group reaches its block's GATHER clocks and the group becomes eligible. -/
  | gatherTimeout (ctx core : Nat) (grp : GroupKey)
  /-- WARP_FORMATION (R240): The core chooses an eligible group, validates its header, forms a vector warp and places it on a partition. -/
  | warpFormation (core : Nat)
  /-- SEQUENCER_WARP_FORMATION (R243): The core forms a one-lane sequencer warp from an eligible sequencer bin group. -/
  | sequencerWarpFormation (core : Nat)
  /-- RANGE_SPAWN (R111): The range generator allocates one frame of the target block and sends its token, in increasing index. -/
  | rangeSpawn (ctx core : Nat)
  /-- SPAWN_QUEUE_PLACEMENT (R245): When frame space is freed on a core, the spawn queue places the oldest entries that fit there. -/
  | spawnQueuePlacement (die core : Nat)
  /-- FAULT_RING_ROOM (R387): A writer that waited on a full fault ring writes its record once RIDX leaves room. -/
  | faultRingRoom (ctx : Nat)
  /-- COPY_COMMAND (R184): The copy engine takes the next command of a queue, rejects it or refuses it for poison, or begins it. -/
  | copyCommand (ctx core q : Nat)
  /-- COPY_CHUNK (R184): The copy engine writes one 4 KiB chunk of a row, or parks its queue on a translation fault.
  `late`: source bytes that the chunk overwrites are read after it; for a copy to another device, that device answers that
  the context is absent there. -/
  | copyChunk (ctx core q : Nat) (late : Bool)
  /-- COPY_COMPLETION (R185): After its last write a copy command completes, placing an event in QCE and sending a token as requested. -/
  | copyCompletion (ctx core q : Nat)
  /-- MATRIX_INSTRUCTION_BEGIN (R193): The matrix engine begins the next issued matrix instruction in issue order once its engine-order waits are met. -/
  | matrixInstructionBegin (core : Nat)
  /-- MLDW_COMPLETION (R201): A weight load completes and marks SHADOW loaded with its format and poison mark. -/
  | mldwCompletion (core : Nat)
  /-- MSTREAM_ROW (R203): The matrix engine streams one activation row into its accumulator row. -/
  | mstreamRow (core : Nat)
  /-- MDRAIN_ROW (R204): The matrix engine converts and writes one accumulator row to its destination, or parks on a translation fault. -/
  | mdrainRow (core : Nat)
  /-- MATRIX_EVENT (R206): A matrix instruction carrying .EV completes and places an event in QCE. -/
  | matrixEvent (core : Nat)
  /-- SELECT_ENTRY (R153): The select unit performs the next QSI entry of a context: configure, push a row or pop a rank into QSO. -/
  | selectEntry (ctx core : Nat)
  /-- ENCKE_COMMAND (R214): Encke takes a QEK entry and validates it, rejecting it, refusing it for poison, or waiting for BUSY. -/
  | enckeCommand (ctx core : Nat)
  /-- EVICTION (R363): Having acquired BUSY, Encke translates, decays, ranks, compacts and rewrites the remap table, then completes and sends its token. -/
  | eviction (die : Nat) (at_ : EvictStep)
  /-- CHARON_MERGE (R349): Once every earlier-ordinal sibling has joined, Charon merges a completed child into its parent and sends the join token. -/
  | charonMerge (ctx child : Nat)
  /-- TASK_COMPLETION (R322): A task with nothing remaining completes: DONECNT is incremented, CREC is written and the completion token is sent. -/
  | taskCompletion (ctx task : Nat)
  /-- LAUNCH_PROCESSING (R319): The context manager takes a launch from the queue, checks the descriptor, assigns a task index and places the entry frame or gang. -/
  | launchProcessing (ctx : Nat)
  /-- GANG_PLACEMENT (R276): Once a set of cores is free, a gang's windows, retire join, group and thread tokens are created. -/
  | gangPlacement (die idx : Nat) (cores : List Nat)
  /-- POWER_GRANT (R405): The die's governor grants leave to the request at the head of its queue when budget and ramp allow. -/
  | powerGrant (die : Nat)
  /-- RAMP_WINDOW (R405): A 1,024-clock window of the governor ends and the count of grants restarts. -/
  | rampWindow (die : Nat)
  /-- SLOT_CHOICE (R323): A core chooses a waiter by effective priority and pre-empts a lower holder or one past its quantum. -/
  | slotChoice (core : Nat)
  /-- QUANTUM_EXPIRY (R323): A waiter completes a quantum of waiting, or a holder completes its quantum in its slot. -/
  | quantumExpiry (ctx core : Nat)
  /-- PREEMPTION_HALT (R325): A core halts the context at an instruction boundary within 3,800 clocks of a request. -/
  | preemptionHalt (ctx core : Nat)
  /-- IMAGE_CUT (R326): After the halt, a core performs the outstanding operations, cuts the image into the save area and releases the slot. -/
  | imageCut (ctx core : Nat)
  /-- SHARE_RESTORE (R327): A saved share is restored to its logical core and its spill ring entries are replayed in order. -/
  | shareRestore (ctx core : Nat)
  /-- CONTEXT_DISCARD_COMPLETE (R312): Every core has discarded an ending context's share, and the context becomes IDLE. -/
  | contextDiscardComplete (ctx : Nat)
  /-- CCFG (R314): A host write of a context configuration block address is checked and configures or reconfigures the context. -/
  | ccfg (ctx : Nat) (addr : BitVec 64)
  /-- SWAPOUT (R312): CCMD command that pre-empts every core share of an ACTIVE context. -/
  | swapout (ctx : Nat)
  /-- SWAPIN (R312): CCMD command that makes a SWAPPED context ACTIVE and restores its shares. -/
  | swapin (ctx : Nat)
  /-- CONTEXT_END (R312): CCMD END command, which discards the context's state and writes record 0x32. -/
  | contextEnd (ctx : Nat)
  /-- CONTINUE (R312): CCMD command that restores a SUSPENDED context and replays its held item. -/
  | contextContinue (ctx : Nat)
  /-- FREE (R312): CCMD command that returns an IDLE context to FREE. -/
  | contextFree (ctx : Nat)
  /-- RESUME (R337): A host write of a resume identifier restarts the parked warp, queue or engine, or is ignored and counted. -/
  | resume (ctx : Nat) (val : BitVec 64)
  /-- LAUNCH (R319): A host write of a task descriptor address enters the context's launch queue, or is discarded with status 9. -/
  | launch (ctx : Nat) (addr : BitVec 64)
  /-- INVGO (R334): Starts a re-latch request for a range of a context at every core and engine. -/
  | invgo
  /-- INVALIDATION_DONE (R334): All units have acknowledged a re-latch request; BUSY clears and DONE sets. -/
  | invalidationDone
  /-- RPADD (R345): Adds a chunk of device memory to a context's revision pool as 4 KiB pages. -/
  | rpadd (ctx : Nat) (val : BitVec 64)
  /-- HELD_HOST_WRITE (R346): A host write held for lack of a pool page is performed once a page is free. -/
  | heldHostWrite (idx : Nat)
  /-- HOST_MEMORY_ACCESS (R266): A host CXL.mem access to device memory is performed at the home L2, or at HBM for HDIRECT pages. -/
  | hostMemoryAccess (acc : HostAcc)
  /-- EVENT_SELECTION_WRITE (R415): A write to an event counter's selection sets its source and clears it. -/
  | eventSelectionWrite (off : Nat) (val : Word)
  /-- REGISTER_WRITE (R400): A write to a BAR0 register with no behaviour of its own is stored, or ignored where read-only or undefined. -/
  | registerWrite (off size : Nat) (val : BitVec 64)
  /-- SENSORS (R411): Mailbox command that writes the latest sensor samples to a buffer. -/
  | sensors
  /-- LOGREAD (R411): Mailbox command that writes and removes the oldest unread log entries. -/
  | logread
  /-- LIFEREAD (R411): Mailbox command that writes the life histograms. -/
  | liferead
  /-- RETIRED (R411): Mailbox command that writes the retired frame list. -/
  | retired
  /-- SETPWR (R411): Mailbox command that sets PWRBUD and PWRRAMP of every die and the thermal ceiling. -/
  | setpwr
  /-- SETSPLIT (R411): Mailbox command that writes HBMSPLIT while every context is FREE. -/
  | setsplit
  /-- SETDEV (R411): Mailbox command that sets the device number while every context is FREE. -/
  | setdev
  /-- ROUTES (R411): Mailbox command that replaces the route table. -/
  | routes
  /-- SCRUB (R411): Mailbox command that sets the patrol scrub interval. -/
  | scrub
  /-- SETMODE (R413): Mailbox command that sets BOOTSTAT.STATE to normal, start-up, test or recovery mode. -/
  | setmode
  /-- FWSTAGE (R412): Mailbox command that copies a firmware image, checks its signature, digests and version, and writes it to the other slot. -/
  | fwstage
  /-- FWACT (R411): Mailbox command that selects a verified slot to boot next. -/
  | fwact
  /-- ATTEST (R414): Mailbox command that writes a signed attestation report over a nonce. -/
  | attest
  /-- WATCHDOG_EXPIRY (R391): A context's issue-free clocks on a core reach WDOGLIM × 2^20 and the context is ended with cause 0x0002. -/
  | watchdogExpiry (ctx core : Nat)
  /-- SENSOR_SAMPLE (R408): Every 1 ms Deimos samples the sensors and lowers, raises or cuts die budgets on power and temperature. -/
  | sensorSample (sample : Sample)
  /-- LIFE_HISTOGRAM_FLUSH (R409): Hourly, and at orderly shutdown, Deimos writes the life histograms to flash. -/
  | lifeHistogramFlush
  /-- HEAT_WINDOW (R338): At the end of a heat window, or when a TLB entry leaves, the core appends a page heat record. `page` is its virtual
  address ÷ 2^16; `leaves` says that the entry leaves. -/
  | heatWindow (core ctx page : Nat) (elements stalls : Word) (leaves : Bool)
  /-- PATROL_SCRUB (R394): Once per interval, the scrub reads each stack, corrects single-bit errors and marks uncorrectable lines. -/
  | patrolScrub (stack : Nat) (badLines badFrames : List Nat)
  /-- BOOT (R396): At reset, cores are tested and spared, HBM rows are repaired, firmware is verified and measured, and BOOTSTAT is set. -/
  | boot (res : BootResult)
  /-- CORE_FAILURE (R397): A core unit fails in service; contexts on it are ended with cause 0x0003 and the core goes offline. -/
  | coreFailure (core unit : Nat)
  /-- UNIT_FAILURE (R398): A failure outside the cores ends every resident context and puts the device in recovery mode. -/
  | unitFailure (unit die : Nat)
  /-- LINK_DOWN (R404): A device link goes down; items on circuits bound to it are dropped with reason 7, or end with copy status 3. -/
  | linkDown (link : Nat)
  /-- HOST_LINK_FAILURE (R402): The host link fails in service; contexts keep running while host accesses fail. -/
  | hostLinkFailure
  /-- MAILBOX_COMMAND_DONE (R410): Deimos finishes a mailbox command, writes its status with BUSY cleared and sends the MSI-X vector if enabled. -/
  | mailboxCommandDone
  /-- L1_LINE_DEPARTURE (R260): A line leaves a core's L1 at any time for any reason, so later .CA loads are served from the home L2. -/
  | l1LineDeparture (core line : Nat)
  /-- L2_SECTOR_WRITEBACK (R268): The home L2 writes dirty 32-byte sectors back to HBM on displacement, which HDIRECT host reads then observe. -/
  | l2SectorWriteback (sector : Nat)
  /-- DEVICE_LINK_UP (R404): A device link trains and comes up, or changes its DEGRADED state, which DLSTAT reports and which lets circuits be rebound at the next CCFG or SWAPIN. -/
  | deviceLinkUp (link peer : Nat) (degraded : Bool)
  /-- DEVICE_LINK_COPY_TRAFFIC (R403): CPY traffic with DSP 2 arrives from another device, is translated in the context of the same number and written, or is answered as unreachable when that context is absent. -/
  | deviceLinkCopyTraffic (ctx : Nat) (va : Nat) (bytes : List Byte)
  /-- POWER_LOSS (R409): Module power is lost, so HBM contents and up to one hour of life-histogram counts are lost until the next boot. -/
  | powerLoss
deriving DecidableEq, Repr

end Sys2Proof
end

