-- ==== Sys2Proof/Machine/Legal.lean ====
section
/-! DEFINITION. Which instruction words are legal (R66, R74, R75, R77, R88 and the field rules of each instruction),
which registers a word names (R20, R49), which kinds of warp may issue it (R89) and its mnemonic. -/

namespace Sys2Proof

/-! ### Types and specifiers -/

/-- 64-bit element types: a register pair (R20). -/
def Ty.wide : Ty → Bool
  | .i64 | .u64 | .f64 => true
  | _ => false

/-- Registers an operand of the type takes. -/
def Ty.regs (t : Ty) : Nat := if t.wide then 2 else 1

/-- The integer types 0x0 to 0x3 and 0xA to 0xD ("all" of R123). -/
def Ty.intAll : Ty → Bool
  | .i32 | .u32 | .i64 | .u64 | .i16x2 | .u16x2 | .i8x4 | .u8x4 => true
  | _ => false

/-- The integer types 0x0 to 0x3 ("scalar" of R123). -/
def Ty.intScalar : Ty → Bool
  | .i32 | .u32 | .i64 | .u64 => true
  | _ => false

/-- The integer types 0x0 and 0x1 ("32" of R123). -/
def Ty.int32 : Ty → Bool
  | .i32 | .u32 => true
  | _ => false

/-- The types `IABS` takes (R123). -/
def Ty.absTy : Ty → Bool
  | .i32 | .i64 | .i16x2 | .i8x4 => true
  | _ => false

/-- The floating types 0x4 to 0x9 ("all" of R133). -/
def Ty.fltAll : Ty → Bool
  | .f32 | .f64 | .f16 | .bf16 | .f16x2 | .bf16x2 => true
  | _ => false

/-- The floating types 0x4 to 0x7 ("scalar" of R133). -/
def Ty.fltScalar : Ty → Bool
  | .f32 | .f64 | .f16 | .bf16 => true
  | _ => false

/-- The packed half types 0x8 and 0x9 (R138). -/
def Ty.fltPacked : Ty → Bool
  | .f16x2 | .bf16x2 => true
  | _ => false

/-- A vector operand: V, S, O or L register or an inline immediate (R47, R50, R51, R65). -/
def Spec.isSrc : Spec → Bool
  | .v _ | .s _ | .o _ | .l _ | .imm _ => true
  | _ => false

/-- A uniform operand: S register or inline immediate (R148). -/
def Spec.isUni : Spec → Bool
  | .s _ | .imm _ => true
  | _ => false

/-- A register that any word may read: V, S, O or L (R47, R50, R51). -/
def Spec.isReg : Spec → Bool
  | .v _ | .s _ | .o _ | .l _ => true
  | _ => false

/-- A V register. -/
def Spec.isV : Spec → Bool
  | .v _ => true
  | _ => false

/-- An S register. -/
def Spec.isS : Spec → Bool
  | .s _ => true
  | _ => false

/-- A field that must be zero (R75, R88). -/
def Spec.isZero (x : Spec) : Bool := x = .v 0

/-- The memory index or base immediate 0x300 (R79). -/
def Spec.isImm0 (x : Spec) : Bool := x = .imm 0

/-- The field of a second source that must be zero. -/
def Opd.isZero (x : Opd) : Bool := x = .spec (.v 0)

/-- A second source of the vector form: any source specifier or IMM32. -/
def Opd.isSrc : Opd → Bool
  | .spec x => x.isSrc
  | .imm32 _ => true

/-- A uniform second source: S register, inline immediate or IMM32. -/
def Opd.isUni : Opd → Bool
  | .spec x => x.isUni
  | .imm32 _ => true

/-- Whether a register group of `n` registers starts where it may: pairs at even numbers, groups of four at
multiples of four (R20, R80). -/
def Spec.aligned (n : Nat) : Spec → Bool
  | .v r => n = 0 || r.toNat % n = 0
  | .s r => n = 0 || r.toNat % n = 0
  | .o r => n = 0 || r.toNat % n = 0 && r.toNat + n ≤ 8
  | .l r => n ≤ 1 || n = 2 && r = 0
  | _ => true

/-! ### Registers a word names -/

/-- One use of a specifier: how many consecutive registers, and their alignment. -/
structure Use where
  spec : Spec
  count : Nat := 1
  align : Nat := 1
deriving DecidableEq, Repr

/-- A use of the registers of one operand of type `t`. -/
def useTy (x : Spec) (t : Ty) : Use := { spec := x, count := t.regs, align := t.regs }

/-- The uses of a second source. -/
def Opd.use (x : Opd) (n : Nat) : List Use :=
  match x with
  | .spec y => [{ spec := y, count := n, align := n }]
  | .imm32 _ => []

/-- Destination registers of a word with OEN and NODST (R74): the D field is no destination under NODST. -/
def dUse (c : Ctl) (d : Spec) (n : Nat) : List Use :=
  (if c.nodst then [] else [{ spec := d, count := n, align := n }]) ++
  (if c.oen then [{ spec := .o c.oidx, count := n, align := n }] else [])

/-- A V register of a clause field (R81). -/
def vUse (n : BitVec 6) : Use := { spec := .v (n.zeroExtend 8) }

/-- The uses of one clause; an unused clause names no register. -/
def Clause.uses (c : Clause) : List Use :=
  if c.cpred = 15 then [] else [vUse c.fr, vUse c.pl, vUse c.tg]

/-- Registers an element of a memory access takes, by ESZ (R80). -/
def eszRegs (esz : BitVec 3) : Nat := if esz = 5 then 2 else if esz = 6 then 4 else 1

/-- The uses of a memory word's base and index: an S base is a pair for global memory (R79). -/
def memAddrUses (x : MemW) (globalBase : Bool) : List Use :=
  (match x.a with
    | .s r => [{ spec := .s r, count := if globalBase then 2 else 1, align := if globalBase then 2 else 1 }]
    | _ => []) ++ [{ spec := x.b }]

/-- The uses of an MA word's base and index. -/
def maAddrUses (x : MaW) : List Use :=
  (match x.a with
    | .s r => [{ spec := .s r, count := 2, align := 2 }]
    | _ => []) ++ [{ spec := x.b }]

/-- A slot with COP 0 (R83). -/
def Slot.isEmpty (x : Slot) : Bool := x.cop = 0

/-- Sources a slot reads: A, B and for `IMAD`, `LEA` and `FFMA` also C (R83). -/
def Slot.srcs (x : Slot) (isX : Bool) : List Spec :=
  if x.isEmpty then []
  else if isX then
    (if x.cop = 14 then [x.a] else if x.cop = 4 || x.cop = 17 then [x.a, x.b, x.c] else [x.a, x.b])
  else (if x.cop = 4 then [x.a, x.b, x.c] else [x.a, x.b])

/-- Whether a slot is a compare, which writes a predicate (R82). -/
def Slot.isCmp (x : Slot) (isX : Bool) : Bool := if isX then x.cop = 16 else x.cop = 7

/-- The uses of a slot. -/
def Slot.uses (x : Slot) (isX : Bool) : List Use :=
  (x.srcs isX).map (fun y => { spec := y }) ++
  (if x.isEmpty || x.isCmp isX then [] else [{ spec := x.d }])

/-- Registers of an ALU word with destination, first and second source of `nd`, `na` and `nb` registers. -/
def alu2Uses (x : Alu2) (nd na nb : Nat) : List Use :=
  dUse x.ctl x.d nd ++ [{ spec := x.a, count := na, align := na }] ++ x.b.use nb

/-- As `alu2Uses`, with the third source of `nc` registers. -/
def alu3Uses (x : Alu3) (nd na nb nc : Nat) : List Use :=
  dUse x.ctl x.d nd ++ [{ spec := x.a, count := na, align := na }, { spec := x.b, count := nb, align := nb },
    { spec := x.c, count := nc, align := nc }]

/-- The 6-bit MOD2 of `FCVT` read as a source descriptor index (bits 5:3) (R140). -/
def mod2Src (m : BitVec 6) : Nat := m.toNat / 8

/-- The 6-bit MOD2 read as a destination descriptor index (bits 2:0) (R140). -/
def mod2Dst (m : BitVec 6) : Nat := m.toNat % 8

/-- The wide type that an FN code 0x4 to 0x9 of a conversion names (R140). -/
def fltOfFn (fn : BitVec 4) : Option Ty :=
  match fn.toNat with
  | 4 => some .f32
  | 5 => some .f64
  | 6 => some .f16
  | 7 => some .bf16
  | 8 => some .f16x2
  | 9 => some .bf16x2
  | _ => none

/-- The type that an FN code 0x0 to 0x7 of `ICVT` names (R140). -/
def icvtOfFn (fn : BitVec 4) : Option Ty :=
  match fn.toNat with
  | 0 => some .i32
  | 1 => some .u32
  | 2 => some .i64
  | 3 => some .u64
  | 4 => some .f32
  | 5 => some .f64
  | 6 => some .f16
  | 7 => some .bf16
  | _ => none

/-- Registers of the source of an `FCVT` (R140): a pair for binary64, one otherwise. -/
def fcvtSrcRegs (x : Alu3) : Nat := if x.fn = 5 then 2 else 1

/-- Registers of the destination of an `FCVT`. -/
def fcvtDstRegs (x : Alu3) : Nat := if x.xf then 1 else x.ty.regs

/-- Every use of a register by a word (R20, R49). An event names none. -/
def Instr.uses : Instr → List Use
  | .endK x | .endR x => x.c0.uses ++ x.c1.uses ++ x.c2.uses ++ x.c3.uses
  | .send x => [{ spec := x.a }, { spec := x.b }, { spec := x.c }] ++ (if x.mod2.getLsbD 0 then [{ spec := x.d }] else [])
  | .sendm x => [{ spec := x.a }, { spec := x.b }, { spec := x.c }]
  | .arm x => [{ spec := x.a }] ++ x.b.use 1
  | .falloc x => [{ spec := x.d }, { spec := x.a }]
  | .ffree x => [{ spec := x.a }]
  | .ldf x | .stf x =>
    [{ spec := x.d, count := eszRegs x.esz, align := eszRegs x.esz }, { spec := x.b }]
  | .tcset x => (if x.d.isZero then [] else [{ spec := x.d }]) ++ (match x.b with
    | .spec y => [{ spec := x.a }, { spec := y }]
    | .imm32 _ => [])
  | .iadd x | .isub x | .imul x | .imin x | .imax x | .and x | .or x | .xor x | .andn x =>
    alu2Uses x x.ty.regs x.ty.regs x.ty.regs
  | .imulh x => alu2Uses x 1 1 1
  | .iabs x | .brev x | .hash x => alu2Uses { x with b := .imm32 0 } x.ty.regs x.ty.regs 1
  | .shl x | .shr x | .sar x | .rot x => alu2Uses x x.ty.regs x.ty.regs 1
  | .popc x | .clz x | .ctz x => alu2Uses { x with b := .imm32 0 } 1 x.ty.regs 1
  | .imad x => alu3Uses x x.ty.regs x.ty.regs x.ty.regs x.ty.regs
  | .imadw x => alu3Uses x 2 1 1 2
  | .bfe x => alu3Uses x x.ty.regs x.ty.regs 1 1
  | .bfi x => alu3Uses x x.ty.regs x.ty.regs x.ty.regs 1
  | .lea x => alu3Uses x x.ty.regs x.ty.regs 1 1
  | .iaddc x => dUse x.ctl x.d 1 ++ [{ spec := x.a }, { spec := x.b }]
  | .isel x => dUse x.ctl x.d x.ty.regs ++ [useTy x.a x.ty, useTy x.b x.ty]
  | .isetp x | .fsetp x => useTy x.a x.ty :: x.b.use x.ty.regs
  | .mov x => alu2Uses { x with b := .imm32 0 } x.ty.regs x.ty.regs 1
  | .movi x | .movs x => dUse x.ctl x.d x.ty.regs
  | .fadd x | .fsub x | .fmul x | .fmin x | .fmax x => alu2Uses x x.ty.regs x.ty.regs x.ty.regs
  | .fclass x => alu2Uses { x with b := .imm32 0 } 1 x.ty.regs 1
  | .frnd x | .rcp x | .rsq x | .sqrt x | .exp2 x | .log2 x | .sin x | .cos x | .tanh x | .sigm x =>
    alu2Uses { x with b := .imm32 0 } x.ty.regs x.ty.regs 1
  | .fscale x => alu2Uses x x.ty.regs x.ty.regs 1
  | .ffma x => alu3Uses x x.ty.regs x.ty.regs x.ty.regs x.ty.regs
  | .fdot2 x | .fdot4 x => alu3Uses x 1 1 1 1
  | .fcvt x => dUse x.ctl x.d (fcvtDstRegs x) ++
    [{ spec := x.a, count := fcvtSrcRegs x, align := fcvtSrcRegs x }] ++
    (if x.xf || x.fn = 15 then [{ spec := x.b }, { spec := x.c }] else [])
  | .icvt x => dUse x.ctl x.d x.ty.regs ++
    [{ spec := x.a, count := if x.fn = 2 || x.fn = 3 || x.fn = 5 then 2 else 1,
       align := if x.fn = 2 || x.fn = 3 || x.fn = 5 then 2 else 1 }]
  | .cvtn x => dUse x.ctl x.d 1 ++ (if x.fn = 1 then [] else [{ spec := x.a }, { spec := x.b }]) ++ [{ spec := x.c }]
  | .lshuf x => [useTy x.d x.ty, useTy x.a x.ty] ++ x.b.use 1
  | .lscan x => [useTy x.d x.ty, useTy x.a x.ty] ++ x.b.use x.ty.regs
  | .lbcast x => [useTy x.d x.ty, useTy x.a x.ty] ++ (if x.fn = 1 then [] else x.b.use 1)
  | .lred x => [useTy x.d x.ty, useTy x.a x.ty]
  | .lvote x => if x.fn = 3 then [{ spec := .v x.d }] else []
  | .lcnt x => [{ spec := .v x.d }]
  | .selcfg x => [{ spec := x.a }] ++ x.b.use 1
  | .selpush x => [{ spec := x.a }] ++ (if x.fn = 1 then x.b.use 1 else [])
  | .selpop x => [{ spec := x.d }, { spec := x.a }]
  | .ld x | .st x => [{ spec := x.d, count := eszRegs x.esz, align := eszRegs x.esz }] ++ memAddrUses x true
  | .lds x | .sts x => [{ spec := x.d, count := eszRegs x.esz, align := eszRegs x.esz }] ++ memAddrUses x false
  | .ldx x | .stx x => [{ spec := x.d, count := eszRegs x.esz, align := eszRegs x.esz },
      { spec := x.b, count := 2, align := 2 }]
  | .ldz x => [{ spec := x.d, count := 2, align := 1 }] ++ memAddrUses x true
  | .stz x => [{ spec := x.d, count := 2, align := 2 }] ++ memAddrUses x true
  | .pref x => memAddrUses x true
  | .kvld x => [{ spec := x.d, count := eszRegs x.esz + (if x.sub.getLsbD 1 then 1 else 0), align := eszRegs x.esz }] ++
      memAddrUses x true
  | .posld x => [{ spec := x.d }] ++ memAddrUses x true
  | .massacc x => [{ spec := x.c }] ++ maAddrUses x
  | .stred x | .red x => [{ spec := x.c, count := eszRegs x.esz, align := eszRegs x.esz }] ++ maAddrUses x
  | .atom x => [{ spec := x.c, count := eszRegs x.esz, align := eszRegs x.esz }] ++
      (if x.cp = 2 && x.sub = 1 then [{ spec := x.c2, count := eszRegs x.esz, align := eszRegs x.esz }] else []) ++
      (if x.d.isImm0 then [] else [{ spec := x.d, count := eszRegs x.esz, align := eszRegs x.esz }]) ++ maAddrUses x
  | .cinvL2 x | .cflush x => [{ spec := x.a, count := 2, align := 2 }, { spec := x.b }]
  | .bind x => [{ spec := x.a, count := 2, align := 2 }, { spec := x.b }]
  | .qpush x => [{ spec := x.a, count := x.fn.toNat + 1 }]
  | .qpop x => [{ spec := x.d, count := x.fn.toNat + 1 }]
  | .cpy x => [{ spec := x.a, count := 16, align := 16 }]
  | .evict x => [{ spec := x.a, count := 16, align := 16 }]
  | .mldw x => (if x.fn.getLsbD 1 then [{ spec := x.d }] else []) ++ (if x.fn.getLsbD 0 then [{ spec := x.a }] else [])
  | .mstream x => (if x.fn.getLsbD 2 then [{ spec := x.d }] else []) ++ [{ spec := x.a }, { spec := x.b }] ++
      (if x.fn.getLsbD 1 then [{ spec := x.c }] else [])
  | .mdrain x => (if x.fn.getLsbD 3 then [{ spec := x.d }] else []) ++ [{ spec := x.a }, { spec := x.b }] ++
      (if x.fn.toNat / 2 % 4 = 1 then [{ spec := x.c }] else
       if x.fn.toNat / 2 % 4 = 2 then [{ spec := x.c, count := 2, align := 2 }] else [])
  | .mzero x => if x.fn.getLsbD 1 then [] else [{ spec := x.a }, { spec := x.b }]
  | .evpop x | .evwait x => [{ spec := x.d, count := 8, align := 8 }]
  | .seqlockAcq x | .seqlockRel x | .seqlockTry x => [{ spec := x.a, count := 2, align := 2 }]
  | .rdef x => if x.fn = 1 then [{ spec := x.c }]
      else [{ spec := x.a, count := 2, align := 2 }, { spec := x.b }, { spec := x.c }]
  | .rstat x => [{ spec := x.d }, { spec := x.a }]
  | .csrr x => [{ spec := x.d }]
  | .csrw x => [{ spec := x.a }]
  | .ecall x => [{ spec := x.d }, { spec := x.a }]
  | .sret x => [{ spec := x.a }, { spec := x.b }]
  | .perfrd x => [{ spec := x.d, count := 2, align := 2 }, { spec := x.a }]
  | .resumeq x => [{ spec := x.a }]
  | .pairWord x => x.x.uses true ++ x.y.uses false
  | .vloop x | .vlooprAdd x | .vlooprMin x | .vlooprMax x => [{ spec := .s (BitVec.ofNat 8 (8 * (x.sblk.toNat % 32))), count := 8 }]
  | _ => []

/-- Whether every register of a use lies below the declared counts (R49). -/
def Use.inside (vregs sregs : Nat) (u : Use) : Bool :=
  match u.spec with
  | .v r => r.toNat + u.count ≤ vregs
  | .s r => r.toNat + u.count ≤ sregs
  | _ => true

/-- Every register of the word lies below the block's declared V and S counts (R49). -/
def Instr.inside (i : Instr) (vregs sregs : Nat) : Bool := i.uses.all (Use.inside vregs sregs)

/-! ### Legal field values -/

/-- CTL with only YLD set, if anything (R74; DEDUCED, log entry 9). -/
def Ctl.onlyYld (c : Ctl) : Bool := !c.sc && !c.oen && c.oidx = 0 && !c.nodst && !c.rls

/-- CTL all zero (DEDUCED, log entry 9). -/
def Ctl.zero (c : Ctl) : Bool := c.onlyYld && !c.yld

/-- CTL with only YLD and RLS (R74). -/
def Ctl.yldRls (c : Ctl) : Bool := !c.sc && !c.oen && c.oidx = 0 && !c.nodst

/-- The O-register bits of CTL on a word that writes a V destination `d` (R74; DEDUCED, log entry 8). -/
def Ctl.oOk (c : Ctl) (d : Spec) : Bool :=
  if c.oen then !c.sc && d.isV && (!c.nodst || d.isZero) else c.oidx = 0 && !c.nodst

/-- PR 7 and PN 0. -/
def Guard.always (g : Guard) : Bool := g.pr = 7 && !g.pn

/-- PR of a word with the scalar bit names SP0-SP3 or 7 (R52). -/
def Guard.okFor (g : Guard) (sc : Bool) : Bool := !sc || g.pr.toNat < 4 || g.pr = 7

/-- CTL and operands of a word of OPC 0x10 to 0x3F with a register destination (R50, R74, R122). -/
def intForm (g : Guard) (c : Ctl) (d : Spec) (srcs : List Spec) : Bool :=
  !c.rls && c.oOk d && g.okFor c.sc &&
  (if c.sc then d.isS && srcs.all Spec.isUni else d.isV && srcs.all Spec.isSrc)

/-- The specifiers of a second source. -/
def Opd.specs : Opd → List Spec
  | .spec x => [x]
  | .imm32 _ => []

/-- Two-source integer words (R122, R123). -/
def intLegal2 (tys : Ty → Bool) (satOk : Bool) (x : Alu2) : Bool :=
  tys x.ty && x.rnd = .rne && (!x.xf || satOk) && x.fn = 0 && intForm x.g x.ctl x.d (x.a :: x.b.specs)

/-- One-source integer words (R123). -/
def intLegal1 (tys : Ty → Bool) (satOk : Bool) (x : Alu2) : Bool :=
  tys x.ty && x.rnd = .rne && (!x.xf || satOk) && x.fn = 0 && x.b.isZero && intForm x.g x.ctl x.d [x.a]

/-- Three-source integer words (R123). An inline immediate stands in C only where `immC` says so (R76; DEDUCED, log
entry 83). -/
def intLegal3 (tys : Ty → Bool) (immC : Bool) (x : Alu3) : Bool :=
  tys x.ty && x.rnd = .rne && !x.xf && x.fn = 0 && x.mod2 = 0 && (immC || x.c.isReg) && intForm x.g x.ctl x.d [x.a, x.b, x.c]

/-- CTL of a floating-point word: no scalar form (R132). -/
def fltForm (c : Ctl) (d : Spec) (srcs : List Spec) : Bool :=
  !c.sc && !c.rls && c.oOk d && d.isV && srcs.all Spec.isSrc

/-- Two-source floating-point words (R132, R133). -/
def fltLegal2 (rounds xfOk : Bool) (x : Alu2) : Bool :=
  x.ty.fltAll && (rounds || x.rnd = .rne) && (xfOk || !x.xf) && x.fn = 0 && fltForm x.ctl x.d (x.a :: x.b.specs)

/-- One-source floating-point words (R133, R136, R137, R146). -/
def fltLegal1 (tys : Ty → Bool) (rounds : Bool) (x : Alu2) : Bool :=
  tys x.ty && (rounds || x.rnd = .rne) && !x.xf && x.fn = 0 && x.b.isZero && fltForm x.ctl x.d [x.a]

/-- Types of the special functions beyond `RCP`, `RSQ` and `SQRT` (R146). -/
def Ty.sfuTy (t : Ty) : Bool := t.fltAll && t ≠ .f64

/-- `FCVT` encodings (R140). C is a source that is not read where no narrow side has a scale, and between wide types it
names nothing (DEDUCED, log entry 52). -/
def fcvtLegal (x : Alu3) : Bool :=
  let srcNarrow := x.fn = 15
  let srcTy := fltOfFn x.fn
  let narrow := x.xf || srcNarrow
  (srcNarrow || srcTy.isSome) &&
  (if x.xf then x.ty = .u32 else x.ty.fltAll) &&
  (if srcNarrow then true else x.mod2.toNat / 8 = 0) &&
  (if x.xf then true else x.mod2.toNat % 8 = 0) &&
  (if srcNarrow || x.xf then true else
    (match srcTy with | some t => t.fltPacked = x.ty.fltPacked | none => false)) &&
  (if narrow then x.b.isSrc else x.b.isZero) && x.c.isSrc &&
  fltForm x.ctl x.d [x.a]

/-- `ICVT` encodings (R140): exactly one side is an integer type. -/
def icvtLegal (x : Alu3) : Bool :=
  (match icvtOfFn x.fn with
    | some t => (t.intScalar && x.ty.fltScalar) || (t.fltScalar && x.ty.intScalar)
    | none => false) &&
  !x.xf && x.mod2 = 0 && x.b.isZero && x.c.isZero && fltForm x.ctl x.d [x.a]

/-- `CVTN` encodings (R140, R144). -/
def cvtnLegal (x : Alu3) : Bool :=
  (x.ty = .f32 || x.ty = .f16 || x.ty = .bf16 || x.ty.fltPacked) && !x.xf && x.mod2.toNat / 8 = 0 &&
  (if x.fn = 0 then x.b.isSrc && x.a.isSrc
   else x.fn = 1 && x.a.isZero && x.b.isZero && x.rnd = .rne) &&
  x.c.isReg && fltForm x.ctl x.d []

/-- CTL of the cross-lane and select words (R74, R148): only YLD. -/
def laneForm (x : Alu2) : Bool := x.ctl.onlyYld && !x.xf

/-- RND of `LSCAN` and `LRED` (R148). -/
def scanRnd (x : Alu2) : Bool :=
  if x.ty.fltAll && x.fn.toNat % 4 = 0 then x.rnd ≠ .sr else x.rnd = .rne

/-- The type codes 0x0 to 0x9. -/
def Ty.scanTy (t : Ty) : Bool := t.intScalar || t.fltAll

/-- `MOVS` (R129): which special registers each TYPE and FN accept. -/
def movsLegal (x : Alu2) : Bool :=
  x.rnd = .rne && !x.xf && x.b.isZero && !x.ctl.rls && x.ctl.oOk x.d && x.g.okFor x.ctl.sc &&
  (if x.ctl.sc then x.d.isS else x.d.isV) &&
  (match x.a with
    | .sp r =>
      ((x.fn = 0 && (x.ty = .u32 || x.ty = .u64 && r = .clk)) || (x.fn = 1 && x.ty = .u32 && r = .fpl)) &&
      (!x.ctl.sc || !(r = .fpl || r = .tag || r = .lane))
    | _ => false)

/-- Queues a program may push to (R61). -/
def Queue.isPush : Queue → Bool
  | .qma | .qmw | .qca | .qcb | .qsi | .qek => true
  | _ => false

/-- Queues a program may pop with `QPOP` or `MOV` (R61): `QCE` is popped by `EVPOP` and `EVWAIT` only. -/
def Queue.isPop : Queue → Bool
  | .qmo | .qso => true
  | _ => false

/-- Queues that a sequencer warp may push to (R61). -/
def Queue.seqOk : Queue → Bool
  | .qca | .qcb | .qek => true
  | _ => false

/-- The depth of each queue (R61). -/
def Queue.depth : Queue → Nat
  | .qma | .qmw | .qmo => 64
  | .qca | .qcb => 16
  | .qce | .qsi | .qso => 32
  | .qek => 8

/-- `MOV` (R129), its queue forms included, a queue in both places among them (R66; DEDUCED, log entry 53). -/
def movLegal (x : Alu2) : Bool :=
  x.ty.intAll && x.rnd = .rne && !x.xf && x.fn = 0 && x.b.isZero && !x.ctl.rls && x.g.okFor x.ctl.sc &&
  (match x.d, x.a with
    | .q r, .q k => r.isPush && k.isPop && x.ty.int32 && x.ctl.onlyYld
    | .q r, a => r.isPush && a.isSrc && x.ty.int32 && x.ctl.onlyYld
    | .v _, .q r => r.isPop && x.ty.int32 && !x.ctl.sc && x.ctl.oOk x.d
    | .o _, .q r => r.isPop && x.ty.int32 && x.ctl.onlyYld
    | .o _, a => x.ctl.onlyYld && a.isSrc
    | d, a => x.ctl.oOk x.d && (if x.ctl.sc then d.isS && a.isUni else d.isV && a.isSrc))

/-- SCOPE codes (R80). -/
def scopeOk (s : BitVec 3) : Bool := s.toNat < 6

/-- The base of a global operand: T register, S pair or the inline immediate 0 (R160). -/
def gBase : Spec → Bool
  | .t _ | .s _ => true
  | x => x.isImm0

/-- The index of a memory operand: V or S register or the inline immediate 0 (R79). -/
def mIndex : Spec → Bool
  | .v _ | .s _ => true
  | x => x.isImm0

/-- V or S register. -/
def Spec.isVS : Spec → Bool
  | .v _ | .s _ => true
  | _ => false

/-- RLS and SCOPE of a store (R80): SCOPE names a scope only under RLS, and a descriptor under `.NFn`. -/
def storeScope (rls : Bool) (esz : BitVec 3) (scope : BitVec 3) : Bool :=
  if esz = 7 then !rls else if rls then scopeOk scope else scope = 0

/-- Fields that every load shares (R80): no release; SCOPE only as a descriptor index. -/
def loadScope (c : Ctl) (esz : BitVec 3) (scope : BitVec 3) : Bool :=
  c.onlyYld && (esz = 7 || scope = 0)

/-- The atomic operation number of R170. -/
def MaW.op (x : MaW) : Nat := 4 * x.cp.toNat + x.sub.toNat

/-- ESZ `.B32` or `.B64`. -/
def esz48 (e : BitVec 3) : Bool := e = 4 || e = 5

/-- The base address pair of the context page words (R209). -/
def seqBase (a : Spec) : Bool := a.isS

/-- One slot of a pair word, taken alone (R83, R84). -/
def Slot.legal (x : Slot) (isX : Bool) : Bool :=
  if x.isEmpty then !x.pn && x.pr = 0 && x.d.isZero && x.a.isZero && x.b.isZero && x.c.isZero && x.rnd = 0 && x.ty = .i32
  else
    (x.srcs isX).all Spec.isSrc &&
    (if isX then
      x.cop.toNat ≤ 17 && (x.ty.int32 || x.ty.intAll && !x.ty.wide) &&
      (if x.isCmp isX then x.ty.int32 && (match x.d with | .v p => p.toNat < 8 | _ => false)
       else x.d.isV && x.rnd = 0 && (if x.cop = 17 then x.ty.int32 else true)) &&
      (if x.cop = 15 then (match x.c with | .v k => k.toNat < 16 | _ => false)
       else if x.cop = 4 || x.cop = 17 then true else x.c.isZero) &&
      (if x.cop = 14 then x.b.isZero else true)
     else
      x.cop.toNat ≤ 7 && x.ty.fltAll && x.ty ≠ .f64 &&
      (if x.isCmp isX then x.ty.fltScalar && (match x.d with | .v p => p.toNat < 8 | _ => false)
       else x.d.isV && (if x.cop = 5 || x.cop = 6 then x.rnd = 0 else x.rnd.toNat < 7)) &&
      (if x.cop = 4 then true else x.c.isZero))

/-- The V registers a pair word reads, each once (R84). -/
def PairW.vReads (x : PairW) : List Nat :=
  ((x.x.srcs true ++ x.y.srcs false).filterMap fun s => match s with | .v r => some r.toNat | _ => none).eraseDups

/-- The bank rule, the read limit and the distinct destinations of a pair word (R84). -/
def PairW.legal (x : PairW) : Bool :=
  x.x.legal true && x.y.legal false &&
  x.vReads.length ≤ 3 &&
  x.vReads.all (fun a => x.vReads.all fun b => a = b || a % 4 ≠ b % 4) &&
  (x.x.isEmpty || x.y.isEmpty || x.x.isCmp true ≠ x.y.isCmp false || x.x.d ≠ x.y.d)

/-- An unused clause has zero register fields (R81). -/
def Clause.legal (c : Clause) : Bool := c.cpred ≠ 15 || (c.fr = 0 && c.pl = 0 && c.tg = 0)

/-- Whether an instruction word's fields are ones the instruction accepts (R88), registers' numbers aside. Every
event is legal: it has no fields (DEDUCED, log entry 63). SCOPE on `STRED` without RLS, the guard of `UNBIND`, the files
of C and C2 of the atomics, an inline immediate in C and the D of `TCSET` are read as log entry 83 says (DEDUCED). -/
def Instr.fieldsOk : Instr → Bool
  | .endK x | .endR x => x.c0.legal && x.c1.legal && x.c2.legal && x.c3.legal
  | .trap x | .brk x => x.g.always && x.ctl.zero && x.fn = 0 && x.d.isZero && x.a.isZero && x.b.isZero
  | .nop x => x.len ≠ 3
  | .send x =>
    x.ctl.onlyYld && x.fn.toNat < 4 && !x.mod2.getLsbD 5 && (if x.mod2.getLsbD 0 then x.d.isVS else x.d.isZero) &&
    x.a.isSrc && x.b.isSrc && x.c.isSrc
  | .sendm x =>
    x.ctl.onlyYld && x.fn.toNat < 4 && !x.mod2.getLsbD 5 && !x.mod2.getLsbD 0 && x.d.isZero &&
    x.a.isSrc && x.b.isSrc && x.c.isSrc
  | .arm x => x.ctl.zero && x.d.isZero && x.a.isSrc && x.b.isSrc
  | .falloc x =>
    x.ctl.zero && x.fn = 0 && x.mod = 0 && x.mod2 = 0 && x.d.isV && (x.a.isVS || (match x.a with | .imm _ => true | _ => false)) &&
    x.b.isZero && x.c.isZero
  | .ffree x => x.ctl.zero && x.fn = 0 && x.mod = 0 && x.d.isZero && x.b.isZero && x.a.isSrc
  | .ldf x =>
    x.ctl.onlyYld && esz48 x.esz && x.cp = 0 && x.scope = 0 && x.sub = 0 && x.a.isZero && mIndex x.b && x.d.isV
  | .stf x =>
    x.ctl.onlyYld && esz48 x.esz && x.cp = 0 && x.scope = 0 && x.sub = 0 && x.a.isZero && mIndex x.b && x.d.isVS
  | .tcset x =>
    x.g.always && x.ctl.zero && x.fn = 0 && x.mod = 0 && (match x.d with | .v _ | .s _ => true | _ => false) &&
    (match x.b with | .spec y => x.a.isUni && y.isUni | .imm32 _ => x.a.isZero)
  | .iadd x | .isub x => intLegal2 Ty.intAll true x
  | .imul x | .imin x | .imax x | .and x | .or x | .xor x | .andn x | .shl x | .shr x | .sar x | .rot x =>
    intLegal2 Ty.intAll false x
  | .imulh x => intLegal2 Ty.int32 false x
  | .iabs x => intLegal1 Ty.absTy true x
  | .popc x | .clz x | .ctz x | .brev x => intLegal1 Ty.intScalar false x
  | .hash x => intLegal1 Ty.int32 false x
  | .imad x => intLegal3 Ty.intAll false x
  | .imadw x => intLegal3 Ty.int32 false x
  | .bfi x => intLegal3 Ty.intScalar false x
  | .bfe x | .lea x => intLegal3 Ty.intScalar true x
  | .iaddc x => x.ty.int32 && intForm x.g x.ctl x.d [x.a, x.b] &&
    (if x.ctl.sc then x.cin.p.toNat < 4 && x.cout.toNat < 4 else x.cout.toNat < 8)
  | .isel x => x.ty.intAll && intForm x.g x.ctl x.d [x.a, x.b] && (!x.ctl.sc || x.pc.p.toNat < 4)
  | .isetp x => x.ty.intScalar && x.cond.toNat < 8 && !x.ctl.rls && !x.ctl.oen && x.ctl.oidx = 0 && !x.ctl.nodst &&
    x.g.okFor x.ctl.sc &&
    (if x.ctl.sc then x.pd.toNat < 4 && x.a.isUni && x.b.isUni else x.a.isSrc && x.b.isSrc)
  | .mov x => movLegal x
  | .movi x => x.rnd = .rne && !x.xf && x.fn = 0 && x.a.isZero && (match x.b with | .imm32 _ => true | _ => false) &&
    intForm x.g x.ctl x.d []
  | .movs x => movsLegal x
  | .pand x | .por x | .pxor x => !x.ctl.rls && !x.ctl.oen && x.ctl.oidx = 0 && !x.ctl.nodst && x.g.okFor x.ctl.sc &&
    (!x.ctl.sc || (x.pd.toNat < 4 && x.pa.p.toNat < 4 && x.pb.p.toNat < 4))
  | .pnot x => !x.ctl.rls && !x.ctl.oen && x.ctl.oidx = 0 && !x.ctl.nodst && x.g.okFor x.ctl.sc &&
    x.pb = { neg := false, p := 0 } && (!x.ctl.sc || (x.pd.toNat < 4 && x.pa.p.toNat < 4))
  | .fadd x | .fsub x | .fmul x | .fscale x => fltLegal2 true false x
  | .fmin x | .fmax x => fltLegal2 false true x
  | .ffma x => x.ty.fltAll && x.c.isReg && !x.xf && x.fn = 0 && x.mod2 = 0 && fltForm x.ctl x.d [x.a, x.b, x.c]
  | .fsetp x => x.ty.fltScalar && x.cond.toNat < 14 && x.ctl.onlyYld && x.a.isSrc && x.b.isSrc
  | .fclass x => fltLegal1 Ty.fltScalar false x
  | .frnd x => fltLegal1 Ty.fltAll true x
  | .fdot2 x => x.ty.fltPacked && x.c.isReg && !x.xf && x.fn = 0 && x.mod2 = 0 && fltForm x.ctl x.d [x.a, x.b, x.c]
  | .fdot4 x => x.ty = .f32 && !x.xf && x.fn.toNat < 8 && x.mod2 = 0 && fltForm x.ctl x.d [x.a, x.b, x.c]
  | .fcvt x => fcvtLegal x
  | .icvt x => icvtLegal x
  | .cvtn x => cvtnLegal x
  | .ptest x => x.ctl.onlyYld && x.fn.toNat < 2
  | .pclr x => x.ctl.onlyYld && x.fn = 0 && x.pd = 0
  | .rcp x | .rsq x => fltLegal1 Ty.fltAll false x
  | .sqrt x => fltLegal1 Ty.fltAll true x
  | .exp2 x | .log2 x | .sin x | .cos x | .tanh x | .sigm x => fltLegal1 Ty.sfuTy false x
  | .lshuf x => laneForm x && x.rnd = .rne && x.fn.toNat < 4 && x.d.isV && x.a.isSrc && x.b.isSrc
  | .lbcast x => laneForm x && x.rnd = .rne && x.fn.toNat < 2 && x.d.isV && x.a.isSrc &&
    (match x.b with | .spec y => if x.fn = 1 then y.isZero else y.isSrc | .imm32 _ => false)
  | .lvote x => x.ctl.onlyYld && x.fn.toNat < 4 && (x.fn = 3 || x.d.toNat < 8)
  | .lcnt x => x.ctl.onlyYld && x.fn.toNat < 2
  | .lscan x => laneForm x && scanRnd x && x.ty.scanTy && x.fn.toNat % 4 < 3 && x.fn.toNat < 8 && x.d.isV && x.a.isSrc &&
    x.b.isUni
  | .lred x => laneForm x && scanRnd x && x.ty.scanTy && x.fn.toNat < 3 && x.d.isV && x.a.isSrc && x.b.isZero
  | .selcfg x => laneForm x && x.rnd = .rne && (x.ty = .i32 || x.ty = .u32 || x.ty = .f32) && x.fn.toNat < 2 && x.d.isZero &&
    x.a.isUni && x.b.isUni
  | .selpush x => laneForm x && x.rnd = .rne && x.ty = .u32 && x.fn.toNat < 2 && x.d.isZero && x.a.isV &&
    (match x.b with | .spec y => if x.fn = 1 then y.isUni else y.isZero | .imm32 _ => false)
  | .selpop x => laneForm x && x.rnd = .rne && x.ty = .u32 && x.fn.toNat < 2 && x.d.isV && x.a.isUni && x.b.isZero
  | .ld x => loadScope x.ctl x.esz x.scope && x.cp ≠ 3 && x.sub = 0 && x.d.isV && gBase x.a && mIndex x.b
  | .st x => x.ctl.yldRls && storeScope x.ctl.rls x.esz x.scope && x.cp ≠ 3 && x.sub = 0 && x.d.isVS && gBase x.a && mIndex x.b
  | .lds x => loadScope x.ctl x.esz x.scope && x.esz ≠ 7 && x.d.isV &&
    (if x.sub = 0 then x.cp = 0 && (x.a.isS || x.a.isImm0) && mIndex x.b
     else x.sub = 1 && x.cp ≠ 3 && x.scl = 0 && (x.a.isS || x.a.isImm0) && x.b.isVS)
  | .sts x => x.ctl.yldRls && x.esz ≠ 7 && storeScope x.ctl.rls x.esz x.scope && x.d.isVS &&
    (if x.sub = 0 then x.cp = 0 && (x.a.isS || x.a.isImm0) && mIndex x.b
     else x.sub = 1 && x.cp ≠ 3 && x.scl = 0 && (x.a.isS || x.a.isImm0) && x.b.isVS)
  | .ldx x => loadScope x.ctl x.esz x.scope && x.esz ≠ 7 && x.cp ≠ 3 && x.sub = 0 && x.scl = 0 && x.d.isV && x.a.isImm0 && x.b.isV
  | .stx x => x.ctl.yldRls && x.esz ≠ 7 && storeScope x.ctl.rls x.esz x.scope && x.cp ≠ 3 && x.sub = 0 && x.scl = 0 &&
    x.d.isVS && x.a.isImm0 && x.b.isV
  | .ldz x => x.ctl.onlyYld && x.esz = 4 && x.scope = 0 && x.cp ≠ 3 && x.sub = 0 && x.scl = 0 && x.d.isV && gBase x.a && x.b.isV
  | .stz x => x.ctl.onlyYld && x.esz = 4 && x.scope = 0 && (x.cp = 0 || x.cp = 2) && x.sub.toNat < 2 && x.d.isV && gBase x.a &&
    (x.b.isS || x.b.isImm0)
  | .pref x => x.ctl.onlyYld && x.esz = 4 && x.scope = 0 && x.cp ≠ 3 && x.sub = 0 && x.d.isImm0 && gBase x.a && mIndex x.b
  | .kvld x => x.ctl.onlyYld && (x.esz = 4 || x.esz = 5 || x.esz = 6) && x.scope = 0 && x.cp ≠ 3 && x.scl.toNat < 2 && x.d.isV &&
    seqBase x.a && x.b.isVS
  | .posld x => x.ctl.onlyYld && x.esz = 4 && x.scope = 0 && x.cp ≠ 3 && x.scl = 0 && x.ofs = 0 && x.d.isV && seqBase x.a && x.b.isVS
  | .massacc x => x.ctl.onlyYld && x.esz = 4 && x.scope = 0 && x.cp = 0 && x.scl = 0 && x.ofs = 0 && x.sub.toNat < 2 &&
    x.d.isImm0 && x.c.isV && x.c2.isZero && seqBase x.a && x.b.isVS
  | .stred x => x.ctl.yldRls && esz48 x.esz && x.cp = 0 && x.sub.toNat < 2 && scopeOk x.scope &&
    x.d.isImm0 && x.c.isReg && x.c2.isZero && gBase x.a && mIndex x.b
  | .atom x => x.ctl.yldRls && esz48 x.esz && x.op ≤ 10 && (x.op ≠ 10 || x.esz = 4) && scopeOk x.scope &&
    (x.d.isV || x.d.isImm0) && x.c.isReg && (if x.op = 9 then x.c2.isReg else x.c2.isZero) && gBase x.a && mIndex x.b
  | .red x => x.ctl.yldRls && esz48 x.esz && (x.op ≤ 7 || x.op = 10 && x.esz = 4) && scopeOk x.scope &&
    x.d.isImm0 && x.c.isReg && x.c2.isZero && gBase x.a && mIndex x.b
  | .fence x => x.g.always && x.ctl.onlyYld && x.fn.toNat ≠ 0 && x.fn.toNat < 4 && x.mod.toNat < 6 &&
    x.d.isZero && x.a.isZero && x.b.isZero
  | .cinvL1 x => x.g.always && x.ctl.onlyYld && x.fn = 0 && x.mod = 0 && x.d.isZero && x.a.isZero && x.b.isZero
  | .cinvL2 x => x.g.always && x.ctl.onlyYld && x.fn = 1 && x.mod = 0 && x.d.isZero && x.a.isS && x.b.isS
  | .cflush x => x.g.always && x.ctl.onlyYld && x.fn = 0 && x.mod = 0 && x.d.isZero && x.a.isS && x.b.isS
  | .bind x => x.g.always && x.ctl.zero && x.fn = 0 && x.mod = 0 && (match x.d with | .t _ => true | _ => false) &&
    x.a.isS && x.b.isUni
  | .unbind x => x.g.always && x.ctl.onlyYld && x.fn = 0 && x.mod = 0 && (match x.d with | .t _ => true | _ => false) &&
    x.a.isZero && x.b.isZero
  | .qpush x => x.ctl.yldRls && x.mod = 0 && x.a.isV && x.b.isZero &&
    (match x.d with | .q r => r.isPush && x.fn.toNat < r.depth | _ => false)
  | .qpop x => x.ctl.onlyYld && x.mod = 0 && x.d.isV && x.b.isZero &&
    (match x.a with | .q r => r.isPop && x.fn.toNat < r.depth | _ => false)
  | .qfence x => x.g.always && x.ctl.onlyYld && x.fn = 0 && x.mod.toNat ≠ 0 && x.mod.toNat < 64 &&
    x.d.isZero && x.a.isZero && x.b.isZero
  | .wait x => x.g.always && x.ctl.onlyYld && x.fn = 0 && x.mod = 0 && x.d.isZero && x.a.isZero && x.b.isZero
  | .cpy x => x.g.always && x.ctl.onlyYld && x.fn.toNat < 2 && x.mod = 0 && x.mod2 = 0 && x.a.isS &&
    x.d.isZero && x.b.isZero && x.c.isZero
  | .mldw x => x.g.always && x.ctl.onlyYld && x.fn.toNat < 4 && x.mod = 0 && x.mod2 = 0 && x.b.isZero && x.c.isZero &&
    (if x.fn.getLsbD 1 then x.d.isVS || (match x.d with | .imm _ => true | _ => false) else x.d.isZero) &&
    (if x.fn.getLsbD 0 then x.a.isVS || (match x.a with | .imm _ => true | _ => false) else x.a.isZero)
  | .mstream x => x.g.always && x.ctl.onlyYld && x.mod = 0 && x.mod2 = 0 &&
    (if x.fn.getLsbD 2 then x.d.isVS || (match x.d with | .imm _ => true | _ => false) else x.d.isZero) &&
    (x.a.isVS || (match x.a with | .imm _ => true | _ => false)) && (x.b.isVS || (match x.b with | .imm _ => true | _ => false)) &&
    (if x.fn.getLsbD 1 then x.c.isVS || (match x.c with | .imm _ => true | _ => false) else x.c.isZero)
  | .mdrain x => x.g.always && x.ctl.onlyYld && x.mod.toNat % 32 = 0 && x.mod.toNat / 32 < 7 && x.fn.toNat / 2 % 4 < 3 &&
    (if x.mod2.toNat / 16 = 3 then true else x.mod2.toNat / 2 % 8 = 0) &&
    (if x.fn.getLsbD 3 then x.d.isVS || (match x.d with | .imm _ => true | _ => false) else x.d.isZero) &&
    (x.a.isVS || (match x.a with | .imm _ => true | _ => false)) && (x.b.isVS || (match x.b with | .imm _ => true | _ => false)) &&
    (if x.fn.toNat / 2 % 4 = 0 then x.c.isZero
     else if x.fn.toNat / 2 % 4 = 1 then x.c.isVS || (match x.c with | .imm _ => true | _ => false) else x.c.isS)
  | .mswap x => x.g.always && x.ctl.zero && x.fn = 0 && x.mod = 0 && x.d.isZero && x.a.isZero && x.b.isZero
  | .mzero x => x.g.always && x.ctl.zero && x.fn.toNat < 4 && x.mod = 0 && x.d.isZero &&
    (if x.fn.getLsbD 1 then x.a.isZero && x.b.isZero
     else (x.a.isVS || (match x.a with | .imm _ => true | _ => false)) && (x.b.isVS || (match x.b with | .imm _ => true | _ => false)))
  | .mfmt x => x.g.always && x.ctl.zero && x.fn = 0 && x.mod.toNat / 16 < 10 && x.mod.toNat % 16 < 10 &&
    x.d.isZero && x.a.isZero && x.b.isZero
  | .evpop x | .evwait x => x.g.always && x.ctl.zero && x.fn = 0 && x.mod = 0 && x.d.isS && x.a.isZero && x.b.isZero
  | .evict x => x.g.always && x.ctl.zero && x.fn = 0 && x.mod = 0 && x.d.isZero && x.a.isS && x.b.isZero
  | .seqlockAcq x => x.g.always && x.ctl.zero && x.fn = 0 && x.mod = 0 && x.d.isZero && x.a.isS && x.b.isZero
  | .seqlockRel x => x.g.always && x.ctl.zero && x.fn = 1 && x.mod = 0 && x.d.isZero && x.a.isS && x.b.isZero
  | .seqlockTry x => x.g.always && x.ctl.zero && x.fn = 2 && x.mod = 0 && x.a.isS && x.b.isZero &&
    (match x.d with | .v p => p.toNat < 4 | _ => false)
  | .rdef x => x.g.always && x.ctl.zero && x.mod2 = 0 && x.d.isZero && x.c.isUni &&
    (if x.fn = 1 then x.mod = 0 && x.a.isZero && x.b.isZero
     else x.fn = 0 && x.mod.toNat / 16 < 8 && x.mod.toNat % 16 < 8 && x.a.isS && x.b.isS)
  | .rstat x => x.ctl.zero && x.fn.toNat < 2 && x.mod = 0 && x.b.isZero && x.d.isS && x.a.isUni
  | .csrr x => x.g.always && x.ctl.zero && x.fn = 0 && x.mod = 0 && x.d.isS && x.a.isZero && x.b.isZero && x.imm.toNat < 4096
  | .csrw x => x.g.always && x.ctl.zero && x.fn = 0 && x.mod = 0 && x.d.isZero && x.a.isUni && x.b.isZero && x.imm.toNat < 4096
  | .ecall x => x.g.always && x.ctl.zero && x.fn = 0 && x.b.isZero && x.d.isS && x.a.isUni
  | .sret x => x.ctl.zero && x.fn = 0 && x.mod = 0 && x.d.isZero && x.a.isS && x.b.isUni
  | .perfrd x => x.ctl.zero && x.fn = 0 && x.mod = 0 && x.b.isZero && x.d.isS && x.a.isUni
  | .resumeq x => x.ctl.zero && x.fn = 0 && x.mod = 0 && x.d.isZero && x.b.isZero && x.a.isS
  | .pairWord x => x.legal
  | .vloop x | .vlooprAdd x | .vlooprMin x | .vlooprMax x => x.sblk.toNat < 32
  | _ => true

/-- The word's fields are legal and its register groups aligned (R20, R88; DEDUCED, log entry 53). -/
def Instr.legal (i : Instr) : Bool := i.fieldsOk && i.uses.all fun u => u.spec.aligned u.align

/-- The words only a sequencer block may issue: OPC 0xB0 to 0xB7 (R16, R89). -/
def Instr.seqOnly : Instr → Bool
  | .mldw _ | .mswap _ | .mstream _ | .mdrain _ | .mzero _ | .mfmt _ | .evpop _ | .evwait _ => true
  | _ => false

/-- The words a sequencer block may not issue (R61, R66, R153). -/
def Instr.vecOnly : Instr → Bool
  | .selcfg _ | .selpush _ | .selpop _ => true
  | .qpush x => match x.d with
    | .q r => !r.seqOk
    | _ => false
  | .qpop _ => true
  | .mov x => match x.d, x.a with
    | _, .q _ => true
    | .q r, _ => !r.seqOk
    | _, _ => false
  | _ => false

/-- Whether a block of this kind may issue the word (R89, step 3). -/
def Instr.kindOk (i : Instr) (seq : Bool) : Bool := if seq then !i.vecOnly else !i.seqOnly

/-- The terminators (R69). -/
def Instr.isTerm : Instr → Bool
  | .endK _ | .endR _ | .trap _ => true
  | _ => false

end Sys2Proof
end

