-- ==== Sys2Proof/WellFormed.lean ====
section
/-! DEFINITION. What makes an instruction well formed: the checks of R88 that need no block or context
(`Sys2Proof.Machine.Legal` holds them, where a repair may mend them). -/

namespace Sys2Proof

/-- The instruction is one the encoding rules accept (R66, R74, R75, R77, R81, R84, R88). -/
abbrev Instr.WellFormed (i : Instr) : Prop := i.legal = true

end Sys2Proof
end

