-- ==== Sys2Proof/Decode.lean ====
section
/-! DEFINITION. The decoder, total on every word and rejecting by name, and after it the encoder, both written from
the word formats of the encoding chapter (R67 to R92). -/

namespace Sys2Proof

/-- Why a word is no instruction (R88). -/
inductive DecodeErr where
  /-- The major opcode is unassigned. -/
  | unassigned (opc : Nat)
  /-- The length of the word is not one its opcode's shape permits (R67, R86). -/
  | badLength (opc : Nat)
  /-- A reserved field, specifier or code; `what` names the field. -/
  | reserved (what : String)
  /-- The fields decode, but the instruction does not accept them together. -/
  | illegalFields (opc : Nat)
deriving DecidableEq, Repr

/-- The outcome of decoding one field, record or word. -/
abbrev Dec (α : Type) := Except DecodeErr α

/-! ### Codes of single fields -/

/-- A register specifier from its 10 bits (R65). -/
def decSpec (x : Nat) : Dec Spec :=
  let lo := x % 256
  if x < 256 then .ok (.v (BitVec.ofNat 8 lo))
  else if x < 512 then .ok (.s (BitVec.ofNat 8 lo))
  else if x < 768 then
    if lo < 0x08 then .ok (.o (BitVec.ofNat 3 lo))
    else if lo < 0x0A then .ok (.l (BitVec.ofNat 1 (lo - 8)))
    else if lo < 0x10 then .error (.reserved "specifier")
    else if lo < 0x20 then .ok (.t (BitVec.ofNat 4 (lo - 16)))
    else match lo with
      | 0x20 => .ok (.sp .fpl)
      | 0x21 => .ok (.sp .tag)
      | 0x22 => .ok (.sp .lane)
      | 0x23 => .ok (.sp .nlane)
      | 0x24 => .ok (.sp .blk)
      | 0x25 => .ok (.sp .core)
      | 0x26 => .ok (.sp .die)
      | 0x27 => .ok (.sp .dev)
      | 0x28 => .ok (.sp .clk)
      | 0x40 => .ok (.q .qma)
      | 0x41 => .ok (.q .qmw)
      | 0x42 => .ok (.q .qmo)
      | 0x43 => .ok (.q .qca)
      | 0x44 => .ok (.q .qcb)
      | 0x45 => .ok (.q .qce)
      | 0x46 => .ok (.q .qsi)
      | 0x47 => .ok (.q .qso)
      | 0x48 => .ok (.q .qek)
      | _ => .error (.reserved "specifier")
  else if x < 1024 then .ok (.imm (BitVec.ofNat 8 lo))
  else .error (.reserved "specifier")

/-- The code of a special register (R56). -/
def SReg.code : SReg → Nat
  | .fpl => 0x220
  | .tag => 0x221
  | .lane => 0x222
  | .nlane => 0x223
  | .blk => 0x224
  | .core => 0x225
  | .die => 0x226
  | .dev => 0x227
  | .clk => 0x228

/-- The code of a queue register (R61). -/
def Queue.code : Queue → Nat
  | .qma => 0x240
  | .qmw => 0x241
  | .qmo => 0x242
  | .qca => 0x243
  | .qcb => 0x244
  | .qce => 0x245
  | .qsi => 0x246
  | .qso => 0x247
  | .qek => 0x248

/-- The 10 bits of a register specifier (R65). -/
def encSpec : Spec → Nat
  | .v n => n.toNat
  | .s n => 256 + n.toNat
  | .o n => 512 + n.toNat
  | .l n => 520 + n.toNat
  | .t n => 528 + n.toNat
  | .sp r => r.code
  | .q r => r.code
  | .imm x => 768 + x.toNat

/-- The element type of a type code (R75). -/
def decTy (x : Nat) : Dec Ty :=
  match x with
  | 0 => .ok .i32
  | 1 => .ok .u32
  | 2 => .ok .i64
  | 3 => .ok .u64
  | 4 => .ok .f32
  | 5 => .ok .f64
  | 6 => .ok .f16
  | 7 => .ok .bf16
  | 8 => .ok .f16x2
  | 9 => .ok .bf16x2
  | 10 => .ok .i16x2
  | 11 => .ok .u16x2
  | 12 => .ok .i8x4
  | 13 => .ok .u8x4
  | _ => .error (.reserved "TYPE")

/-- The code of an element type (R75). -/
def encTy : Ty → Nat
  | .i32 => 0
  | .u32 => 1
  | .i64 => 2
  | .u64 => 3
  | .f32 => 4
  | .f64 => 5
  | .f16 => 6
  | .bf16 => 7
  | .f16x2 => 8
  | .bf16x2 => 9
  | .i16x2 => 10
  | .u16x2 => 11
  | .i8x4 => 12
  | .u8x4 => 13

/-- The rounding of a rounding code (R27). -/
def decRnd (x : Nat) : Dec Rnd :=
  match x with
  | 0 => .ok .rne
  | 1 => .ok .rtz
  | 2 => .ok .rup
  | 3 => .ok .rdn
  | 4 => .ok .rna
  | 5 => .ok .sr
  | 6 => .ok .dyn
  | _ => .error (.reserved "RND")

/-- The code of a rounding (R27). -/
def encRnd : Rnd → Nat
  | .rne => 0
  | .rtz => 1
  | .rup => 2
  | .rdn => 3
  | .rna => 4
  | .sr => 5
  | .dyn => 6

/-- A one-bit field. -/
def bit1 (b : Bool) : Nat := if b then 1 else 0

/-- The control bits of R74 from CTL. -/
def decCtl (x : Nat) : Ctl :=
  { sc := x / 128 % 2 = 1, oen := x / 64 % 2 = 1, oidx := BitVec.ofNat 3 (x / 8 % 8), nodst := x / 4 % 2 = 1,
    rls := x / 2 % 2 = 1, yld := x % 2 = 1 }

/-- CTL from the control bits of R74. -/
def encCtl (c : Ctl) : Nat :=
  bit1 c.yld + 2 * (bit1 c.rls + 2 * (bit1 c.nodst + 2 * (c.oidx.toNat + 8 * (bit1 c.oen + 2 * bit1 c.sc))))

/-- A predicate destination field (R77). -/
def decPd (x : Nat) : Dec (BitVec 3) := if x < 8 then .ok (BitVec.ofNat 3 x) else .error (.reserved "predicate field")

/-- A predicate source field: bit 3 negates (R77). -/
def decPSrc (x : Nat) : Dec PSrc :=
  if x < 16 then .ok { neg := x / 8 = 1, p := BitVec.ofNat 3 (x % 8) } else .error (.reserved "predicate field")

/-- The bits of a predicate source field (R77). -/
def encPSrc (p : PSrc) : Nat := p.p.toNat + 8 * bit1 p.neg

/-- A field that must be zero. -/
def needZero (what : String) (x : Nat) : Dec Unit := if x = 0 then .ok () else .error (.reserved what)

/-! ### The base word -/

/-- The fields of the 64-bit base word (R73) and the bits above it. -/
structure Raw where
  len : Nat
  opc : Nat
  fn : Nat
  pn : Nat
  pr : Nat
  d : Nat
  a : Nat
  b : Nat
  mod : Nat
  ctl : Nat
  ext : Nat
deriving DecidableEq, Repr

/-- The fields of a word (R73), taken from its lowest bit upward. -/
def Raw.ofWord (x : Nat) : Raw :=
  let x1 := x / 4
  let x2 := x1 / 256
  let x3 := x2 / 16
  let x4 := x3 / 2
  let x5 := x4 / 8
  let x6 := x5 / 1024
  let x7 := x6 / 1024
  let x8 := x7 / 1024
  let x9 := x8 / 256
  { len := x % 4, opc := x1 % 256, fn := x2 % 16, pn := x3 % 2, pr := x4 % 8, d := x5 % 1024, a := x6 % 1024,
    b := x7 % 1024, mod := x8 % 256, ctl := x9 % 256, ext := x9 / 256 }

/-- The word of the given fields (R73). -/
def Raw.toWord (r : Raw) : Nat :=
  r.len + 4 * (r.opc + 256 * (r.fn + 16 * (r.pn + 2 * (r.pr + 8 * (r.d + 1024 * (r.a + 1024 * (r.b + 1024 *
    (r.mod + 256 * (r.ctl + 256 * r.ext)))))))))

/-- The guard of a word (R52, R73). -/
def Raw.guard (r : Raw) : Guard := { pr := BitVec.ofNat 3 r.pr, pn := r.pn = 1 }

/-- A word of the given length code, or the error that names its opcode (R67). -/
def needLen (r : Raw) (n : Nat) : Dec Unit := if r.len = n then .ok () else .error (.badLength r.opc)

/-! ### Records from fields -/

/-- Shape B with MOD given by the instruction (R75, R86). -/
def decSysW (r : Raw) : Dec SysW := do
  needLen r 0
  let d ← decSpec r.d
  let a ← decSpec r.a
  let b ← decSpec r.b
  return { g := r.guard, ctl := decCtl r.ctl, fn := BitVec.ofNat 4 r.fn, mod := BitVec.ofNat 8 r.mod, d, a, b }

/-- The second source of shape I: a specifier in the 64-bit form, IMM32 in the 96-bit form (R76). -/
def decOpd (r : Raw) : Dec Opd :=
  if r.len = 0 then (decSpec r.b).map .spec
  else if r.len = 1 then
    if r.b = 0 then .ok (.imm32 (BitVec.ofNat 32 r.ext)) else .error (.reserved "B of a 96-bit word")
  else .error (.badLength r.opc)

/-- Shape I with MOD given by the instruction. -/
def decSysI (r : Raw) : Dec SysI := do
  let b ← decOpd r
  let d ← decSpec r.d
  let a ← decSpec r.a
  return { g := r.guard, ctl := decCtl r.ctl, fn := BitVec.ofNat 4 r.fn, mod := BitVec.ofNat 8 r.mod, d, a, b }

/-- Shape J with MOD given by the instruction. -/
def decSysJ (r : Raw) : Dec SysJ := do
  needLen r 1
  let d ← decSpec r.d
  let a ← decSpec r.a
  let b ← decSpec r.b
  return { g := r.guard, ctl := decCtl r.ctl, fn := BitVec.ofNat 4 r.fn, mod := BitVec.ofNat 8 r.mod, d, a, b,
           imm := BitVec.ofNat 32 r.ext }

/-- The C extension (R78): C, MOD2 and sixteen reserved bits. -/
def needExtC (r : Raw) : Dec Unit := do
  needLen r 1
  needZero "C extension" (r.ext / 65536)

/-- Shape C with MOD given by the instruction. -/
def decSysC (r : Raw) : Dec SysC := do
  needExtC r
  let d ← decSpec r.d
  let a ← decSpec r.a
  let b ← decSpec r.b
  let c ← decSpec (r.ext % 1024)
  return { g := r.guard, ctl := decCtl r.ctl, fn := BitVec.ofNat 4 r.fn, mod := BitVec.ofNat 8 r.mod, d, a, b, c,
           mod2 := BitVec.ofNat 6 (r.ext / 1024) }

/-- Shape MO (R79, R80). -/
def decMemW (r : Raw) : Dec MemW := do
  needLen r 2
  let d ← decSpec r.d
  let a ← decSpec r.a
  let b ← decSpec r.b
  return { g := r.guard, ctl := decCtl r.ctl, esz := BitVec.ofNat 3 (r.mod / 32), cp := BitVec.ofNat 2 (r.mod / 8),
           scope := BitVec.ofNat 3 r.mod, scl := BitVec.ofNat 2 (r.fn / 4), sub := BitVec.ofNat 2 r.fn, d, a, b,
           ofs := BitVec.ofNat 64 r.ext }

/-- Shape MA (R79, R80). -/
def decMaW (r : Raw) : Dec MaW := do
  needLen r 2
  let d ← decSpec r.d
  let a ← decSpec r.a
  let b ← decSpec r.b
  let c ← decSpec (r.ext % 1024)
  let c2 ← decSpec (r.ext / 1024 % 1024)
  return { g := r.guard, ctl := decCtl r.ctl, esz := BitVec.ofNat 3 (r.mod / 32), cp := BitVec.ofNat 2 (r.mod / 8),
           scope := BitVec.ofNat 3 r.mod, scl := BitVec.ofNat 2 (r.fn / 4), sub := BitVec.ofNat 2 r.fn, d, a, b, c, c2,
           ofs := BitVec.ofNat 44 (r.ext / 1048576) }

/-- An ALU word with its second source already read (R75). -/
def decAlu2 (r : Raw) (b : Opd) : Dec Alu2 := do
  let ty ← decTy (r.mod / 16)
  let rnd ← decRnd (r.mod / 2 % 8)
  let d ← decSpec r.d
  let a ← decSpec r.a
  return { g := r.guard, ctl := decCtl r.ctl, ty, rnd, xf := r.mod % 2 = 1, fn := BitVec.ofNat 4 r.fn, d, a, b }

/-- Shape I of OPC 0x10 to 0x7F. -/
def decAluI (r : Raw) : Dec Alu2 := do
  let b ← decOpd r
  decAlu2 r b

/-- Shape B of OPC 0x10 to 0x7F. -/
def decAluB (r : Raw) : Dec Alu2 := do
  needLen r 0
  let b ← decSpec r.b
  decAlu2 r (.spec b)

/-- Shape J of OPC 0x10 to 0x7F: `MOVI`, whose B field must be zero. -/
def decAluJ (r : Raw) : Dec Alu2 := do
  needLen r 1
  let b ← decOpd r
  decAlu2 r b

/-- Shape C of OPC 0x10 to 0x6F (R75, R78). -/
def decAlu3 (r : Raw) : Dec Alu3 := do
  needExtC r
  let ty ← decTy (r.mod / 16)
  let rnd ← decRnd (r.mod / 2 % 8)
  let d ← decSpec r.d
  let a ← decSpec r.a
  let b ← decSpec r.b
  let c ← decSpec (r.ext % 1024)
  return { g := r.guard, ctl := decCtl r.ctl, ty, rnd, xf := r.mod % 2 = 1, fn := BitVec.ofNat 4 r.fn, d, a, b, c,
           mod2 := BitVec.ofNat 6 (r.ext / 1024) }

/-- A compare: D is a predicate field, RND and XF are zero (R77, R127, R135). -/
def decCmpW (r : Raw) : Dec CmpW := do
  let b ← decOpd r
  let ty ← decTy (r.mod / 16)
  needZero "RND and XF" (r.mod % 16)
  let pd ← decPd r.d
  let a ← decSpec r.a
  return { g := r.guard, ctl := decCtl r.ctl, ty, cond := BitVec.ofNat 4 r.fn, pd, a, b }

/-- `IADDC`: C is a predicate source field, MOD2 a predicate destination field (R124). -/
def decAddcW (r : Raw) : Dec AddcW := do
  needExtC r
  let ty ← decTy (r.mod / 16)
  needZero "RND and XF" (r.mod % 16)
  needZero "FN" r.fn
  let d ← decSpec r.d
  let a ← decSpec r.a
  let b ← decSpec r.b
  let cin ← decPSrc (r.ext % 1024)
  needZero "MOD2 above the predicate field" (r.ext / 16384)
  return { g := r.guard, ctl := decCtl r.ctl, ty, d, a, b, cin, cout := BitVec.ofNat 4 (r.ext / 1024) }

/-- `ISEL`: C is a predicate source field (R127). -/
def decSelW (r : Raw) : Dec SelW := do
  needExtC r
  let ty ← decTy (r.mod / 16)
  needZero "RND and XF" (r.mod % 16)
  needZero "FN" r.fn
  let d ← decSpec r.d
  let a ← decSpec r.a
  let b ← decSpec r.b
  let pc ← decPSrc (r.ext % 1024)
  needZero "MOD2" (r.ext / 1024)
  return { g := r.guard, ctl := decCtl r.ctl, ty, d, a, b, pc }

/-- The predicate instructions: MOD and FN are zero (R130). -/
def decPredW (r : Raw) : Dec PredW := do
  needLen r 0
  needZero "MOD" r.mod
  needZero "FN" r.fn
  let pd ← decPd r.d
  let pa ← decPSrc r.a
  let pb ← decPSrc r.b
  return { g := r.guard, ctl := decCtl r.ctl, pd, pa, pb }

/-- `PTEST` and `PCLR`: TYPE 0x4, RND and XF zero (R145). -/
def decPtestW (r : Raw) : Dec PtestW := do
  needLen r 0
  if r.mod = 64 then pure () else .error (.reserved "MOD")
  let pd ← decPd r.d
  needZero "A" r.a
  needZero "B" r.b
  return { g := r.guard, ctl := decCtl r.ctl, fn := BitVec.ofNat 4 r.fn, pd }

/-- `LVOTE` and `LCNT`: TYPE 0x1, RND and XF zero (R148, R150). -/
def decVoteW (r : Raw) : Dec VoteW := do
  needLen r 0
  if r.mod = 16 then pure () else .error (.reserved "MOD")
  let pa ← decPSrc r.a
  needZero "B" r.b
  if r.d < 256 then pure () else .error (.reserved "D")
  return { g := r.guard, ctl := decCtl r.ctl, fn := BitVec.ofNat 4 r.fn, d := BitVec.ofNat 8 r.d, pa }

/-- `NOP` of any of its lengths: everything but PN and PR is zero (R71). -/
def decNopW (r : Raw) : Dec NopW := do
  if r.len = 3 then .error (.badLength r.opc) else pure ()
  needZero "NOP" (r.fn + r.d + r.a + r.b + r.mod + r.ctl + r.ext)
  return { len := BitVec.ofNat 2 r.len, g := r.guard }

/-- A clause field (R81). -/
def decClause (x : Nat) : Clause :=
  { cpred := BitVec.ofNat 4 (x / 262144), fr := BitVec.ofNat 6 (x / 4096), pl := BitVec.ofNat 6 (x / 64),
    tg := BitVec.ofNat 6 x }

/-- The bits of a clause field (R81). -/
def encClause (c : Clause) : Nat := c.tg.toNat + 64 * (c.pl.toNat + 64 * (c.fr.toNat + 64 * c.cpred.toNat))

/-- The terminator word (R81). -/
def decEndW (x : Nat) : Dec EndW := do
  if x % 4 = 2 then pure () else .error (.badLength (x / 4 % 256))
  needZero "FN" (x / 1024 % 16)
  needZero "terminator word" (x / 2 ^ 102)
  return { c0 := decClause (x / 16384 % 4194304), c1 := decClause (x / 2 ^ 36 % 4194304),
           c2 := decClause (x / 2 ^ 58 % 4194304), c3 := decClause (x / 2 ^ 80 % 4194304) }

/-- A slot of a pair word from its 60 bits (R82). -/
def decSlot (x : Nat) : Dec Slot := do
  let ty ← decTy (x % 16)
  needZero "slot" (x / 128 % 16)
  let c ← decSpec (x / 2048 % 1024)
  let b ← decSpec (x / 2 ^ 21 % 1024)
  let a ← decSpec (x / 2 ^ 31 % 1024)
  let d ← decSpec (x / 2 ^ 41 % 1024)
  return { cop := BitVec.ofNat 5 (x / 2 ^ 55), pn := x / 2 ^ 54 % 2 = 1, pr := BitVec.ofNat 3 (x / 2 ^ 51), d, a, b, c,
           rnd := BitVec.ofNat 3 (x / 16), ty }

/-- The 60 bits of a slot (R82). -/
def encSlot (s : Slot) : Nat :=
  encTy s.ty + 16 * (s.rnd.toNat + 128 * (encSpec s.c + 1024 * (encSpec s.b + 1024 * (encSpec s.a + 1024 *
    (encSpec s.d + 1024 * (s.pr.toNat + 8 * (bit1 s.pn + 2 * s.cop.toNat)))))))

/-- A pair word (R82). -/
def decPairW (x : Nat) : Dec PairW := do
  if x % 4 = 2 then pure () else .error (.badLength (x / 4 % 256))
  needZero "pair word" (x / 2 ^ 127)
  let sx ← decSlot (x / 4 % 8 + 8 * (x / 1024 % 2 ^ 57))
  let sy ← decSlot (x / 2 ^ 67 % 2 ^ 60)
  return { x := sx, y := sy }

/-- Five 12-bit level fields, level 0 lowest (R85). -/
def decFive (x : Nat) : Five :=
  { l0 := BitVec.ofNat 12 x, l1 := BitVec.ofNat 12 (x / 4096), l2 := BitVec.ofNat 12 (x / 2 ^ 24),
    l3 := BitVec.ofNat 12 (x / 2 ^ 36), l4 := BitVec.ofNat 12 (x / 2 ^ 48) }

/-- The 60 bits of five level fields (R85). -/
def encFive (f : Five) : Nat :=
  f.l0.toNat + 4096 * (f.l1.toNat + 4096 * (f.l2.toNat + 4096 * (f.l3.toNat + 4096 * f.l4.toNat)))

/-- A loop-nest word (R85). -/
def decLoopW (x : Nat) : Dec LoopW :=
  if x % 4 = 3 then
    .ok { sblk := BitVec.ofNat 6 (x / 1024), ext := decFive (x / 65536), st0 := decFive (x / 2 ^ 76),
          st1 := decFive (x / 2 ^ 136), st2 := decFive (x / 2 ^ 196) }
  else .error (.badLength (x / 4 % 256))

/-! ### The opcode map (R87) -/

/-- The instruction a word encodes, before the checks that several fields make together. -/
def decFields (x : Nat) : Dec Instr :=
  let r := Raw.ofWord x
  match r.opc with
  | 0x00 => (decEndW x).map .endK
  | 0x01 => (decEndW x).map .endR
  | 0x02 => (decSysW r).map .trap
  | 0x03 => (decNopW r).map .nop
  | 0x04 => (decSysC r).map .send
  | 0x05 => (decSysC r).map .sendm
  | 0x06 => (decSysI r).map .arm
  | 0x07 => (decSysC r).map .falloc
  | 0x08 => (decSysW r).map .ffree
  | 0x09 => (decMemW r).map .ldf
  | 0x0A => (decMemW r).map .stf
  | 0x0B => (decSysI r).map .tcset
  | 0x0C => (decSysW r).map .brk
  | 0x10 => (decAluI r).map .iadd
  | 0x11 => (decAluI r).map .isub
  | 0x12 => (decAddcW r).map .iaddc
  | 0x13 => (decAluI r).map .imul
  | 0x14 => (decAluI r).map .imulh
  | 0x15 => (decAlu3 r).map .imad
  | 0x16 => (decAlu3 r).map .imadw
  | 0x17 => (decAluI r).map .imin
  | 0x18 => (decAluI r).map .imax
  | 0x19 => (decAluB r).map .iabs
  | 0x20 => (decAluI r).map .and
  | 0x21 => (decAluI r).map .or
  | 0x22 => (decAluI r).map .xor
  | 0x23 => (decAluI r).map .andn
  | 0x24 => (decAluI r).map .shl
  | 0x25 => (decAluI r).map .shr
  | 0x26 => (decAluI r).map .sar
  | 0x27 => (decAluI r).map .rot
  | 0x28 => (decAlu3 r).map .bfe
  | 0x29 => (decAlu3 r).map .bfi
  | 0x2A => (decAluB r).map .popc
  | 0x2B => (decAluB r).map .clz
  | 0x2C => (decAluB r).map .ctz
  | 0x2D => (decAluB r).map .brev
  | 0x2E => (decAluB r).map .hash
  | 0x30 => (decCmpW r).map .isetp
  | 0x31 => (decSelW r).map .isel
  | 0x32 => (decAlu3 r).map .lea
  | 0x33 => (decAluB r).map .mov
  | 0x34 => (decAluJ r).map .movi
  | 0x35 => (decAluB r).map .movs
  | 0x36 => (decPredW r).map .pand
  | 0x37 => (decPredW r).map .por
  | 0x38 => (decPredW r).map .pxor
  | 0x39 => (decPredW r).map .pnot
  | 0x40 => (decAluI r).map .fadd
  | 0x41 => (decAluI r).map .fsub
  | 0x42 => (decAluI r).map .fmul
  | 0x43 => (decAlu3 r).map .ffma
  | 0x44 => (decAluI r).map .fmin
  | 0x45 => (decAluI r).map .fmax
  | 0x46 => (decCmpW r).map .fsetp
  | 0x47 => (decAluB r).map .fclass
  | 0x48 => (decAluB r).map .frnd
  | 0x49 => (decAluI r).map .fscale
  | 0x4A => (decAlu3 r).map .fdot2
  | 0x4B => (decAlu3 r).map .fdot4
  | 0x50 => (decAlu3 r).map .fcvt
  | 0x51 => (decAlu3 r).map .icvt
  | 0x52 => (decAlu3 r).map .cvtn
  | 0x53 => (decPtestW r).map .ptest
  | 0x54 => (decPtestW r).map .pclr
  | 0x60 => (decAluB r).map .rcp
  | 0x61 => (decAluB r).map .rsq
  | 0x62 => (decAluB r).map .sqrt
  | 0x63 => (decAluB r).map .exp2
  | 0x64 => (decAluB r).map .log2
  | 0x65 => (decAluB r).map .sin
  | 0x66 => (decAluB r).map .cos
  | 0x67 => (decAluB r).map .tanh
  | 0x68 => (decAluB r).map .sigm
  | 0x70 => (decAluI r).map .lshuf
  | 0x71 => (decAluB r).map .lbcast
  | 0x72 => (decVoteW r).map .lvote
  | 0x73 => (decVoteW r).map .lcnt
  | 0x74 => (decAluI r).map .lscan
  | 0x75 => (decAluB r).map .lred
  | 0x78 => (decAluI r).map .selcfg
  | 0x79 => (decAluB r).map .selpush
  | 0x7A => (decAluB r).map .selpop
  | 0x80 => (decMemW r).map .ld
  | 0x81 => (decMemW r).map .st
  | 0x82 => (decMemW r).map .lds
  | 0x83 => (decMemW r).map .sts
  | 0x84 => (decMemW r).map .ldx
  | 0x85 => (decMemW r).map .stx
  | 0x86 => (decMaW r).map .stred
  | 0x87 => (decMemW r).map .ldz
  | 0x88 => (decMemW r).map .stz
  | 0x89 => (decMaW r).map .atom
  | 0x8A => (decMaW r).map .red
  | 0x90 => (decSysW r).map .fence
  | 0x91 => (decSysW r).bind fun x => if x.fn = 0 then .ok (.cinvL1 x) else if x.fn = 1 then .ok (.cinvL2 x) else .error (.reserved "CINV FN")
  | 0x92 => (decSysW r).map .cflush
  | 0x93 => (decMemW r).map .pref
  | 0x94 => (decSysW r).map .bind
  | 0x95 => (decSysW r).map .unbind
  | 0xA0 => (decSysW r).map .qpush
  | 0xA1 => (decSysW r).map .qpop
  | 0xA2 => (decSysW r).map .qfence
  | 0xA3 => (decSysJ r).map .wait
  | 0xA4 => (decSysC r).map .cpy
  | 0xB0 => (decSysC r).map .mldw
  | 0xB1 => (decSysW r).map .mswap
  | 0xB2 => (decSysC r).map .mstream
  | 0xB3 => (decSysC r).map .mdrain
  | 0xB4 => (decSysW r).map .mzero
  | 0xB5 => (decSysW r).map .mfmt
  | 0xB6 => (decSysW r).map .evpop
  | 0xB7 => (decSysW r).map .evwait
  | 0xC0 => (decMemW r).map .kvld
  | 0xC1 => (decMemW r).map .posld
  | 0xC2 => (decMaW r).map .massacc
  | 0xC3 => (decSysW r).map .evict
  | 0xC4 => (decSysW r).bind fun x => if x.fn = 0 then .ok (.seqlockAcq x) else if x.fn = 1 then .ok (.seqlockRel x) else if x.fn = 2 then .ok (.seqlockTry x) else .error (.reserved "SEQLOCK FN")
  | 0xC8 => (decSysC r).map .rdef
  | 0xC9 => (decSysW r).map .rstat
  | 0xD0 => (decSysJ r).map .csrr
  | 0xD1 => (decSysJ r).map .csrw
  | 0xD2 => (decSysW r).map .ecall
  | 0xD3 => (decSysW r).map .sret
  | 0xD4 => (decSysW r).map .perfrd
  | 0xD5 => (decSysW r).map .resumeq
  | 0xF0 | 0xF1 | 0xF2 | 0xF3 | 0xF4 | 0xF5 | 0xF6 | 0xF7 => (decPairW x).map .pairWord
  | 0xF8 => (decLoopW x).map .vloop
  | 0xF9 => (decLoopW x).map .vlooprAdd
  | 0xFA => (decLoopW x).map .vlooprMin
  | 0xFB => (decLoopW x).map .vlooprMax
  | _ => .error (.unassigned r.opc)

/-- The decoder: the instruction a word encodes, or why it encodes none (R88). `x` is the word's number, its first
byte lowest; the word's length is `lenOfWord x`. -/
def decodeWord (x : Nat) : Dec Instr :=
  match decFields x with
  | .ok i => if i.legal then .ok i else .error (.illegalFields (x / 4 % 256))
  | .error e => .error e

/-- The length in bytes that bits [1:0] of a word give (R67). -/
def lenOfWord (x : Nat) : Nat :=
  match x % 4 with
  | 0 => 8
  | 1 => 12
  | 2 => 16
  | _ => 32

/-- The decoder on bytes in memory order: the instruction at their head with its length. -/
def decodeBytes (bs : List Byte) : Dec (Instr × Nat) :=
  match bs with
  | [] => .error (.reserved "no bytes")
  | b :: _ =>
    let n := lenOfWord b.toNat
    if bs.length < n then .error (.reserved "truncated word")
    else (decodeWord (ofBytesLE (bs.take n))).map fun i => (i, n)

/-- The instruction that the decoder reads from a word whose bits are `w` (the host's numbering is the device's own:
bit 0 lowest in the first byte). Bits above the word's length are no part of it. -/
def decodeTableWord (nbits w : Nat) : Option Instr :=
  let x := w % 2 ^ nbits
  match decodeBytes (bytesLE 32 x) with
  | .ok (i, _) => some i
  | .error _ => none

/-! ### The encoder -/

/-- A base word (R73). -/
def encBase (len opc : Nat) (fn : Nat) (g : Guard) (d a b mod : Nat) (c : Ctl) (ext : Nat) : Nat :=
  Raw.toWord { len, opc, fn, pn := bit1 g.pn, pr := g.pr.toNat, d, a, b, mod, ctl := encCtl c, ext }

/-- MOD of OPC 0x10 to 0x7F (R75). -/
def encMod (t : Ty) (r : Rnd) (xf : Bool) : Nat := bit1 xf + 2 * (encRnd r + 8 * encTy t)

/-- MOD of a memory shape (R79). -/
def encMemMod (esz : BitVec 3) (cp : BitVec 2) (scope : BitVec 3) : Nat := scope.toNat + 8 * (cp.toNat + 4 * esz.toNat)

/-- The length code of a word with this second source: 96 bits with IMM32 (R76). -/
def Opd.lenCode : Opd → Nat
  | .spec _ => 0
  | .imm32 _ => 1

/-- The B field of a second source. -/
def Opd.field : Opd → Nat
  | .spec x => encSpec x
  | .imm32 _ => 0

/-- The bits beyond 63 of a second source. -/
def Opd.ext : Opd → Nat
  | .spec _ => 0
  | .imm32 x => x.toNat

/-- The length in bytes of a word with this second source. -/
def Opd.wordLen : Opd → Nat
  | .spec _ => 8
  | .imm32 _ => 12

/-- The length in bytes of a `NOP`. -/
def nopLen (x : NopW) : Nat := lenOfWord x.len.toNat

def encSysW (opc : Nat) (x : SysW) : Nat :=
  encBase 0 opc x.fn.toNat x.g (encSpec x.d) (encSpec x.a) (encSpec x.b) x.mod.toNat x.ctl 0

def encSysI (opc : Nat) (x : SysI) : Nat :=
  encBase x.b.lenCode opc x.fn.toNat x.g (encSpec x.d) (encSpec x.a) x.b.field x.mod.toNat x.ctl x.b.ext

def encSysJ (opc : Nat) (x : SysJ) : Nat :=
  encBase 1 opc x.fn.toNat x.g (encSpec x.d) (encSpec x.a) (encSpec x.b) x.mod.toNat x.ctl x.imm.toNat

def encSysC (opc : Nat) (x : SysC) : Nat :=
  encBase 1 opc x.fn.toNat x.g (encSpec x.d) (encSpec x.a) (encSpec x.b) x.mod.toNat x.ctl
    (encSpec x.c + 1024 * x.mod2.toNat)

def encMemW (opc : Nat) (x : MemW) : Nat :=
  encBase 2 opc (x.sub.toNat + 4 * x.scl.toNat) x.g (encSpec x.d) (encSpec x.a) (encSpec x.b)
    (encMemMod x.esz x.cp x.scope) x.ctl x.ofs.toNat

def encMaW (opc : Nat) (x : MaW) : Nat :=
  encBase 2 opc (x.sub.toNat + 4 * x.scl.toNat) x.g (encSpec x.d) (encSpec x.a) (encSpec x.b)
    (encMemMod x.esz x.cp x.scope) x.ctl (encSpec x.c + 1024 * (encSpec x.c2 + 1024 * x.ofs.toNat))

def encAlu2 (opc : Nat) (x : Alu2) : Nat :=
  encBase x.b.lenCode opc x.fn.toNat x.g (encSpec x.d) (encSpec x.a) x.b.field (encMod x.ty x.rnd x.xf) x.ctl x.b.ext

def encAlu3 (opc : Nat) (x : Alu3) : Nat :=
  encBase 1 opc x.fn.toNat x.g (encSpec x.d) (encSpec x.a) (encSpec x.b) (encMod x.ty x.rnd x.xf) x.ctl
    (encSpec x.c + 1024 * x.mod2.toNat)

def encCmpW (opc : Nat) (x : CmpW) : Nat :=
  encBase x.b.lenCode opc x.cond.toNat x.g x.pd.toNat (encSpec x.a) x.b.field (encMod x.ty .rne false) x.ctl x.b.ext

def encAddcW (opc : Nat) (x : AddcW) : Nat :=
  encBase 1 opc 0 x.g (encSpec x.d) (encSpec x.a) (encSpec x.b) (encMod x.ty .rne false) x.ctl
    (encPSrc x.cin + 1024 * x.cout.toNat)

def encSelW (opc : Nat) (x : SelW) : Nat :=
  encBase 1 opc 0 x.g (encSpec x.d) (encSpec x.a) (encSpec x.b) (encMod x.ty .rne false) x.ctl (encPSrc x.pc)

def encPredW (opc : Nat) (x : PredW) : Nat :=
  encBase 0 opc 0 x.g x.pd.toNat (encPSrc x.pa) (encPSrc x.pb) 0 x.ctl 0

def encPtestW (opc : Nat) (x : PtestW) : Nat := encBase 0 opc x.fn.toNat x.g x.pd.toNat 0 0 64 x.ctl 0

def encVoteW (opc : Nat) (x : VoteW) : Nat :=
  encBase 0 opc x.fn.toNat x.g x.d.toNat (encPSrc x.pa) 0 16 x.ctl 0

/-- A `NOP` (R71). -/
def encNopW (x : NopW) : Nat :=
  encBase x.len.toNat 0x03 0 x.g 0 0 0 0 { sc := false, oen := false, oidx := 0, nodst := false, rls := false, yld := false } 0

/-- A terminator word (R81). -/
def encEndW (opc : Nat) (x : EndW) : Nat :=
  2 + 4 * (opc + 256 * (0 + 16 * (encClause x.c0 + 4194304 * (encClause x.c1 + 4194304 * (encClause x.c2 + 4194304 *
    encClause x.c3)))))

/-- A pair word (R82). -/
def encPairW (x : PairW) : Nat :=
  2 + 4 * (encSlot x.x % 8 + 8 * (30 + 32 * (encSlot x.x / 8 + 2 ^ 57 * encSlot x.y)))

/-- A loop-nest word (R85). -/
def encLoopW (opc : Nat) (x : LoopW) : Nat :=
  3 + 4 * (opc + 256 * (x.sblk.toNat + 64 * (encFive x.ext + 2 ^ 60 * (encFive x.st0 + 2 ^ 60 * (encFive x.st1 + 2 ^ 60 *
    encFive x.st2)))))

/-- The number of the word that encodes an instruction; 0 for an event, which no word encodes. -/
def encodeWord : Instr → Nat
  | .endK x => encEndW 0x00 x
  | .endR x => encEndW 0x01 x
  | .trap x => encSysW 0x02 x
  | .brk x => encSysW 0x0C x
  | .ffree x => encSysW 0x08 x
  | .fence x => encSysW 0x90 x
  | .cinvL1 x => encSysW 0x91 x
  | .cinvL2 x => encSysW 0x91 x
  | .cflush x => encSysW 0x92 x
  | .bind x => encSysW 0x94 x
  | .unbind x => encSysW 0x95 x
  | .qpush x => encSysW 0xA0 x
  | .qpop x => encSysW 0xA1 x
  | .qfence x => encSysW 0xA2 x
  | .mswap x => encSysW 0xB1 x
  | .mzero x => encSysW 0xB4 x
  | .mfmt x => encSysW 0xB5 x
  | .evpop x => encSysW 0xB6 x
  | .evwait x => encSysW 0xB7 x
  | .evict x => encSysW 0xC3 x
  | .seqlockAcq x => encSysW 0xC4 x
  | .seqlockRel x => encSysW 0xC4 x
  | .seqlockTry x => encSysW 0xC4 x
  | .rstat x => encSysW 0xC9 x
  | .ecall x => encSysW 0xD2 x
  | .sret x => encSysW 0xD3 x
  | .perfrd x => encSysW 0xD4 x
  | .resumeq x => encSysW 0xD5 x
  | .nop x => encNopW x
  | .send x => encSysC 0x04 x
  | .sendm x => encSysC 0x05 x
  | .falloc x => encSysC 0x07 x
  | .cpy x => encSysC 0xA4 x
  | .mldw x => encSysC 0xB0 x
  | .mstream x => encSysC 0xB2 x
  | .mdrain x => encSysC 0xB3 x
  | .rdef x => encSysC 0xC8 x
  | .arm x => encSysI 0x06 x
  | .tcset x => encSysI 0x0B x
  | .wait x => encSysJ 0xA3 x
  | .csrr x => encSysJ 0xD0 x
  | .csrw x => encSysJ 0xD1 x
  | .ldf x => encMemW 0x09 x
  | .stf x => encMemW 0x0A x
  | .ld x => encMemW 0x80 x
  | .st x => encMemW 0x81 x
  | .lds x => encMemW 0x82 x
  | .sts x => encMemW 0x83 x
  | .ldx x => encMemW 0x84 x
  | .stx x => encMemW 0x85 x
  | .ldz x => encMemW 0x87 x
  | .stz x => encMemW 0x88 x
  | .pref x => encMemW 0x93 x
  | .kvld x => encMemW 0xC0 x
  | .posld x => encMemW 0xC1 x
  | .stred x => encMaW 0x86 x
  | .atom x => encMaW 0x89 x
  | .red x => encMaW 0x8A x
  | .massacc x => encMaW 0xC2 x
  | .iadd x => encAlu2 0x10 x
  | .isub x => encAlu2 0x11 x
  | .imul x => encAlu2 0x13 x
  | .imulh x => encAlu2 0x14 x
  | .imin x => encAlu2 0x17 x
  | .imax x => encAlu2 0x18 x
  | .iabs x => encAlu2 0x19 x
  | .and x => encAlu2 0x20 x
  | .or x => encAlu2 0x21 x
  | .xor x => encAlu2 0x22 x
  | .andn x => encAlu2 0x23 x
  | .shl x => encAlu2 0x24 x
  | .shr x => encAlu2 0x25 x
  | .sar x => encAlu2 0x26 x
  | .rot x => encAlu2 0x27 x
  | .popc x => encAlu2 0x2A x
  | .clz x => encAlu2 0x2B x
  | .ctz x => encAlu2 0x2C x
  | .brev x => encAlu2 0x2D x
  | .hash x => encAlu2 0x2E x
  | .mov x => encAlu2 0x33 x
  | .movi x => encAlu2 0x34 x
  | .movs x => encAlu2 0x35 x
  | .fadd x => encAlu2 0x40 x
  | .fsub x => encAlu2 0x41 x
  | .fmul x => encAlu2 0x42 x
  | .fmin x => encAlu2 0x44 x
  | .fmax x => encAlu2 0x45 x
  | .fclass x => encAlu2 0x47 x
  | .frnd x => encAlu2 0x48 x
  | .fscale x => encAlu2 0x49 x
  | .rcp x => encAlu2 0x60 x
  | .rsq x => encAlu2 0x61 x
  | .sqrt x => encAlu2 0x62 x
  | .exp2 x => encAlu2 0x63 x
  | .log2 x => encAlu2 0x64 x
  | .sin x => encAlu2 0x65 x
  | .cos x => encAlu2 0x66 x
  | .tanh x => encAlu2 0x67 x
  | .sigm x => encAlu2 0x68 x
  | .lshuf x => encAlu2 0x70 x
  | .lbcast x => encAlu2 0x71 x
  | .lscan x => encAlu2 0x74 x
  | .lred x => encAlu2 0x75 x
  | .selcfg x => encAlu2 0x78 x
  | .selpush x => encAlu2 0x79 x
  | .selpop x => encAlu2 0x7A x
  | .imad x => encAlu3 0x15 x
  | .imadw x => encAlu3 0x16 x
  | .bfe x => encAlu3 0x28 x
  | .bfi x => encAlu3 0x29 x
  | .lea x => encAlu3 0x32 x
  | .ffma x => encAlu3 0x43 x
  | .fdot2 x => encAlu3 0x4A x
  | .fdot4 x => encAlu3 0x4B x
  | .fcvt x => encAlu3 0x50 x
  | .icvt x => encAlu3 0x51 x
  | .cvtn x => encAlu3 0x52 x
  | .isetp x => encCmpW 0x30 x
  | .fsetp x => encCmpW 0x46 x
  | .iaddc x => encAddcW 0x12 x
  | .isel x => encSelW 0x31 x
  | .pand x => encPredW 0x36 x
  | .por x => encPredW 0x37 x
  | .pxor x => encPredW 0x38 x
  | .pnot x => encPredW 0x39 x
  | .ptest x => encPtestW 0x53 x
  | .pclr x => encPtestW 0x54 x
  | .lvote x => encVoteW 0x72 x
  | .lcnt x => encVoteW 0x73 x
  | .pairWord x => encPairW x
  | .vloop x => encLoopW 0xF8 x
  | .vlooprAdd x => encLoopW 0xF9 x
  | .vlooprMin x => encLoopW 0xFA x
  | .vlooprMax x => encLoopW 0xFB x
  | _ => 0

/-- The length in bytes of the word that encodes an instruction; 0 for an event (R67, R86). -/
def Instr.byteLen : Instr → Nat
  | .endK _ | .endR _ => 16
  | .trap _ | .brk _ | .ffree _ | .fence _ | .cinvL1 _ | .cinvL2 _ | .cflush _ | .bind _ | .unbind _ | .qpush _ | .qpop _ | .qfence _ | .mswap _ | .mzero _ | .mfmt _ | .evpop _ | .evwait _ | .evict _ | .seqlockAcq _ | .seqlockRel _ | .seqlockTry _ | .rstat _ | .ecall _ | .sret _ | .perfrd _ | .resumeq _ => 8
  | .nop x => nopLen x
  | .send _ | .sendm _ | .falloc _ | .cpy _ | .mldw _ | .mstream _ | .mdrain _ | .rdef _ => 12
  | .arm x | .tcset x => x.b.wordLen
  | .wait _ | .csrr _ | .csrw _ => 12
  | .ldf _ | .stf _ | .ld _ | .st _ | .lds _ | .sts _ | .ldx _ | .stx _ | .ldz _ | .stz _ | .pref _ | .kvld _ | .posld _ => 16
  | .stred _ | .atom _ | .red _ | .massacc _ => 16
  | .iadd x | .isub x | .imul x | .imulh x | .imin x | .imax x | .iabs x | .and x | .or x | .xor x | .andn x | .shl x | .shr x | .sar x | .rot x | .popc x | .clz x | .ctz x | .brev x | .hash x | .mov x | .movi x | .movs x | .fadd x | .fsub x | .fmul x | .fmin x | .fmax x | .fclass x | .frnd x | .fscale x | .rcp x | .rsq x | .sqrt x | .exp2 x | .log2 x | .sin x | .cos x | .tanh x | .sigm x | .lshuf x | .lbcast x | .lscan x | .lred x | .selcfg x | .selpush x | .selpop x => x.b.wordLen
  | .imad _ | .imadw _ | .bfe _ | .bfi _ | .lea _ | .ffma _ | .fdot2 _ | .fdot4 _ | .fcvt _ | .icvt _ | .cvtn _ => 12
  | .isetp x | .fsetp x => x.b.wordLen
  | .iaddc _ => 12
  | .isel _ => 12
  | .pand _ | .por _ | .pxor _ | .pnot _ => 8
  | .ptest _ | .pclr _ => 8
  | .lvote _ | .lcnt _ => 8
  | .pairWord _ => 16
  | .vloop _ | .vlooprAdd _ | .vlooprMin _ | .vlooprMax _ => 32
  | _ => 0

/-- The instruction is one that a word encodes; the other constructors of `Instr` are events. -/
def Instr.isWord (i : Instr) : Bool := i.byteLen ≠ 0

/-- The encoder: the bytes of an instruction's word in memory order; none for an event. -/
def encode (i : Instr) : List Byte := bytesLE i.byteLen (encodeWord i)

/-- The row of the opcode table that a constructor stands for. -/
def Instr.mnemonic : Instr → String
  | .endK .. => "END"
  | .endR .. => "ENDR"
  | .trap .. => "TRAP"
  | .nop .. => "NOP"
  | .send .. => "SEND"
  | .sendm .. => "SENDM"
  | .arm .. => "ARM"
  | .falloc .. => "FALLOC"
  | .ffree .. => "FFREE"
  | .ldf .. => "LDF"
  | .stf .. => "STF"
  | .tcset .. => "TCSET"
  | .brk .. => "BRK"
  | .iadd .. => "IADD"
  | .isub .. => "ISUB"
  | .iaddc .. => "IADDC"
  | .imul .. => "IMUL"
  | .imulh .. => "IMULH"
  | .imad .. => "IMAD"
  | .imadw .. => "IMADW"
  | .imin .. => "IMIN"
  | .imax .. => "IMAX"
  | .iabs .. => "IABS"
  | .and .. => "AND"
  | .or .. => "OR"
  | .xor .. => "XOR"
  | .andn .. => "ANDN"
  | .shl .. => "SHL"
  | .shr .. => "SHR"
  | .sar .. => "SAR"
  | .rot .. => "ROT"
  | .bfe .. => "BFE"
  | .bfi .. => "BFI"
  | .popc .. => "POPC"
  | .clz .. => "CLZ"
  | .ctz .. => "CTZ"
  | .brev .. => "BREV"
  | .hash .. => "HASH"
  | .isetp .. => "ISETP"
  | .isel .. => "ISEL"
  | .lea .. => "LEA"
  | .mov .. => "MOV"
  | .movi .. => "MOVI"
  | .movs .. => "MOVS"
  | .pand .. => "PAND"
  | .por .. => "POR"
  | .pxor .. => "PXOR"
  | .pnot .. => "PNOT"
  | .fadd .. => "FADD"
  | .fsub .. => "FSUB"
  | .fmul .. => "FMUL"
  | .ffma .. => "FFMA"
  | .fmin .. => "FMIN"
  | .fmax .. => "FMAX"
  | .fsetp .. => "FSETP"
  | .fclass .. => "FCLASS"
  | .frnd .. => "FRND"
  | .fscale .. => "FSCALE"
  | .fdot2 .. => "FDOT2"
  | .fdot4 .. => "FDOT4"
  | .fcvt .. => "FCVT"
  | .icvt .. => "ICVT"
  | .cvtn .. => "CVTN"
  | .ptest .. => "PTEST"
  | .pclr .. => "PCLR"
  | .rcp .. => "RCP"
  | .rsq .. => "RSQ"
  | .sqrt .. => "SQRT"
  | .exp2 .. => "EXP2"
  | .log2 .. => "LOG2"
  | .sin .. => "SIN"
  | .cos .. => "COS"
  | .tanh .. => "TANH"
  | .sigm .. => "SIGM"
  | .lshuf .. => "LSHUF"
  | .lbcast .. => "LBCAST"
  | .lvote .. => "LVOTE"
  | .lcnt .. => "LCNT"
  | .lscan .. => "LSCAN"
  | .lred .. => "LRED"
  | .selcfg .. => "SELCFG"
  | .selpush .. => "SELPUSH"
  | .selpop .. => "SELPOP"
  | .ld .. => "LD"
  | .st .. => "ST"
  | .lds .. => "LDS"
  | .sts .. => "STS"
  | .ldx .. => "LDX"
  | .stx .. => "STX"
  | .stred .. => "STRED"
  | .ldz .. => "LDZ"
  | .stz .. => "STZ"
  | .atom .. => "ATOM"
  | .red .. => "RED"
  | .fence .. => "FENCE"
  | .cinvL1 .. => "CINV_L1"
  | .cinvL2 .. => "CINV_L2"
  | .cflush .. => "CFLUSH"
  | .pref .. => "PREF"
  | .bind .. => "BIND"
  | .unbind .. => "UNBIND"
  | .qpush .. => "QPUSH"
  | .qpop .. => "QPOP"
  | .qfence .. => "QFENCE"
  | .wait .. => "WAIT"
  | .cpy .. => "CPY"
  | .vloop .. => "VLOOP"
  | .vlooprAdd .. => "VLOOPR_ADD"
  | .vlooprMin .. => "VLOOPR_MIN"
  | .vlooprMax .. => "VLOOPR_MAX"
  | .pairWord .. => "PAIR_WORD"
  | .mldw .. => "MLDW"
  | .mswap .. => "MSWAP"
  | .mstream .. => "MSTREAM"
  | .mdrain .. => "MDRAIN"
  | .mzero .. => "MZERO"
  | .mfmt .. => "MFMT"
  | .evpop .. => "EVPOP"
  | .evwait .. => "EVWAIT"
  | .kvld .. => "KVLD"
  | .posld .. => "POSLD"
  | .massacc .. => "MASSACC"
  | .evict .. => "EVICT"
  | .seqlockAcq .. => "SEQLOCK_ACQ"
  | .seqlockRel .. => "SEQLOCK_REL"
  | .seqlockTry .. => "SEQLOCK_TRY"
  | .rdef .. => "RDEF"
  | .rstat .. => "RSTAT"
  | .csrr .. => "CSRR"
  | .csrw .. => "CSRW"
  | .ecall .. => "ECALL"
  | .sret .. => "SRET"
  | .perfrd .. => "PERFRD"
  | .resumeq .. => "RESUMEQ"
  | .countersDrained .. => "COUNTERS_DRAINED"
  | .waitRelease .. => "WAIT_RELEASE"
  | .counterStallRelease .. => "COUNTER_STALL_RELEASE"
  | .queueUnblock .. => "QUEUE_UNBLOCK"
  | .busyParkRelease .. => "BUSY_PARK_RELEASE"
  | .seqlockParkRelease .. => "SEQLOCK_PARK_RELEASE"
  | .matrixIssueRelease .. => "MATRIX_ISSUE_RELEASE"
  | .heldTokenVisible .. => "HELD_TOKEN_VISIBLE"
  | .heldReleaseStore .. => "HELD_RELEASE_STORE"
  | .accessPerformed .. => "ACCESS_PERFORMED"
  | .stredAddition .. => "STRED_ADDITION"
  | .atomicStep .. => "ATOMIC_STEP"
  | .tokenArrival .. => "TOKEN_ARRIVAL"
  | .armArrival .. => "ARM_ARRIVAL"
  | .ffreeMessage .. => "FFREE_MESSAGE"
  | .collisionRetry .. => "COLLISION_RETRY"
  | .parkedDescriptorScan .. => "PARKED_DESCRIPTOR_SCAN"
  | .gatherTimeout .. => "GATHER_TIMEOUT"
  | .warpFormation .. => "WARP_FORMATION"
  | .sequencerWarpFormation .. => "SEQUENCER_WARP_FORMATION"
  | .rangeSpawn .. => "RANGE_SPAWN"
  | .spawnQueuePlacement .. => "SPAWN_QUEUE_PLACEMENT"
  | .faultRingRoom .. => "FAULT_RING_ROOM"
  | .copyCommand .. => "COPY_COMMAND"
  | .copyChunk .. => "COPY_CHUNK"
  | .copyCompletion .. => "COPY_COMPLETION"
  | .matrixInstructionBegin .. => "MATRIX_INSTRUCTION_BEGIN"
  | .mldwCompletion .. => "MLDW_COMPLETION"
  | .mstreamRow .. => "MSTREAM_ROW"
  | .mdrainRow .. => "MDRAIN_ROW"
  | .matrixEvent .. => "MATRIX_EVENT"
  | .selectEntry .. => "SELECT_ENTRY"
  | .enckeCommand .. => "ENCKE_COMMAND"
  | .eviction .. => "EVICTION"
  | .charonMerge .. => "CHARON_MERGE"
  | .taskCompletion .. => "TASK_COMPLETION"
  | .launchProcessing .. => "LAUNCH_PROCESSING"
  | .gangPlacement .. => "GANG_PLACEMENT"
  | .powerGrant .. => "POWER_GRANT"
  | .rampWindow .. => "RAMP_WINDOW"
  | .slotChoice .. => "SLOT_CHOICE"
  | .quantumExpiry .. => "QUANTUM_EXPIRY"
  | .preemptionHalt .. => "PREEMPTION_HALT"
  | .imageCut .. => "IMAGE_CUT"
  | .shareRestore .. => "SHARE_RESTORE"
  | .contextDiscardComplete .. => "CONTEXT_DISCARD_COMPLETE"
  | .ccfg .. => "CCFG"
  | .swapout .. => "SWAPOUT"
  | .swapin .. => "SWAPIN"
  | .contextEnd .. => "CONTEXT_END"
  | .contextContinue .. => "CONTINUE"
  | .contextFree .. => "FREE"
  | .resume .. => "RESUME"
  | .launch .. => "LAUNCH"
  | .invgo .. => "INVGO"
  | .invalidationDone .. => "INVALIDATION_DONE"
  | .rpadd .. => "RPADD"
  | .heldHostWrite .. => "HELD_HOST_WRITE"
  | .hostMemoryAccess .. => "HOST_MEMORY_ACCESS"
  | .eventSelectionWrite .. => "EVENT_SELECTION_WRITE"
  | .registerWrite .. => "REGISTER_WRITE"
  | .sensors .. => "SENSORS"
  | .logread .. => "LOGREAD"
  | .liferead .. => "LIFEREAD"
  | .retired .. => "RETIRED"
  | .setpwr .. => "SETPWR"
  | .setsplit .. => "SETSPLIT"
  | .setdev .. => "SETDEV"
  | .routes .. => "ROUTES"
  | .scrub .. => "SCRUB"
  | .setmode .. => "SETMODE"
  | .fwstage .. => "FWSTAGE"
  | .fwact .. => "FWACT"
  | .attest .. => "ATTEST"
  | .watchdogExpiry .. => "WATCHDOG_EXPIRY"
  | .sensorSample .. => "SENSOR_SAMPLE"
  | .lifeHistogramFlush .. => "LIFE_HISTOGRAM_FLUSH"
  | .heatWindow .. => "HEAT_WINDOW"
  | .patrolScrub .. => "PATROL_SCRUB"
  | .boot .. => "BOOT"
  | .coreFailure .. => "CORE_FAILURE"
  | .unitFailure .. => "UNIT_FAILURE"
  | .linkDown .. => "LINK_DOWN"
  | .hostLinkFailure .. => "HOST_LINK_FAILURE"
  | .mailboxCommandDone .. => "MAILBOX_COMMAND_DONE"
  | .l1LineDeparture .. => "L1_LINE_DEPARTURE"
  | .l2SectorWriteback .. => "L2_SECTOR_WRITEBACK"
  | .deviceLinkUp .. => "DEVICE_LINK_UP"
  | .deviceLinkCopyTraffic .. => "DEVICE_LINK_COPY_TRAFFIC"
  | .powerLoss .. => "POWER_LOSS"
end Sys2Proof
end

