-- ==== Sys2Proof/Machine/Num.lean ====
section
/-! DEFINITION. Exact numbers, the wide binary formats and the one rounding of every operation (R20-R29, R39). -/

namespace Sys2Proof

/-- An exact magnitude: `num / den * 2^e`, or the square root of that. `den` is never 0. -/
inductive Mag where
  | rat (num den : Nat) (e : Int)
  | root (num den : Nat) (e : Int)
deriving DecidableEq, Repr

/-- A number an operand holds: NaN, an infinity or a signed dyadic `m * 2^e`; the `Bool` is the sign. -/
inductive FV where
  | nan
  | inf (neg : Bool)
  | fin (neg : Bool) (m : Nat) (e : Int)
deriving DecidableEq, Repr

/-- `a * 2^ea` against `b * 2^eb`. -/
def cmpDyadic (a : Nat) (ea : Int) (b : Nat) (eb : Int) : Ordering :=
  if eb ≤ ea then compare (a * 2 ^ (ea - eb).toNat) b else compare a (b * 2 ^ (eb - ea).toNat)

/-- The magnitude against `n * 2^e`, exactly. -/
def Mag.cmp : Mag → Nat → Int → Ordering
  | .rat num den xe, n, e => cmpDyadic num xe (n * den) e
  | .root num den xe, n, e => cmpDyadic num xe (n * n * den) (2 * e)

/-- Whether the magnitude is zero. -/
def Mag.isZero : Mag → Bool
  | .rat num _ _ | .root num _ _ => num == 0

/-- `floor(log2 x)` of a magnitude above zero. -/
def Mag.lg : Mag → Int
  | .rat num den e =>
    let k := (num.log2 : Int) - (den.log2 : Int) + e
    if (Mag.rat num den e).cmp 1 k = .lt then k - 1 else k
  | .root num den e =>
    let k := (num.log2 : Int) - (den.log2 : Int) + e
    (if (Mag.rat num den e).cmp 1 k = .lt then k - 1 else k) / 2

/-- The bits of an integer square root from bit `k - 1` down. -/
def isqrtGo : Nat → Nat → Nat → Nat
  | 0, _, acc => acc
  | k + 1, n, acc => if (acc + 2 ^ k) * (acc + 2 ^ k) ≤ n then isqrtGo k n (acc + 2 ^ k) else isqrtGo k n acc

/-- The integer square root, rounded down. -/
def isqrt (n : Nat) : Nat := isqrtGo (n.log2 / 2 + 1) n 0

/-- `floor(num / den * 2^e)`. -/
def floorRat (num den : Nat) (e : Int) : Nat :=
  if 0 ≤ e then num * 2 ^ e.toNat / den else num / (den * 2 ^ (-e).toNat)

/-- `floor(x / 2^e)`. -/
def Mag.floorAt : Mag → Int → Nat
  | .rat num den xe, e => floorRat num den (xe - e)
  | .root num den xe, e => isqrt (floorRat num den (xe - 2 * e))

/-- The value of the stochastic choice (R28): the hash chain over seed, tag, lane and element (DEDUCED, log entry 48). -/
def srQ (srseed tag : Word) (lane element : Nat) : Word :=
  hash32 (hash32 (hash32 (srseed ^^^ tag) ^^^ BitVec.ofNat 32 lane) ^^^ BitVec.ofNat 32 element)

/-- Whether rounding takes `hi * 2^e` rather than `lo * 2^e` for an `x` between them (R27, R28, R35); `loOdd` is the
parity of the code of `lo`. -/
def takesHi (mode : Rnd) (neg : Bool) (q : Word) (x : Mag) (lo hi : Nat) (e : Int) (loOdd : Bool) : Bool :=
  if x.cmp lo e = .eq then false
  else match mode with
    | .rne | .dyn => match x.cmp (lo + hi) (e - 1) with
      | .gt => true
      | .eq => loOdd
      | .lt => false
    | .rtz => false
    | .rup => !neg
    | .rdn => neg
    | .rna => x.cmp (lo + hi) (e - 1) != .lt
    | .sr => x.cmp (lo * 2 ^ 32 + q.toNat * (hi - lo)) (e - 32) == .gt

/-- `x / 2^e` rounded to an integer (DEDUCED, log entry 48). -/
def roundAt (mode : Rnd) (neg : Bool) (q : Word) (x : Mag) (e : Int) : Nat :=
  let lo := x.floorAt e
  if takesHi mode neg q x lo (lo + 1) e (lo % 2 == 1) then lo + 1 else lo

/-- `x` rounded to `p` significant bits with the quantum at least `2^emin` and no upper limit of the exponent: `m` and
`e` of `m * 2^e`, `m` below `2^p`. -/
def roundMag (mode : Rnd) (neg : Bool) (q : Word) (p : Nat) (emin : Int) (x : Mag) : Nat × Int :=
  if x.isZero then (0, emin)
  else
    let e := if emin ≤ x.lg - ((p : Int) - 1) then x.lg - ((p : Int) - 1) else emin
    let m := roundAt mode neg q x e
    if m = 2 ^ p then (2 ^ (p - 1), e + 1) else (m, e)

/-- A wide binary format: exponent and fraction widths (R20). -/
structure FFmt where
  eb : Nat
  mb : Nat
deriving DecidableEq, Repr

def fmt64 : FFmt := { eb := 11, mb := 52 }
def fmt32 : FFmt := { eb := 8, mb := 23 }
def fmt16 : FFmt := { eb := 5, mb := 10 }
def fmtB16 : FFmt := { eb := 8, mb := 7 }

/-- The exponent bias. -/
def FFmt.bias (f : FFmt) : Int := ((2 ^ (f.eb - 1) - 1 : Nat) : Int)

/-- The width in bits. -/
def FFmt.width (f : FFmt) : Nat := 1 + f.eb + f.mb

/-- The exponent of the smallest subnormal. -/
def FFmt.emin (f : FFmt) : Int := 1 - f.bias - (f.mb : Int)

/-- The exponent of the unit of the largest finite value. -/
def FFmt.emax (f : FFmt) : Int := ((2 ^ f.eb - 2 : Nat) : Int) - f.bias - (f.mb : Int)

/-- The canonical quiet NaN (R23). -/
def FFmt.nanBits (f : FFmt) : Nat := (2 ^ f.eb - 1) * 2 ^ f.mb + 2 ^ (f.mb - 1)

/-- The bits of a sign and a body. -/
def FFmt.withSign (f : FFmt) (neg : Bool) (body : Nat) : Nat := (if neg then 2 ^ (f.width - 1) else 0) + body

/-- The bits of an infinity. -/
def FFmt.infBits (f : FFmt) (neg : Bool) : Nat := f.withSign neg ((2 ^ f.eb - 1) * 2 ^ f.mb)

/-- The bits of the largest finite value. -/
def FFmt.maxBits (f : FFmt) (neg : Bool) : Nat := f.withSign neg ((2 ^ f.eb - 1) * 2 ^ f.mb - 1)

/-- The number a code holds; `daz` reads a subnormal as a zero of its sign, never for binary64 (R24, R25). -/
def FFmt.read (f : FFmt) (daz : Bool) (raw : Nat) : FV :=
  let s := bitOf raw (f.width - 1)
  let e := bitsOf raw (f.width - 2) f.mb
  let m := raw % 2 ^ f.mb
  if e = 2 ^ f.eb - 1 then (if m = 0 then .inf s else .nan)
  else if e = 0 then (if daz && f.eb ≠ 11 then .fin s 0 0 else .fin s m f.emin)
  else .fin s (2 ^ f.mb + m) ((e : Int) - 1 + f.emin)

/-- An overflow of a wide format under each rounding code (R21, R28). -/
def FFmt.overflow (f : FFmt) (mode : Rnd) (neg : Bool) : Nat :=
  match mode with
  | .rne | .rna | .sr | .dyn => f.infBits neg
  | .rtz => f.maxBits neg
  | .rup => if neg then f.maxBits neg else f.infBits neg
  | .rdn => if neg then f.infBits neg else f.maxBits neg

/-- The bits of `m * 2^e`, already rounded to the format's precision. -/
def FFmt.pack (f : FFmt) (mode : Rnd) (ftz neg : Bool) (m : Nat) (e : Int) : Nat :=
  if f.emax < e then f.overflow mode neg
  else if m < 2 ^ f.mb then f.withSign neg (if ftz && f.eb ≠ 11 then 0 else m)
  else f.withSign neg ((e - f.emin).toNat * 2 ^ f.mb + m)

/-- One rounding of a magnitude to a wide format (`round_to`, R132). -/
def FFmt.round (f : FFmt) (mode : Rnd) (ftz neg : Bool) (q : Word) (x : Mag) : Nat :=
  let r := roundMag mode neg q (f.mb + 1) f.emin x
  f.pack mode ftz neg r.1 r.2

/-- One rounding of a number to a wide format; NaN is the canonical one (R23). -/
def FFmt.roundFV (f : FFmt) (mode : Rnd) (ftz : Bool) (q : Word) : FV → Nat
  | .nan => f.nanBits
  | .inf s => f.infBits s
  | .fin s m e => f.round mode ftz s q (.rat m 1 e)

/-- Whether a code is a NaN of the format. -/
def FFmt.isNaN (f : FFmt) (raw : Nat) : Bool :=
  bitsOf raw (f.width - 2) f.mb = 2 ^ f.eb - 1 && raw % 2 ^ f.mb ≠ 0

/-! ### Exact arithmetic (R21, R132) -/

/-- Whether the number is NaN. -/
def FV.isNaN : FV → Bool
  | .nan => true
  | _ => false

/-- Whether the number is a zero. -/
def FV.isZero : FV → Bool
  | .fin _ m _ => m == 0
  | _ => false

/-- The sign; NaN has none. -/
def FV.neg : FV → Bool
  | .nan => false
  | .inf s | .fin s _ _ => s

/-- The number with its sign changed. -/
def FV.negate : FV → FV
  | .nan => .nan
  | .inf s => .inf (!s)
  | .fin s m e => .fin (!s) m e

/-- The magnitude. -/
def FV.abs : FV → FV
  | .nan => .nan
  | .inf _ => .inf false
  | .fin _ m e => .fin false m e

/-- The integer `i`. -/
def FV.ofInt (i : Int) : FV := .fin (i < 0) i.natAbs 0

/-- The exact sum; an exact zero takes its sign as IEEE 754-2019 gives it under the rounding mode. -/
def FV.add (mode : Rnd) : FV → FV → FV
  | .nan, _ | _, .nan => .nan
  | .inf s, .inf t => if s = t then .inf s else .nan
  | .inf s, .fin _ _ _ | .fin _ _ _, .inf s => .inf s
  | .fin s m e, .fin t n f =>
    let g := if e ≤ f then e else f
    let a : Int := (m * 2 ^ (e - g).toNat : Nat)
    let b : Int := (n * 2 ^ (f - g).toNat : Nat)
    let v := (if s then -a else a) + (if t then -b else b)
    if v = 0 then (if m = 0 && n = 0 && s == t then .fin s 0 0 else .fin (mode = .rdn) 0 0)
    else .fin (v < 0) v.natAbs g

/-- The exact product; zero times an infinity is invalid. -/
def FV.mul : FV → FV → FV
  | .nan, _ | _, .nan => .nan
  | .inf s, .inf t => .inf (s != t)
  | .inf s, .fin t m _ | .fin t m _, .inf s => if m = 0 then .nan else .inf (s != t)
  | .fin s m e, .fin t n f => .fin (s != t) (m * n) (e + f)

/-- Comparison of two numbers, −0 equal to +0; none where either is NaN (R135). -/
def FV.cmp : FV → FV → Option Ordering
  | .nan, _ | _, .nan => none
  | .inf s, .inf t => some (if s = t then .eq else if s then .lt else .gt)
  | .inf s, .fin _ _ _ => some (if s then .lt else .gt)
  | .fin _ _ _, .inf t => some (if t then .gt else .lt)
  | .fin s m e, .fin t n f =>
    if m = 0 && n = 0 then some .eq
    else if m = 0 then some (if t then .gt else .lt)
    else if n = 0 then some (if s then .lt else .gt)
    else if s ≠ t then some (if s then .lt else .gt)
    else some (if s then cmpDyadic n f m e else cmpDyadic m e n f)

/-- The number times `2^n` (R137). The count is limited to ±8192, beyond which every format's result is the same (DEDUCED, log entry 49). -/
def FV.scale (n : Int) : FV → FV
  | .nan => .nan
  | .inf s => .inf s
  | .fin s m e => .fin s m (e + satInt n (-8192) 8192)

/-- A number rounded to an integer and limited to `lo` to `hi`; NaN is 0 (R37, R143). -/
def FV.toIntSat (mode : Rnd) (q : Word) (lo hi : Int) : FV → Int
  | .nan => 0
  | .inf s => if s then lo else hi
  | .fin s m e =>
    let n : Int := roundAt mode s q (.rat m 1 e) 0
    satInt (if s then -n else n) lo hi

/-- A wide floating element type's format. -/
def Ty.ffmt : Ty → FFmt
  | .f64 => fmt64
  | .f16 | .f16x2 => fmt16
  | .bf16 | .bf16x2 => fmtB16
  | _ => fmt32

/-! ### Q8.24 (R39) -/

/-- A binary32 value as a Q8.24 count: none for NaN, which contributes nothing. -/
def q824OfF32 (w : Word) : Option Nat :=
  match fmt32.read false w.toNat with
  | .nan => none
  | .inf s => some (if s then 0 else 0xFFFFFFFF)
  | .fin s m e =>
    if s || m = 0 then some 0
    else if cmpDyadic m e 256 0 ≠ .lt then some 0xFFFFFFFF
    else
      let n := roundAt .rne false 0 (.rat m 1 e) (-24)
      some (if n < 0xFFFFFFFF then n else 0xFFFFFFFF)

/-- Saturating addition of Q8.24 counts. -/
def q824Add (a b : Nat) : Nat := if a + b < 0xFFFFFFFF then a + b else 0xFFFFFFFF

end Sys2Proof
end

