-- ==== Sys2Proof/Machine/Narrow.lean ====
section
/-! DEFINITION. Format descriptors, the narrow formats and their conversions, block scales (R30-R38, R139, R142,
R144). -/

namespace Sys2Proof

/-- The three styles of a narrow format (R30). -/
inductive Style where
  | o | n | int
deriving DecidableEq, Repr

/-- The scale kinds (R30). -/
inductive SKind where
  | none | e8m0 | e4m3
deriving DecidableEq, Repr

/-- A format descriptor read out (R30): `bsize` is the elements of a block, 0 for none. -/
structure NFmt where
  style : Style
  e : Nat
  m : Nat
  bias : Int
  satf : Bool
  skind : SKind
  bsize : Nat
deriving DecidableEq, Repr

/-- Whether the exponent and mantissa widths are those of an O-style format (R31). -/
def oPair (e m : Nat) : Bool :=
  (e == 4 && m == 3) || (e == 5 && m == 2) || (e == 3 && m == 2) || (e == 2 && m == 3) || (e == 2 && m == 1)

/-- Whether a descriptor is valid (R31). -/
def fdValid (w : Word) : Bool :=
  let x := w.toNat
  let bs := bitsOf x 22 20
  let sk := bitsOf x 19 17
  let satf := bitOf x 16
  let bias := bitsOf x 15 8
  let m := bitsOf x 7 5
  let e := bitsOf x 4 2
  bitsOf x 31 23 == 0 && bs ≤ 4 && sk ≤ 2 && ((sk == 0) == (bs == 0)) &&
  (match x % 4 with
    | 0 => oPair e m && bias == 0 && ((sk == 0 && bs == 0) || (sk == 1 && bs == 3) || (sk == 2 && bs == 2))
    | 1 => e ≥ 1 && 1 + e + m ≤ 8
    | 2 => e ≤ 1 && (m == 3 || m == 7) && bias == 0 && !satf
    | _ => false)

/-- The format a descriptor describes; an O-style format's bias is that of R32. -/
def nfmt (w : Word) : NFmt :=
  let x := w.toNat
  let e := bitsOf x 4 2
  { style := match x % 4 with
      | 0 => .o
      | 1 => .n
      | _ => .int
    e := e
    m := bitsOf x 7 5
    bias := if x % 4 = 0 then ((2 ^ (e - 1) - 1 : Nat) : Int) else sextInt 8 (bitsOf x 15 8)
    satf := bitOf x 16
    skind := match bitsOf x 19 17 with
      | 1 => .e8m0
      | 2 => .e4m3
      | _ => .none
    bsize := match bitsOf x 22 20 with
      | 1 => 8
      | 2 => 16
      | 3 => 32
      | 4 => 64
      | _ => 0 }

/-- The descriptor a context holds when its value is unset: O-style E4M3 without a scale (R31, R192). -/
def fdDefault : Word := 0x00000070#32

/-- A code's width in bits. -/
def NFmt.width (f : NFmt) : Nat := match f.style with
  | .int => f.m + 1
  | _ => 1 + f.e + f.m

/-- The slot width in a register (R139). -/
def NFmt.slot (f : NFmt) : Nat := if f.width ≤ 4 then 4 else 8

/-- Slots in a register (R139). -/
def NFmt.cap (f : NFmt) : Nat := 32 / f.slot

/-- Whether the format is OFP8 E4M3. -/
def NFmt.isE4M3 (f : NFmt) : Bool := f.style == .o && f.e == 4 && f.m == 3

/-- Whether the format is OFP8 E5M2. -/
def NFmt.isE5M2 (f : NFmt) : Bool := f.style == .o && f.e == 5 && f.m == 2

/-- The exponent of the largest finite value (R144). -/
def NFmt.emax (f : NFmt) : Int := ((2 ^ f.e - 1 : Nat) : Int) - f.bias - (if f.isE5M2 then 1 else 0)

/-- The largest finite value as `m * 2^e` (R32, R34). -/
def NFmt.largest (f : NFmt) : Nat × Int :=
  (2 ^ (f.m + 1) - 1 - (if f.isE4M3 then 1 else 0), f.emax - (f.m : Int))

/-- The number a code holds, and whether reading it poisons the lane: the N-style special code (R32, R34, R37). -/
def NFmt.read (f : NFmt) (code : Nat) : FV × Bool :=
  let c := code % 2 ^ f.width
  match f.style with
  | .int => (FV.ofInt (if f.e = 0 then sextInt f.width c else (c : Int)), false)
  | .n =>
    let s := bitOf c (f.width - 1)
    let ef := bitsOf c (f.width - 2) f.m
    let mf := c % 2 ^ f.m
    if ef = 0 && mf = 0 then (if s then (.nan, true) else (.fin false 0 0, false))
    else (.fin s (2 ^ f.m + mf) ((ef : Int) - f.bias - (f.m : Int)), false)
  | .o =>
    let s := bitOf c (f.width - 1)
    let ef := bitsOf c (f.width - 2) f.m
    let mf := c % 2 ^ f.m
    if f.isE5M2 && ef = 31 then ((if mf = 0 then .inf s else .nan), false)
    else if f.isE4M3 && ef = 15 && mf = 7 then (.nan, false)
    else if ef = 0 then (.fin s mf (1 - f.bias - (f.m : Int)), false)
    else (.fin s (2 ^ f.m + mf) ((ef : Int) - f.bias - (f.m : Int)), false)

/-- A code written: its bits, whether the write poisons the lane, and whether it is a NaN of the format. -/
structure NCode where
  code : Nat
  poison : Bool
  isNaN : Bool
deriving DecidableEq, Repr

/-- A code that is a number. -/
def plainCode (c : Nat) : NCode := { code := c, poison := false, isNaN := false }

/-- The code of `m * 2^e` (`m` a full significand, or an O-style subnormal) with a sign. -/
def NFmt.pack (f : NFmt) (neg : Bool) (m : Nat) (e : Int) : Nat :=
  (if neg then 2 ^ (f.width - 1) else 0) +
  (match f.style with
    | .o => if m < 2 ^ f.m then m
      else (e - (1 - f.bias - (f.m : Int)) + 1).toNat * 2 ^ f.m + (m - 2 ^ f.m)
    | _ => (e + f.bias + (f.m : Int)).toNat * 2 ^ f.m + (m - 2 ^ f.m))

/-- The code of the largest finite value. -/
def NFmt.maxCode (f : NFmt) (neg : Bool) : Nat := f.pack neg f.largest.1 f.largest.2

/-- Conversion of a NaN (R36, R37, R142). -/
def NFmt.nanCode (f : NFmt) : NCode :=
  if f.isE4M3 then { code := 0x7F, poison := false, isNaN := true }
  else if f.isE5M2 then { code := 0x7E, poison := false, isNaN := true }
  else match f.style with
    | .n => { code := 2 ^ (f.width - 1), poison := true, isNaN := true }
    | _ => { code := 0, poison := true, isNaN := false }

/-- An overflow (R36, R142). -/
def NFmt.overflow (f : NFmt) (sat neg : Bool) : NCode :=
  if sat then plainCode (f.maxCode neg)
  else if f.isE4M3 then { code := 0x7F, poison := false, isNaN := true }
  else if f.isE5M2 then plainCode (if neg then 0xFC else 0x7C)
  else match f.style with
    | .n => { code := 2 ^ (f.width - 1), poison := true, isNaN := true }
    | _ => plainCode (f.maxCode neg)

/-- The modes under which a magnitude above the largest finite value gives that value (R36). -/
def towardZero (mode : Rnd) (neg : Bool) : Bool :=
  match mode with
  | .rtz => true
  | .rdn => !neg
  | .rup => neg
  | _ => false

/-- Rounding of a magnitude at or above the smallest positive value of an N-style value set with mantissa width `m` and
bias `bias`, without an upper limit. With `m = 0` neighbours are `2^k` and `2^(k+1)`, and the parity is that of the
exponent field (R27, R34). -/
def roundN (mode : Rnd) (neg : Bool) (q : Word) (m : Nat) (bias : Int) (x : Mag) : Nat × Int :=
  if m = 0 then
    if takesHi mode neg q x 1 2 x.lg ((x.lg + bias) % 2 == 1) then (1, x.lg + 1) else (1, x.lg)
  else roundMag mode neg q (m + 1) (-bias - (m : Int)) x

/-- The smallest positive value of such a set (R34, R35). -/
def smallestN (m : Nat) (bias : Int) : Nat × Int := if m = 0 then (1, 1 - bias) else (2 ^ m + 1, -bias - (m : Int))

/-- A magnitude rounded to such a set with zero: `(0, 0)` is zero. -/
def roundNZ (mode : Rnd) (neg : Bool) (q : Word) (m : Nat) (bias : Int) (x : Mag) : Nat × Int :=
  let s := smallestN m bias
  if x.isZero then (0, 0)
  else if x.cmp s.1 s.2 = .lt then (if takesHi mode neg q x 0 s.1 s.2 false then s else (0, 0))
  else roundN mode neg q m bias x

/-- The second step of a conversion to an N-style format, or the only one (R35, R36). -/
def NFmt.writeN (f : NFmt) (mode : Rnd) (sat neg : Bool) (q : Word) (x : Mag) : NCode :=
  let r := roundNZ mode neg q f.m f.bias x
  if r.1 = 0 then plainCode 0
  else if cmpDyadic r.1 r.2 f.largest.1 f.largest.2 = .gt then
    (if towardZero mode neg then plainCode (f.maxCode neg) else f.overflow sat neg)
  else plainCode (f.pack neg r.1 r.2)

/-- Conversion of a finite value to an N-style format, through the intermediate set under WX (R35). -/
def NFmt.writeWX (f : NFmt) (mode : Rnd) (wx sat neg : Bool) (q : Word) (x : Mag) : NCode :=
  if wx then
    let r := roundNZ mode neg q f.m (f.bias + 2 ^ (f.e + 1)) x
    let top : Nat × Int := (2 ^ (f.m + 1) - 1, 2 ^ (f.e + 1) - 1 - f.bias - (f.m : Int))
    if r.1 = 0 then plainCode 0
    else if cmpDyadic r.1 r.2 top.1 top.2 = .gt then
      (if towardZero mode neg then f.writeN mode sat neg q (.rat top.1 1 top.2) else f.overflow sat neg)
    else f.writeN mode sat neg q (.rat r.1 1 r.2)
  else f.writeN mode sat neg q x

/-- Conversion of a finite value to an O-style format (R36, R142). -/
def NFmt.writeO (f : NFmt) (mode : Rnd) (sat neg : Bool) (q : Word) (x : Mag) : NCode :=
  let r := roundMag mode neg q (f.m + 1) (1 - f.bias - (f.m : Int)) x
  if cmpDyadic r.1 r.2 f.largest.1 f.largest.2 = .gt then
    (if towardZero mode neg then plainCode (f.maxCode neg) else f.overflow sat neg)
  else plainCode (f.pack neg r.1 r.2)

/-- Conversion of a finite value to an integer style (R37). -/
def NFmt.writeInt (f : NFmt) (mode : Rnd) (neg : Bool) (q : Word) (x : Mag) : NCode :=
  let n : Int := roundAt mode neg q x 0
  let lo : Int := if f.e = 0 then -(2 ^ (f.width - 1) : Nat) else 0
  let hi : Int := if f.e = 0 then (2 ^ (f.width - 1) - 1 : Nat) else (2 ^ f.width - 1 : Nat)
  plainCode (wrapInt f.width (satInt (if neg then -n else n) lo hi))

/-- Conversion into a narrow format of the sign and exact magnitude given (`round_to(fd(n), …)`, R141). -/
def NFmt.writeMag (f : NFmt) (mode : Rnd) (wx sat neg : Bool) (q : Word) (x : Mag) : NCode :=
  match f.style with
  | .o => f.writeO mode (sat || f.satf) neg q x
  | .n => f.writeWX mode wx (sat || f.satf) neg q x
  | .int => f.writeInt mode neg q x

/-- Conversion of an infinity (R36, R37, R142). -/
def NFmt.writeInf (f : NFmt) (sat neg : Bool) : NCode :=
  match f.style with
  | .int =>
    let lo : Int := if f.e = 0 then -(2 ^ (f.width - 1) : Nat) else 0
    let hi : Int := if f.e = 0 then (2 ^ (f.width - 1) - 1 : Nat) else (2 ^ f.width - 1 : Nat)
    plainCode (wrapInt f.width (if neg then lo else hi))
  | _ => f.overflow (sat || f.satf) neg

/-- The value `x / scale` of R141: a number over a finite scale that is not zero. -/
def NFmt.writeQuot (f : NFmt) (mode : Rnd) (wx sat : Bool) (q : Word) (x scale : FV) : NCode :=
  match x, scale with
  | .nan, _ | _, .nan | _, .inf _ => f.nanCode
  | .inf s, .fin t _ _ => f.writeInf sat (s != t)
  | .fin s m e, .fin t n g => if n = 0 then f.nanCode else f.writeMag mode wx sat (s != t) q (.rat m n (e - g))

/-- Conversion of a number (R141, R142). -/
def NFmt.write (f : NFmt) (mode : Rnd) (wx sat : Bool) (q : Word) (x : FV) : NCode :=
  f.writeQuot mode wx sat q x (.fin false 1 0)

/-! ### Block scales -/

/-- The OFP8 E4M3 format. -/
def ofpE4M3 : NFmt := nfmt fdDefault

/-- The value of a scale code (R33); no scale is 1. -/
def SKind.value : SKind → Nat → FV
  | .none, _ => .fin false 1 0
  | .e8m0, c => if c % 256 = 255 then .nan else .fin false 1 ((c % 256 : Nat) - 127)
  | .e4m3, c => (ofpE4M3.read c).1

/-- A scale that `FCVT` multiplies or divides by: an E4M3 zero acts as NaN (R141). -/
def SKind.factor (k : SKind) (c : Nat) : FV :=
  let v := k.value c
  if k = .e4m3 && v.isZero then .nan else v

/-- The scale code that `CVTN` computes from a block magnitude, and whether it poisons the lane (R144). -/
def NFmt.scaleCode (f : NFmt) (m : FV) : Nat × Bool :=
  match f.skind, m with
  | .e4m3, .nan | .e4m3, .inf _ => (0x7F, true)
  | _, .nan | _, .inf _ => (0xFF, true)
  | .e4m3, .fin _ n e =>
    let s := ofpE4M3.writeMag .rne false true false 0 (.rat n f.largest.1 (e - f.largest.2))
    (if s.code = 0 then 1 else s.code, false)
  | _, .fin _ n e =>
    if n = 0 then (127, false)
    else ((satInt ((n.log2 : Int) + e - f.emax) (-127) 127 + 127).toNat, false)

end Sys2Proof
end

