-- ==== Sys2Proof/Machine/Map.lean ====
section
/-! DEFINITION. The operations on the association lists that hold registers, frames, contexts and every other
keyed table: look up, write, remove, change in place. -/

namespace Sys2Proof.Map

/-- The entry at key `k`, when there is one. -/
def find {α : Type} : Map α → Nat → Option α
  | [], _ => none
  | (j, x) :: m, k => if k = j then some x else find m k

/-- The entry at key `k`, or `dflt` where the table lists none. -/
def getD {α : Type} (m : Map α) (k : Nat) (dflt : α) : α := (m.find k).getD dflt

/-- The table with `x` at key `k`; every other key is as before. -/
def put {α : Type} : Map α → Nat → α → Map α
  | [], k, x => [(k, x)]
  | (j, y) :: m, k, x =>
    if k < j then (k, x) :: (j, y) :: m
    else if k = j then (k, x) :: m
    else (j, y) :: put m k x

/-- The table without key `k`. -/
def del {α : Type} : Map α → Nat → Map α
  | [], _ => []
  | (j, y) :: m, k => if k = j then del m k else (j, y) :: del m k

/-- `put` that keeps a table canonical against a default: writing the default removes the entry. -/
def putC {α : Type} [DecidableEq α] (dflt : α) (m : Map α) (k : Nat) (x : α) : Map α :=
  if x = dflt then m.del k else m.put k x

/-- The entry at `k` changed by `f`, starting from `dflt` where there is none. -/
def upd {α : Type} (m : Map α) (k : Nat) (dflt : α) (f : α → α) : Map α :=
  m.put k (f (m.getD k dflt))

/-- The keys, in rising order. -/
def keysOf {α : Type} (m : Map α) : List Nat := m.map Prod.fst

/-- The entries, in rising key order. -/
def valuesOf {α : Type} (m : Map α) : List α := m.map Prod.snd

/-- The lowest key from `start` on (below `start + fuel`) that the table does not list. -/
def freeKey {α : Type} (m : Map α) : Nat → Nat → Option Nat
  | 0, _ => none
  | fuel + 1, start => if (m.find start).isNone then some start else freeKey m fuel (start + 1)

end Sys2Proof.Map
end

