-- ==== Sys2Proof/Machine/State.lean ====
section
/-! DEFINITION. The machine's state as plain data: the issuing warp, the device and the contexts around it, memory,
and the turns still to come; the reasons a step can stop; the machine right after reset. Every field names the rule
that gives the state to the machine; fields marked MODEL are the model's own (DESIGN CHOICE, log entry 1). -/

namespace Sys2Proof.Machine

/-! ### A warp (R47, R48) -/

/-- The states of a translation register (R53). -/
inductive TState where
  | unbound | bound | stale
deriving DecidableEq, Repr

/-- A translation register (R53, R178): the virtual base, the physical base, the limit, the length `BIND` was given
(for the re-walk of a stale register) and the page's attributes. -/
structure TReg where
  state : TState
  vbase : Nat
  pbase : Nat
  limit : Nat
  len : Nat
  r : Bool
  w : Bool
  nol1 : Bool
  sysAtomic : Bool
deriving DecidableEq, Repr

/-- A block header read out (R91); `succ` holds the four successor entries. -/
structure Header where
  bnum : Nat
  clen : Nat
  seq : Bool
  xl : Bool
  mig : Bool
  vregs : Nat
  sregs : Nat
  bin : Nat
  gather : Nat
  inputs : Nat
  ctrofs : Nat
  fsize : Nat
  slot0 : Nat
  slotn : Nat
  succ : List Word
  reserved : Bool
deriving DecidableEq, Repr

/-- What a later access, token or queue entry waits for: an operation, wholly (`lane` 32) or in one lane (R175, R258). -/
structure Dep where
  op : Nat
  lane : Nat
deriving DecidableEq, Repr

/-- The counter an operation is counted in (R54). -/
inductive CounterClass where
  | ld | st | cp | tl
deriving DecidableEq, Repr

/-- Where a warp waits, and with what the releasing event completes the word (R54, R63, R181, R209, R215, R193, R221,
R335, R387). -/
inductive WStatus where
  | running
  | waitLimits (x : SysJ)
  | counterStall (k : CounterClass)
  | draining (word : Instr)
  | blocked (word : Instr)
  | busyPark (word : Instr)
  | seqlockPark (word : Instr)
  | matrixStall
  | ringWait
  | parked (idx : Nat)
  | retired
deriving DecidableEq, Repr

/-- The loop state of one lane of a nest (R190): iterations done and partials. -/
structure LoopLane where
  lane : Nat
  next : Nat
  parts : List Nat
  /-- Whether the lane waits at a fault it met (R190). -/
  stuck : Bool
deriving DecidableEq, Repr

/-- A warp of a context on a core. -/
structure Warp where
  /-- MODEL: whether this record holds a resident warp. -/
  live : Bool
  /-- MODEL: the name events call the warp by. -/
  uid : Nat
  ctx : Nat
  core : Nat
  seq : Bool
  part : Nat
  task : Nat
  blk : Nat
  hdr : Header
  base : Nat
  pc : Nat
  /-- The fetch block that the warp executes from: its virtual address ÷ 32, and its bytes (R72). -/
  block : Option (Nat × List Byte)
  /-- MODEL: words issued, which names one read of a register (R55). -/
  issued : Nat
  filled : Lanes
  frame : Map Nat
  tag : Map Word
  v : Map Word
  o : Map Word
  l0 : Map Word
  l1 : Map Word
  /-- MODEL: bit 0 L0 and bit 1 L1 hold a producer's result (R51). -/
  lprod : BitVec 2
  p : Map Lanes
  pz : Lanes
  s : Map Word
  sp : BitVec 4
  t : Map TReg
  ldc : Nat
  stc : Nat
  cpc : Nat
  tlc : Nat
  fmode : Word
  srseed : Word
  tilecoord : Word
  /-- MODEL: old values of registers whose in-flight operation was performed before a `WAIT` (R55); keyed by
  register × 32 + lane. -/
  inflight : Map Word
  /-- Record points executed by each lane (R285). -/
  ord : Map Nat
  /-- Frames allocated by `FALLOC` and not committed (R117). -/
  pend : List Nat
  /-- Operations outstanding at the last release fence and the last acquire fence (R175). -/
  relAfter : List Dep
  acqAfter : List Dep
  /-- `QFENCE` markers of this warp: queue mask and the entries waited for (R180). -/
  qfences : List (Nat × List Nat)
  status : WStatus
  /-- The counter that a word parked at its issue is counted in (R55). -/
  heldCount : Option CounterClass
deriving DecidableEq, Repr

/-! ### Operations in flight (R54, R259) -/

/-- Where a piece lies: a physical address, or a byte of the core memory of a context's share on a core (R252). -/
inductive Place where
  | phys (pa : Nat)
  | core (g : Nat) (byte : Nat)
deriving DecidableEq, Repr

/-- What a piece does at its coherence point. `red` is a reduction addition, float or integer, of the values of the
lanes of one address in lane order (R169, R282); `atom` an
atomic of the operation number of R170; with `whole` false each is a read and a later write, the `atomEnd`, which holds
the value until it is written (R269);
`bits` an update of masked bits (R168), performed with the lane's other piece; `mass` a saturating addition (R212); `flush` and `inval` a line of `CFLUSH.L2`
or `CINV.L2` (R176). -/
inductive Act where
  | load
  | store (data : Nat)
  | bits (data mask : Nat)
  | red (float : Bool) (vals : List Nat) (whole : Bool)
  | atom (op : Nat) (data cmp : Nat) (whole : Bool)
  | atomEnd (data : Option Nat)
  | mass (add : Nat)
  | flush
  | inval
deriving DecidableEq, Repr

/-- One aligned piece of one lane's element (R164). `byteOfs` is its place in the element; `ok` is false while the
page does not translate (R335). -/
structure Piece where
  lane : Nat
  va : Nat
  place : Place
  size : Nat
  byteOfs : Nat
  act : Act
  poisonMark : Bool
  /-- The word's pieces in this 64-byte line cover it, so one request performs them together (R165, R393). -/
  covers : Bool
  /-- Whether the core's L1 may serve it (R260, R267). -/
  l1 : Bool
  ok : Bool
  /-- The lanes it acts for; 0 for the one lane alone. -/
  lanes : Lanes := 0
deriving DecidableEq, Repr

/-- How a loaded element becomes register values (R80, R168): plain, sign-extended from the bytes given, or a narrow
code of the width and bit position given. -/
inductive LoadExt where
  | zero
  | sign (bytes : Nat)
  | code (width shift : Nat) (special : Nat)
deriving DecidableEq, Repr

/-- An operation of a warp that has issued and is not yet performed in every lane. -/
structure MemOp where
  id : Nat
  uid : Nat
  ctx : Nat
  core : Nat
  task : Nat
  cls : CounterClass
  counted : Bool
  isWrite : Bool
  isAtomic : Bool
  scratch : Bool
  pieces : List Piece
  /-- Bytes loaded so far, by lane. -/
  buf : Map Nat
  /-- Lanes whose data carried an error mark, with the address that met it (R392). -/
  marked : Map Nat
  /-- The structure that the record of this word's marks names, as its first read of one met it; 0 for none yet (R392). -/
  detected : Nat
  /-- TILECOORD at the word (R249). -/
  tile : Word
  dreg : Nat
  nreg : Nat
  ext : Map LoadExt
  /-- The physical address of the sequence descriptor a context-page word acts under (R209), 0 for none. -/
  seqAt : Nat
  /-- The fault 0x14 that follows the word once its parked pairs are written (R173): lanes, NEEDED, CAPACITY. -/
  ovf : Option (Lanes × Word × Word)
  rls : Bool
  after : List Dep
  word : Instr
  pc : Nat
  /-- The park entry of a word that met a translation fault after its issue (R335, R342, R346). -/
  parked : Option Nat := none
deriving DecidableEq, Repr

/-- A loop nest that has issued (R186-R190). -/
structure LoopOp where
  id : Nat
  uid : Nat
  ctx : Nat
  core : Nat
  task : Nat
  reduce : Option Nat
  ext : List Nat
  strides : List (List Int)
  bases : List Nat
  control : Word
  filled : Lanes
  lanes : List LoopLane
  fmode : Word
  srseed : Word
  after : List Dep
  leave : Nat
  parked : Option Nat
  written : Bool
  /-- Lanes whose source elements carried an error mark, with their addresses (R392). -/
  marked : Map Nat
  /-- As in `MemOp`. -/
  detected : Nat
  tile : Word
  pc : Nat
deriving DecidableEq, Repr

/-! ### A context's share of a core (R315, R326) -/

/-- The states of a frame (R227); released frames keep their space while a warp holds a lane on them (R112). -/
inductive FState where
  | pending | live | released
deriving DecidableEq, Repr

/-- A ready-instance descriptor (R232). -/
structure Desc where
  tag : Word
  blk : Nat
  ofs : Nat
  last : Bool
deriving DecidableEq, Repr

/-- A frame and its hidden header (R227, R233, R272, R280). `mix` and `ctl` name the counters whose current instance
met a tag mix or a CONTROL arrival; `waiting` the tokens of a pending frame, with their circuits (R117). -/
structure Frame where
  state : FState
  task : Nat
  size : Nat
  park : Option Desc
  mix : List Nat
  ctl : List Nat
  jlow : Nat
  jpay : Word
  jpz : Bool
  fidHi : Word
  fidLo : Word
  ord : Nat
  waiting : List (Nat × Token)
deriving DecidableEq, Repr

/-- A ready instance in a bin (R236): `since` is the core's clock at its entry, `seqno` its place in entry order. -/
structure Ready where
  desc : Desc
  task : Nat
  since : Nat
  seqno : Nat
deriving DecidableEq, Repr

/-- A queue entry of 128 bytes (R62). `lanes` is the mask a select entry carries, or the lanes that gave the words (R155); `sel` its request: kind 0
configure, 1 push, 2 push with index, 3 pop value, 4 pop index. `task` is the pusher's (R343). `after` are the writes its release covers (R179),
`qafter` the entries a `QFENCE` makes it wait for (R180). -/
structure QEntry where
  id : Nat
  data : List Word
  poison : Bool
  lanes : Lanes
  sel : Nat
  selA : Word
  selB : Word
  uid : Nat
  task : Nat
  counted : Bool
  after : List Dep
  qafter : List Nat
  /-- The task of the frame that a command's completion token names, from the command's acceptance on; 256 for none
  (R322). -/
  names : Nat := 256
  /-- The structure that the record of whoever takes the entry names where an error set its mark: 0x0B, or 0x0D for a row of a
  selection that an error marked; 0 where none did (R392). -/
  err : Nat := 0
deriving DecidableEq, Repr

/-- A candidate of a selection (R153). -/
structure Cand where
  val : Word
  idx : Word
deriving DecidableEq, Repr

/-- The selection of a context on a core (R153). -/
structure Select where
  k : Nat
  c : Nat
  ty : Ty
  largest : Bool
  poison : Bool
  row : Word
  cols : Map (List Cand)
  /-- Whether an error set the mark (R392). -/
  err : Bool := false
deriving DecidableEq, Repr

/-- A RANGE in hand at the range generator (R111): the next index and the count. -/
structure RangeJob where
  task : Nat
  blk : Nat
  slot : Nat
  cclass : Nat
  first : Word
  tag : Word
  next : Nat
  count : Nat
  poison : Bool
  /-- The identifier of the frame that spawns, and its ordinal at the first index (R280). -/
  fidHi : Word
  fidLo : Word
  ord : Nat
deriving DecidableEq, Repr

/-- A park table entry (R336), keyed by kind class × 512 + index: the kind, the generation, the warp, or 0 for a queue
or the engine, and the S register an `ECALL` writes; `held` is a resume that waits for a restore (R337). -/
structure Park where
  kind : Nat
  gen : Nat
  uid : Nat
  sd : Nat
  used : Bool
  held : Option (BitVec 64)
deriving DecidableEq, Repr

/-- A matrix operand format installed by `MFMT` (R199): a descriptor with the number of the FD it was read from, BF16 or
FP16. -/
inductive MFormat where
  | fd (w : Word) (n : Nat)
  | bf16
  | f16
deriving DecidableEq, Repr

/-- A weight plane (R192): 256 data entries of 128 bytes, and the scale word of each block. -/
structure Plane where
  loaded : Bool
  fmt : MFormat
  data : Map (List Byte)
  scale : Map (List Byte)
  poison : Bool
  /-- Whether an error set the mark (R392). -/
  err : Bool := false
deriving DecidableEq, Repr

/-- An accumulator (R192): rows of 128 binary32 elements, +0 where not listed, marked rows, and those of them that an error
marked (R392). -/
structure Accum where
  rows : Map (List Word)
  mark : List Nat
  err : List Nat := []
deriving DecidableEq, Repr

/-- The matrix instructions (R193): what an issued one still does. -/
inductive MKind where
  | mldw (scratch : Bool) (sofs : Nat)
  | mswap
  | mstream (acc : Bool) (scratch : Bool) (z : Bool) (n first sofs : Nat)
  | mdrain (acc : Bool) (dest : Nat) (n first : Nat) (addr : Nat) (rnd : Rnd) (ot : Nat) (fd : Word) (zr : Bool)
  | mzero (acc : Bool) (n first : Nat)
deriving DecidableEq, Repr

/-- An issued matrix instruction with its progress (R192, R208). `done` counts rows or entries; `leave` is 0 not
asked, 1 waiting, 2 granted, 3 to be asked for again after a restore (R405). -/
structure MInstr where
  id : Nat
  uid : Nat
  task : Nat
  kind : MKind
  ev : Bool
  evid : Nat
  act : MFormat
  wgt : MFormat
  fmode : Word
  srseed : Word
  tag : Word
  begun : Bool
  leave : Nat
  done : Nat
  finished : Bool
  poison : Bool
  suppressed : List Nat
  parked : Option Nat
  after : List Dep
  /-- Whether its record of code 0x30 has been written (R392). -/
  noted : Bool := false
deriving DecidableEq, Repr

/-- The matrix state of a context on a core (R192). `staging` is SHADOW under load. -/
structure Matrix where
  active : Plane
  shadow : Plane
  ac0 : Accum
  ac1 : Accum
  act : MFormat
  wgt : MFormat
  issued : List MInstr
  owned : Bool
  /-- Ownership lost at a cut and to be retaken after the restore (R326). -/
  due : Bool
deriving DecidableEq, Repr

/-- The copy command in hand of a queue (R184): bytes of each row already written, and how it ended. -/
structure CopyCmd where
  entry : QEntry
  row : Nat
  col : Nat
  bytes : Nat
  status : Nat
  leave : Nat
  finished : Bool
  marked : Bool
  parked : Option Nat
  /-- Whether its context ended, from IDLE, while the engine had it: it completes without the context (R312). -/
  orphan : Bool := false
deriving DecidableEq, Repr

/-- A gang window (R276): the retire join's frame, the member's number and the member cores. -/
structure Window where
  /-- Byte offset of the window in the share's scratch. -/
  base : Nat
  gen : Nat
  member : Nat
  cores : List Nat
  retire : Nat
  retireCore : Nat
  /-- The retire join's block (R277). -/
  retireBlk : Nat
  size : Nat
  frames : List (Nat × Nat)
  task : Nat
deriving DecidableEq, Repr

/-- A context's share of one core. Core memory is held by word, the frame area first and scratch behind it; `pres` are
the presence bits (R228) and `marks` the poison marks of words, true where an error set the mark (R43, R392). -/
structure Share where
  slot : Option Nat
  saved : Bool
  /-- The cells and error marks of the share's part of the save area as the cut left them, which its digest covers
  (R314). -/
  image : List Host.Cell
  imageMarks : Map Bool
  request : Bool
  halted : Bool
  slotSince : Nat
  waitSince : Nat
  waitQuanta : Nat
  heldQuantum : Bool
  watch : Nat
  frames : Map Frame
  words : Map Word
  pres : Map Bool
  marks : Map Bool
  vbins : Map (List Ready)
  sbins : Map (List Ready)
  queues : Map (List QEntry)
  sel : Select
  ranges : List RangeJob
  park : Map Park
  mx : Matrix
  copyA : Option CopyCmd
  copyB : Option CopyCmd
  windows : List Window
  /-- Groups whose gather timer has run out (R238). -/
  timed : List GroupKey
deriving DecidableEq, Repr

/-! ### Contexts and tasks (R311-R322) -/

/-- The states of a context (R312). -/
inductive CState where
  | free | idle | active | swapped | suspended | ending
deriving DecidableEq, Repr

/-- How a FORK made a task (R347): its parent, its ordinal and where its join token goes. -/
structure Child where
  parent : Nat
  ordinal : Nat
  fr : Word
  tg : Word
  blk : Nat
  cclass : Nat
deriving DecidableEq, Repr

/-- A task (R316, R319). `done` is set when it has
completed and, for a child, waits for its merge (R348). -/
structure Task where
  code : Nat
  codeLen : Nat
  btab : Nat
  nblk : Nat
  succx : Nat
  nsuccx : Nat
  const : Nat
  constLen : Nat
  crec : Nat
  cblk : Nat
  fr : Word
  frTag : Word
  child : Option Child
  depth : Nat
  /-- The next fork ordinal (R218). -/
  forks : Nat
  debug : Bool
  done : Bool
  /-- MODEL: the place of its completion in order (R17). -/
  doneSeq : Nat
deriving DecidableEq, Repr

/-- A region table entry (R216, R340). -/
structure Region where
  base : Nat
  len : Nat
  ty : Nat
  merge : Nat
  nlog : Nat
  nlogn : Nat
deriving DecidableEq, Repr

/-- The revision a child holds (R343, R344): the regions in force at its fork; by granule number (virtual address ÷
4096) the pool page of its own copy, the sectors it has written, and the pool page its retained ancestor shares (1: the
ancestor of its parent); the counts of joins merged into it, by region (R352); its record's page (R347); the conflicts of its own join so far,
the address at which that join is parked, and the generation of its resume identifier (R351, R354). -/
structure Revision where
  regions : Map Region
  own : Map Nat
  dirty : Map (BitVec 128)
  anc : Map Nat
  conflicts : Map Nat
  granules : Map Nat
  record : Nat
  count : Nat
  stuck : Option Nat
  gen : Nat
deriving DecidableEq, Repr

/-- A circuit message kept while it waits: a token, an `ARM` or an `FFREE` (R262, R329): kind 0, 1 or 2. -/
structure Item where
  kind : Nat
  tok : Token
  ctr : Nat
  /-- The task of the frame a token goes to, as it leaves; 256 for none (R322). -/
  task : Nat := 256
deriving DecidableEq, Repr

/-- A spill ring entry (R329): its sequence number, the circuit it came on and the item. -/
structure Spilled where
  seqno : Nat
  circuit : Nat
  item : Item
deriving DecidableEq, Repr

/-- A collision ring entry (R234, R235): the waiting token, the core it waits on, its sequence number, the frame it
was held for, whether it waits for a parked instance, and the circuit it came on. -/
structure Collided where
  seqno : Nat
  core : Nat
  tok : Token
  parked : Bool
  /-- Whether it has collided, not only been held behind a parked instance (R234). -/
  hit : Bool
  circuit : Nat
  ready : Bool
deriving DecidableEq, Repr

/-- A fault record (R249) before it stands in the ring. -/
structure FaultRec where
  code : Nat
  cls : Nat
  parked : Bool
  fatal : Bool
  multitag : Bool
  ctx : Nat
  core : Nat
  blk : Nat
  codeofs : Nat
  lanes : Lanes
  tag : Word
  frame : Word
  tilecoord : Word
  address : Nat
  d0 : Word
  d1 : Word
  d2 : Word
  resid : Word
deriving DecidableEq, Repr

/-- A record that waits: for room, for a ring that translates (R387), or for the operations `after` of the same warp,
whose own records come before it (R251). `uid` is the warp that wrote it, `holds` whether it stops that warp, and `unit`
whether a unit of the core's share wrote it (R399); `seq` is the place of its word among the warp's. -/
structure WaitRec where
  body : FaultRec
  uid : Option Nat
  seq : Nat
  holds : Bool
  unit : Bool
  after : List Nat
deriving DecidableEq, Repr

/-- A context (R311-R317, R345, R352). -/
structure Ctx where
  state : CState
  cfgstat : Nat
  lstat : Nat
  lidx : Nat
  lcount : Nat
  donecnt : Nat
  dropcnt : Nat
  igncnt : Nat
  launches : List Nat
  troot : Nat
  save : Nat
  cring : Nat
  sring : Nat
  fring : Nat
  clog : Nat
  slog : Nat
  flog : Nat
  heatbuf : Nat
  heatn : Nat
  heatwin : Nat
  heatpos : Nat
  quant : Nat
  supv : Bool
  /-- A SWAPOUT is in progress (R326). -/
  swapout : Bool
  det : Bool
  mode : Nat
  recptr : Nat
  reclim : Nat
  recbuf : Nat
  prio : Nat
  frameg : Nat
  scrg : Nat
  grouptab : Nat
  fmode : Word
  srseed : Word
  fd : Map Word
  hostLaunches : Nat
  tasks : Map Task
  regions : Map Region
  revs : Map Revision
  rootConf : Map Nat
  rootGran : Map Nat
  /-- Chunks of the revision pool: physical address and 4 KiB pages (R345). -/
  pool : List (Nat × Nat)
  rpaddst : Nat
  rprefused : Nat
  rpparked : Nat
  ganggen : Nat
  collided : List Collided
  collSeq : Nat
  spill : List Spilled
  spillSeq : Nat
  heldSpill : List Spilled
  heldColl : List Collided
  waiting : List WaitRec
  /-- Whether a record found the fault ring untranslated, which suspended the context: none is written before a CONTINUE
  (R387). -/
  ringDown : Bool
  paths : Map Nat
deriving DecidableEq, Repr

/-! ### The device -/

/-- What has happened on a core in its present clock, where R239 and R248 say what comes first or at most once: a token
for a slot of a frame, 256 for a CONTROL token; a formation; descriptors freed; an instance parked for want of a descriptor;
the cut of a context. -/
inductive Happening where
  | token (ctx ofs slot : Nat)
  | formed (seq : Bool)
  | freed
  | parked
  | cut (ctx : Nat)
deriving DecidableEq, Repr

/-- The greedy run of a partition or of the sequencer (R242, R243): the warp that issued last, 0 for none, and those that have
stalled at a word, or yielded, since another one issued. -/
structure IssueRun where
  last : Nat
  stalled : List Nat
deriving DecidableEq, Repr

/-- A core (R13, R57, R324, R391, R415). -/
structure Core where
  clk : Nat
  /-- The context for which a pre-empted slot is kept (R323). -/
  grant : Option Nat
  counters : Map Nat
  selections : Map Nat
  offline : Bool
  l1 : Map (List Byte)
  /-- What has happened in this clock (R248). -/
  now : List Happening
  /-- Where the scanner goes on: offset × 64 + context of the last frame it served, plus one (R237). -/
  scan : Nat
  /-- The instruction cache: fetch blocks of 32 bytes, keyed by context × 2^52 + virtual address ÷ 32 (R72). -/
  icache : Map (List Byte)
  /-- Greedy runs, by partition; the sequencer's is 32 (R242, R243). -/
  runs : Map IssueRun
deriving DecidableEq, Repr

/-- A cached translation (R333), keyed by virtual address ÷ 2^16; `shift` is the page's size as a power of two, `since` the
core's clock at the last heat record of its page, or at its entry (R338). -/
structure TlbEnt where
  pa : Nat
  shift : Nat
  attrs : Nat
  since : Nat := 0
deriving DecidableEq, Repr

/-- A request for power leave (R405): who asks (kind 0 matrix instruction, 1 loop nest, 2 copy queue), its weight and
its core's clock at its arrival. -/
structure LeaveReq where
  kind : Nat
  ctx : Nat
  core : Nat
  id : Nat
  weight : Nat
  since : Nat
deriving DecidableEq, Repr

/-- A write that a served eviction still has to make: the address, the bytes, and the mark a moved line carries (R363,
R365). -/
structure EnckeWr where
  va : Nat
  bytes : List Byte
  bad : Bool
deriving DecidableEq, Repr

/-- A command at Encke (R366): its words, its context and core, and its progress (R363): stage 0 waits for BUSY, 1 has
set it, 2 reads counters and positions, 3 moves rows and writes, 4 has counted the eviction. `desc` is the descriptor as
read in step 1, at the physical address `pa`; `pages` and `xlat` are the pages and the translations of step 2; `left`
are the reads that the stage has still to do, `writes` the writes, and `noted` the marked lines already recorded. `waited` is
set once BUSY has kept it waiting, and `orphan` once its context has ended from IDLE (R312). -/
structure EnckeCmd where
  ctx : Nat
  core : Nat
  entry : QEntry
  stage : Nat
  pa : Nat
  desc : Nat
  pages : List (Nat × Nat)
  xlat : Map Nat
  left : List (Nat × Nat)
  mass : Map Nat
  pos : Map Nat
  noted : List Nat
  badPos : List Nat
  writes : List EnckeWr
  waited : Bool := false
  orphan : Bool := false
deriving DecidableEq, Repr

/-- A frame waiting in a spawn queue (R245): the cores it may go to, its task, its block, its words, its identifier and
the tokens that go with it. -/
structure SpawnEnt where
  ctx : Nat
  task : Nat
  blk : Nat
  granules : Nat
  cores : List Nat
  fidHi : Word
  fidLo : Word
  toks : List Token
  seqno : Nat
  /-- The unit the tokens leave from. -/
  sender : Nat
  /-- Where the entry stands: 0 in the die's queue, 1 in the context's collision ring, 2 held for want of room there, 3 to be
  entered again at a CONTINUE. -/
  ring : Nat
  /-- Its sequence number in that ring (R235). -/
  ringSeq : Nat := 0
  /-- Whether it is the entry frame of its task, which goes with it where its header cannot be read (R420). -/
  first : Bool := false
deriving DecidableEq, Repr

/-- A gang waiting for its cores (R276). -/
structure GangEnt where
  ctx : Nat
  task : Nat
  gsize : Nat
  gcores : Nat
  gwin : Nat
  entry : Nat
  retire : Nat
  ggrp : Nat
  glist : Nat
  tbase : Word
  mig : Bool
  granules : Nat
  fidHi : Word
  fidLo : Word
  /-- The ordinal of the retire join; the threads follow it (R280). -/
  ord : Nat
  /-- Whether a host launched it: identifiers are then those of root frames. -/
  host : Bool
  seqno : Nat
  ring : Nat
  ringSeq : Nat := 0
  /-- The code of the fault that a write of its placement met last, 0 for none (R346). -/
  held : Nat := 0
deriving DecidableEq, Repr

/-- A die (R17, R245, R405, R415). -/
structure Die where
  budget : Nat
  ramp : Nat
  use : Nat
  grants : Nat
  stall : Nat
  window : Nat
  winClk : Nat
  reqs : List LeaveReq
  counters : Map Nat
  selections : Map Nat
  spawn : List SpawnEnt
  gangs : List GangEnt
  encke : List EnckeCmd
deriving DecidableEq, Repr

/-- A message on a circuit (R262): sender, receiver core, class, the context it belongs to, and the operations it is
held for (R116). -/
structure Msg where
  id : Nat
  item : Item
  sender : Nat
  dest : Nat
  cclass : Nat
  after : List Dep
deriving DecidableEq, Repr

/-- An invalidation request (R334). -/
structure Inv where
  ctx : Nat
  va : Nat
  len : Nat
  number : Nat
  busy : Bool
  done : Bool
  /-- What decides which cores drop their translations only as the request ends (DESIGN CHOICE, log entry 18). -/
  late : Nat
  waitOps : List Nat
  /-- The commands of Encke that go on with translations from before (R368). -/
  waitCmds : List Nat := []
deriving DecidableEq, Repr

/-- The mailbox (R410). -/
structure Mailbox where
  cmd : Nat
  busy : Bool
  pending : Bool
  /-- The status of the command Deimos has performed, until it is written. -/
  result : Nat
  arg0 : Nat
  arg1 : Nat
  status : Nat
  vec : Nat
deriving DecidableEq, Repr

/-- Deimos (R407-R414): its samples, log, histograms, repair lists, routes and firmware. -/
structure Deimos where
  samples : List Nat
  powers : List Nat
  ceiling : Nat
  thermal : Map Bool
  log : List Nat
  histo : Map Nat
  flash : Map Nat
  /-- Failing rows (R395), and the corrected reads of each row in the scrub interval: 64 KiB frame × 16 + stack. -/
  failRows : List Nat
  corrected : Map Nat
  retired : List Nat
  /-- The spare core that serves each logical core that failed its test (R396, R407). -/
  spares : List (Nat × Nat)
  /-- The cores, by physical number, that failed a boot's test or in service (R396, R397). -/
  failed : List Nat
  routes : List (Nat × Nat)
  slots : List (List Byte)
  nextSlot : Nat
  bootSlot : Nat
  fuse : Nat
  scrubHours : Nat
  measures : List (List Byte)
  lowSince : Nat
  /-- Samples taken since the last counted second (R409). -/
  ticks : Nat
deriving DecidableEq, Repr

/-- A device link (R401, R404). -/
structure Link where
  up : Bool
  trained : Bool
  degraded : Bool
  peer : Nat
deriving DecidableEq, Repr

/-- A host write held for a page of the revision pool of a context (R346). -/
structure HeldWrite where
  ctx : Nat
  acc : HostAcc
deriving DecidableEq, Repr

/-- Everything of the device outside the issuing warp and memory. -/
structure Dev where
  ctxs : Map Ctx
  shares : Map Share
  cores : Map Core
  dies : Map Die
  warps : List Warp
  ops : List MemOp
  loops : List LoopOp
  net : List Msg
  tlb : Map (Map TlbEnt)
  inv : Inv
  invCtx : Nat
  invVa : Nat
  invLen : Nat
  mbox : Mailbox
  deimos : Deimos
  links : Map Link
  hlstat : Nat
  hostDown : Bool
  devnum : Nat
  iw : Nat
  wdoglim : Nat
  bootState : Nat
  bootStat : Nat
  /-- A failure or recovery that only a reset of the device ends (R398, R413). -/
  needsReset : Bool
  held : List HeldWrite
  /-- MODEL: what the latest host read of device memory, or the latest host atomic, returned (R266, R413). -/
  hostRead : Nat
  /-- MODEL: MSI-X vectors sent, newest first (R388). -/
  msix : List Nat
  /-- MODEL: items handed to device links, newest first (R403). -/
  linkOut : List (Nat × Item)
  /-- MODEL: copy chunks handed to device links: device, context, address, bytes (R403). -/
  linkCopy : List (Nat × Nat × Nat × List Byte)
  /-- MODEL: names for warps, operations, messages and queue entries. -/
  nextId : Nat
  /-- MODEL: the counter a free value is taken at. -/
  free : Nat
deriving DecidableEq, Repr

/-! ### Memory -/

/-- An exact accumulator of DET = 1 (R282): the element's address and size, and the exact sum as a dyadic. -/
structure ExactAcc where
  pa : Nat
  size : Nat
  special : Nat
  neg : Bool
  m : Nat
  e : Int
  age : Nat
deriving DecidableEq, Repr

/-- The HBM copy of a sector that the home L2 holds with other bytes (R268): `dirty` when the L2's bytes are newer. -/
structure HbmSector where
  dirty : Bool
  bytes : List Byte
deriving DecidableEq, Repr

/-- Physical memory (R253): the bytes at the coherence points, in canonical form; the sectors whose HBM copy is older
than the home L2's, keyed by address ÷ 32, with that copy (R268); the lines with an error mark, keyed by address ÷ 64,
false for an error of HBM that no reader has met (R392, R393); the granules of 4 KiB of failing rows that found no spare, whose lines read with error marks (R395); the open
exact accumulators. -/
structure PMem where
  cells : List Host.Cell
  hbm : Map HbmSector
  marks : Map Bool
  dead : List Nat
  accs : List ExactAcc
deriving DecidableEq, Repr

/-! ### The machine -/

/-- A soft error at a place of the machine, met by whatever reads there next (R392); `corrected` is one that the
protection corrects, `correctedRead` one of HBM that a read met (R395), and `icache` also a block that leaves an instruction
cache. -/
inductive SoftError where
  | reg (uid r lane : Nat) (isO : Bool)
  | sreg (uid r : Nat)
  | control (ctx core structure_ : Nat)
  | coreWord (ctx core word : Nat)
  | l1 (core line : Nat)
  | icache (core key : Nat)
  | line (pa : Nat) (hbm : Bool)
  | tags (ctx core pa : Nat) (mayBeDirty : Bool)
  | queue (ctx core q idx : Nat)
  | accRow (ctx core : Nat) (ac1 : Bool) (row : Nat)
  | plane (ctx core : Nat) (shadow : Bool)
  | select (ctx core : Nat)
  | corrected (structure_ : Nat)
  | correctedRead (pa : Nat)
deriving DecidableEq, Repr

/-- Who moves in a turn: a warp issues its next word, an event happens, or a soft error strikes. -/
inductive TurnAct where
  | issue (uid : Nat)
  | event (e : Instr)
  | upset (u : SoftError)
deriving DecidableEq, Repr

/-- A turn: the clocks that pass on every core before it, those that pass on some cores besides, since no core's count
is related to another's (R12, R57), and the move (MODEL, DESIGN CHOICE, log entry 1). -/
structure Turn where
  dt : Nat
  extra : List (Nat × Nat)
  act : TurnAct
deriving DecidableEq, Repr

/-- The machine: the warp that issues, the device, memory, and the turns to come (DESIGN CHOICE, log entry 1). -/
structure State where
  w : Warp
  d : Dev
  mem : PMem
  turns : List Turn
deriving DecidableEq, Repr

/-- Why the machine stops with a fault. The device's own fault codes are no stop: they end or park a warp, or end a
context, which is a next state. -/
inductive Fault where
  /-- No meaning raises it: the manual gives every operation of the table an effect. Safe. -/
  | unused
deriving DecidableEq, Repr

/-- Why the machine refuses a move. -/
inductive Refusal where
  /-- The arm of this instruction has no meaning yet (raised in Dispatch only). Safe. -/
  | notModelled (mnemonic : String)
deriving DecidableEq, Repr

/-- A header with nothing in it. -/
def Header.zero : Header :=
  { bnum := 0, clen := 0, seq := false, xl := false, mig := false, vregs := 0, sregs := 0, bin := 0, gather := 0,
    inputs := 0, ctrofs := 0, fsize := 0, slot0 := 0, slotn := 0, succ := [], reserved := false }

/-- No warp: every register zero (DESIGN CHOICE, log entry 3). -/
def Warp.absent : Warp :=
  { live := false, uid := 0, ctx := 0, core := 0, seq := false, part := 0, task := 0, blk := 0, hdr := Header.zero,
    base := 0, pc := 0, block := none, issued := 0, filled := 0, frame := [], tag := [], v := [], o := [], l0 := [], l1 := [],
    lprod := 0, p := [], pz := 0, s := [], sp := 0, t := [], ldc := 0, stc := 0, cpc := 0, tlc := 0, fmode := 0,
    srseed := 0, tilecoord := 0, inflight := [], ord := [], pend := [], relAfter := [], acqAfter := [], qfences := [],
    status := .running, heldCount := none }

/-- The format every matrix engine installs at launch (R192). -/
def MFormat.initial : MFormat := .fd 0x00000070#32 0

/-- An unloaded plane (R192). -/
def Plane.initial : Plane := { loaded := false, fmt := MFormat.initial, data := [], scale := [], poison := false }

/-- The matrix state at context launch (R192). -/
def Matrix.initial : Matrix :=
  { active := Plane.initial, shadow := Plane.initial, ac0 := { rows := [], mark := [] }, ac1 := { rows := [], mark := [] },
    act := MFormat.initial, wgt := MFormat.initial, issued := [], owned := false, due := false }

/-- The selection when a context first takes a slot (R153). -/
def Select.initial : Select :=
  { k := 1, c := 1, ty := .u32, largest := true, poison := false, row := 0, cols := [] }

/-- A share with nothing in it. -/
def Share.empty : Share :=
  { slot := none, saved := false, image := [], imageMarks := [], request := false, halted := false, slotSince := 0, waitSince := 0,
    waitQuanta := 0, heldQuantum := false, watch := 0, frames := [], words := [], pres := [], marks := [], vbins := [], sbins := [],
    queues := [], sel := Select.initial, ranges := [], park := [], mx := Matrix.initial, copyA := none, copyB := none,
    windows := [], timed := [] }

/-- A FREE context (R312; DESIGN CHOICE, log entry 6). -/
def Ctx.free : Ctx :=
  { state := .free, cfgstat := 0, lstat := 0, lidx := 0, lcount := 0, donecnt := 0, dropcnt := 0, igncnt := 0,
    launches := [], troot := 0, save := 0, cring := 0, sring := 0, fring := 0, clog := 10, slog := 10, flog := 6,
    heatbuf := 0, heatn := 0, heatwin := 0, heatpos := 0, quant := 0, supv := false, swapout := false,
    det := false, mode := 0, recptr := 0, reclim := 0, recbuf := 0, prio := 0, frameg := 0, scrg := 0, grouptab := 0,
    fmode := 0, srseed := 0, fd := [], hostLaunches := 0, tasks := [], regions := [], revs := [],
    rootConf := [], rootGran := [], pool := [], rpaddst := 0, rprefused := 0, rpparked := 0,
    ganggen := 0, collided := [], collSeq := 0, spill := [], spillSeq := 0, heldSpill := [], heldColl := [],
    waiting := [], ringDown := false, paths := [] }

/-- A core at reset (R57, R391). -/
def Core.reset : Core :=
  { clk := 0, grant := none, counters := [], selections := [], offline := false, l1 := [], now := [], scan := 0, icache := [], runs := [] }

/-- A die at reset (R406). -/
def Die.reset : Die :=
  { budget := 160, ramp := 8, use := 0, grants := 0, stall := 0, window := 0, winClk := 0, reqs := [], counters := [],
    selections := [], spawn := [], gangs := [], encke := [] }

/-- Deimos at reset (R394, R406, R408). -/
def Deimos.reset : Deimos :=
  { samples := [], powers := [], ceiling := 160, thermal := [], log := [], histo := [], flash := [], failRows := [], corrected := [],
    retired := [], spares := [], failed := [], routes := [], slots := [[], []], nextSlot := 0, bootSlot := 0, fuse := 0, scrubHours := 24,
    measures := [], lowSince := 0, ticks := 0 }

/-- The device at reset (R57, R312, R391, R396, R401, R406, R410; DESIGN CHOICE, log entry 6). -/
def Dev.reset : Dev :=
  { ctxs := [], shares := [], cores := [], dies := [], warps := [], ops := [], loops := [], net := [], tlb := [],
    inv := { ctx := 0, va := 0, len := 0, number := 0, busy := false, done := false, late := 0, waitOps := [] }, invCtx := 0,
    invVa := 0, invLen := 0,
    mbox := { cmd := 0, busy := false, pending := false, result := 0, arg0 := 0, arg1 := 0, status := 0, vec := 0 },
    deimos := Deimos.reset, links := [], hlstat := 0, hostDown := false, devnum := 0, iw := 16, wdoglim := 0,
    bootState := 0, bootStat := 0, needsReset := false, held := [], hostRead := 0, msix := [], linkOut := [], linkCopy := [], nextId := 1, free := 0 }

/-- Memory at reset: nothing listed (DESIGN CHOICE, log entry 2). -/
def PMem.reset : PMem := { cells := [], hbm := [], marks := [], dead := [], accs := [] }

/-- The machine right after reset: no boot has run, every context is FREE, no warp is resident (DESIGN CHOICE, log entry 3). -/
def State.reset : State := { w := Warp.absent, d := Dev.reset, mem := PMem.reset, turns := [] }

end Sys2Proof.Machine
end

