-- ==== Sys2Proof/Machine/Mem.lean ====
section
/-! DEFINITION. Physical memory: bytes in canonical form, sectors, error marks (R164, R253, R259, R268, R393). -/

namespace Sys2Proof.Machine

/-- What a byte that nothing has written reads as (DESIGN CHOICE, log entry 2). -/
def unlistedByte : Byte := 0#8

/-- The byte at a physical address, at its coherence point (R252; DESIGN CHOICE, log entry 2). -/
def PMem.byte (m : PMem) (a : Nat) : Byte := Map.getD m.cells a unlistedByte

/-- A cell list with one byte written, in canonical form. -/
def putCell (cells : List Host.Cell) (a : Nat) (b : Byte) : List Host.Cell := Map.putC unlistedByte cells a b

/-- A cell list with bytes written from `a` on. -/
def putCells : List Host.Cell → Nat → List Byte → List Host.Cell
  | cells, _, [] => cells
  | cells, a, b :: bs => putCells (putCell cells a b) (a + 1) bs

/-- Cells in canonical form: addresses strictly rising, none equal to what an unlisted address reads as. -/
def cellsWf : List Host.Cell → Bool
  | [] => true
  | [(_, b)] => b != unlistedByte
  | (a, b) :: (c, x) :: m => b != unlistedByte && a < c && cellsWf ((c, x) :: m)

/-- Memory's canonical form. -/
def PMem.wf (m : PMem) : Bool := cellsWf m.cells

/-- `n` bytes from `a`. -/
def PMem.bytes (m : PMem) (a : Nat) : Nat → List Byte
  | 0 => []
  | n + 1 => m.byte a :: m.bytes (a + 1) n

/-- The little-endian number of `n` bytes at `a` (R3). -/
def PMem.nat (m : PMem) (a n : Nat) : Nat := ofBytesLE (m.bytes a n)

/-- The 32-bit word at `a`. -/
def PMem.word (m : PMem) (a : Nat) : Word := BitVec.ofNat 32 (m.nat a 4)

/-- Whether an address is of device memory (R253). -/
def isDevice (pa : Nat) : Bool := pa < 0x10000000000

/-- Whether an address is of host memory (R253). -/
def isHost (pa : Nat) : Bool := 0x8000000000000 ≤ pa && pa < 0x10000000000000

/-- The sectors a write of `n` bytes at `a` touches. -/
def sectorsOf (a n : Nat) : List Nat := (List.range ((a + n + 31) / 32 - a / 32)).map fun k => a / 32 + k

/-- The lines a write of `n` bytes at `a` touches. -/
def linesOf (a n : Nat) : List Nat := (List.range ((a + n + 63) / 64 - a / 64)).map fun k => a / 64 + k

/-- A sector of device memory made dirty: HBM keeps its bytes (R268). -/
def PMem.dirty (m : PMem) (sec : Nat) : PMem :=
  let old : List Byte := match m.hbm.find sec with
    | some h => h.bytes
    | none => m.bytes (sec * 32) 32
  if isDevice (sec * 32) then { m with hbm := m.hbm.put sec (HbmSector.mk true old) } else m

/-- Whether an exact accumulator's element meets a range. -/
def ExactAcc.meets (x : ExactAcc) (a n : Nat) : Bool := x.pa < a + n && a < x.pa + x.size

/-- The bytes written, and nothing else of memory. -/
def PMem.raw (m : PMem) (a : Nat) (bs : List Byte) : PMem := { m with cells := putCells m.cells a bs }

/-- A write request at the coherence point (R259): the bytes, the dirty sectors, the marks of lines it covers wholly
(R393), and the end of the exact accumulators it meets (R282). -/
def PMem.write (m : PMem) (a : Nat) (bs : List Byte) : PMem :=
  let m1 := (sectorsOf a bs.length).foldl PMem.dirty m
  { m1 with
    cells := putCells m1.cells a bs
    marks := (linesOf a bs.length).foldl (fun k l => if a ≤ l * 64 && l * 64 + 64 ≤ a + bs.length then Map.del k l else k) m1.marks
    accs := m1.accs.filter fun x => !x.meets a bs.length }

/-- A write of the low `n` bytes of `x`. -/
def PMem.writeNat (m : PMem) (a n x : Nat) : PMem := m.write a (bytesLE n x)

/-- A write of words. -/
def PMem.writeWords (m : PMem) (a : Nat) (ws : List Word) : PMem :=
  m.write a (ws.flatMap fun w => bytesLE 4 w.toNat)

/-- Whether a read of `n` bytes at `a` meets an error mark (R393), or a failing row that no spare replaces (R395). -/
def PMem.marked (m : PMem) (a n : Nat) : Bool := (linesOf a n).any fun l => (m.marks.find l).isSome || m.dead.contains (l / 64)

/-- Whether a read of `n` bytes at `a` would be the first to meet an error of HBM (R392). -/
def PMem.unmet (m : PMem) (a n : Nat) : Bool := (linesOf a n).any fun l => m.marks.getD l true == false

/-- The structure that a reader of `n` bytes at `a` names in its record: HBM, whose protection detects an error at its first
read, or the line that already carries a mark; 0 for none (R392). -/
def PMem.errCode (m : PMem) (a n : Nat) : Nat := if m.unmet a n then 0x0A else if m.marked a n then 0x08 else 0

/-- The errors of HBM in `n` bytes at `a` as marks that a reader has met. -/
def PMem.met (m : PMem) (a n : Nat) : PMem :=
  { m with marks := m.marks.map fun p => (p.1, p.2 || (linesOf a n).contains p.1) }

/-- An error of HBM in a line, which no reader has met: the line's mark, if it has one, stays (R392). -/
def PMem.hideMark (m : PMem) (line : Nat) : PMem :=
  if (m.marks.find line).isSome then m else { m with marks := m.marks.put line false }

/-- A line takes an error mark (R392). -/
def PMem.setMark (m : PMem) (line : Nat) : PMem := { m with marks := m.marks.put line true }

/-- The bytes a host access under HDIRECT reads: HBM's (R268). -/
def PMem.hbmByte (m : PMem) (a : Nat) : Byte :=
  match m.hbm.find (a / 32) with
  | some h => h.bytes.getD (a % 32) unlistedByte
  | none => m.byte a

/-- `n` bytes of HBM. -/
def PMem.hbmBytes (m : PMem) (a : Nat) : Nat → List Byte
  | 0 => []
  | n + 1 => m.hbmByte a :: m.hbmBytes (a + 1) n

/-- One byte written into HBM, beside a copy the L2 keeps, or seen by everyone where the L2 holds none (R268). -/
def PMem.hbmPut (m : PMem) (l2copy : Bool) (a : Nat) (b : Byte) : PMem :=
  match m.hbm.find (a / 32) with
  | some h => { m with hbm := m.hbm.put (a / 32) { h with bytes := h.bytes.set (a % 32) b } }
  | none =>
    if l2copy then
      { m with hbm := m.hbm.put (a / 32) { dirty := false, bytes := (m.bytes (a / 32 * 32) 32).set (a % 32) b } }
    else m.raw a [b]

/-- Bytes written into HBM. -/
def PMem.hbmWrite (m : PMem) (l2copy : Bool) : Nat → List Byte → PMem
  | _, [] => m
  | a, b :: bs => PMem.hbmWrite (m.hbmPut l2copy a b) l2copy (a + 1) bs

/-- A sector written back where dirty (`CFLUSH.L2`, R176): HBM takes the L2's bytes. -/
def PMem.flushSector (m : PMem) (sec : Nat) : PMem :=
  match m.hbm.find sec with
  | some h => if h.dirty then { m with hbm := m.hbm.del sec } else m
  | none => m

/-- A sector that leaves the L2 (`CINV.L2`, a displacement): written back where dirty, else HBM's bytes are seen (DEDUCED, log entry 31). -/
def PMem.dropSector (m : PMem) (sec : Nat) : PMem :=
  match m.hbm.find sec with
  | some h => if h.dirty then { m with hbm := m.hbm.del sec } else { m.raw (sec * 32) h.bytes with hbm := m.hbm.del sec }
  | none => m

end Sys2Proof.Machine
end

