-- ==== Sys2Proof/Machine/Tok.lean ====
section
/-! DEFINITION. Frame handles and the token's fields (R107, R108, R225). -/

namespace Sys2Proof

/-- The local core number, the die and the handle of a word offset on a core (R10, R107). -/
def handleOf (g ofs : Nat) : Word := BitVec.ofNat 32 (g / 32 * 2 ^ 24 + g % 32 * 2 ^ 19 + ofs % 2 ^ 19)

/-- The global core number a handle names (R107). -/
def handleCore (h : Word) : Nat := bitsOf h.toNat 26 24 * 32 + bitsOf h.toNat 23 19

/-- The word offset a handle names. -/
def handleOfs (h : Word) : Nat := bitsOf h.toNat 18 0

/-- The null handle (R107). -/
def nullHandle : Word := 0xFFFFFFFF#32

/-- The flags of token word 1 (R225). -/
structure TokFlags where
  poison : Bool := false
  last : Bool := false
  control : Bool := false
  scale : Bool := false
  ordered : Bool := false
deriving DecidableEq, Repr

/-- Token word 1 (R225). -/
def tokWord1 (ofs slot : Nat) (f : TokFlags) : Word :=
  BitVec.ofNat 32 (ofs % 2 ^ 19 + slot % 256 * 2 ^ 19 + (if f.ordered then 2 ^ 27 else 0) + (if f.scale then 2 ^ 28 else 0) +
    (if f.control then 2 ^ 29 else 0) + (if f.last then 2 ^ 30 else 0) + (if f.poison then 2 ^ 31 else 0))

/-- A token for the frame at `ofs` of core `g` of device `dev` (R108, R225). -/
def mkToken (dev g cclass ofs slot : Nat) (f : TokFlags) (ctx blk : Nat) (tag payload : Word) : Token :=
  { w0 := BitVec.ofNat 32 (dev % 4096 + g / 32 % 8 * 2 ^ 12 + g % 32 * 2 ^ 15 + cclass % 8 * 2 ^ 21)
    w1 := tokWord1 ofs slot f
    w2 := BitVec.ofNat 32 (blk % 65536 + ctx % 64 * 2 ^ 16)
    w3 := tag
    w4 := payload }

/-- A token for the frame a handle names. -/
def tokenTo (dev : Nat) (h : Word) (cclass slot : Nat) (f : TokFlags) (ctx blk : Nat) (tag payload : Word) : Token :=
  mkToken dev (handleCore h) cclass (handleOfs h) slot f ctx blk tag payload

def Token.device (t : Token) : Nat := bitsOf t.w0.toNat 11 0
def Token.dest (t : Token) : Nat := bitsOf t.w0.toNat 14 12 * 32 + bitsOf t.w0.toNat 20 15
def Token.cclass (t : Token) : Nat := bitsOf t.w0.toNat 23 21
def Token.ofs (t : Token) : Nat := bitsOf t.w1.toNat 18 0
def Token.slot (t : Token) : Nat := bitsOf t.w1.toNat 26 19
def Token.ordered (t : Token) : Bool := t.w1.getLsbD 27
def Token.scale (t : Token) : Bool := t.w1.getLsbD 28
def Token.control (t : Token) : Bool := t.w1.getLsbD 29
def Token.last (t : Token) : Bool := t.w1.getLsbD 30
def Token.poison (t : Token) : Bool := t.w1.getLsbD 31
def Token.blk (t : Token) : Nat := bitsOf t.w2.toNat 15 0
def Token.ctx (t : Token) : Nat := bitsOf t.w2.toNat 21 16

/-- Whether a token breaks the checks of reason 1 (R226; DEDUCED, log entry 65). -/
def Token.illFormed (t : Token) : Bool :=
  bitsOf t.w0.toNat 31 24 ≠ 0 || bitsOf t.w0.toNat 20 15 ≥ 32 || bitsOf t.w2.toNat 31 22 ≠ 0 || t.ofs % 16 ≠ 0

/-- The handle of a token's frame, whichever unit records it (R107, R225). -/
def Token.handle (t : Token) : Word := handleOf (bitsOf t.w0.toNat 14 12 * 32 + bitsOf t.w0.toNat 19 15) t.ofs

/-- The token's place where it names the core by 6 bits: 32 to 63 name no core (R225). -/
def Token.badCore (t : Token) : Bool := bitsOf t.w0.toNat 20 15 ≥ 32

end Sys2Proof
end

