-- ==== Sys2Proof/Machine/Ops.lean ====
section
/-! DEFINITION. The named operations: the tables of the device, translation, tokens and circuits, fault records, taking
a fault (record and end, or record and park) and the return from one. -/

namespace Sys2Proof.Machine

/-! ### The tables of the device -/

/-- The context numbered `c`. -/
def Dev.ctx (d : Dev) (c : Nat) : Ctx := d.ctxs.getD c Ctx.free

/-- The device with context `c` replaced. -/
def Dev.setCtx (d : Dev) (c : Nat) (x : Ctx) : Dev := { d with ctxs := d.ctxs.put c x }

/-- The key of a context's share of a core. -/
def shareKey (c g : Nat) : Nat := c * 256 + g

/-- Context `c`'s share of core `g`. -/
def Dev.share (d : Dev) (c g : Nat) : Share := d.shares.getD (shareKey c g) Share.empty

/-- The device with a share replaced. -/
def Dev.setShare (d : Dev) (c g : Nat) (x : Share) : Dev := { d with shares := d.shares.put (shareKey c g) x }

/-- Core `g`. -/
def Dev.core (d : Dev) (g : Nat) : Core := d.cores.getD g Core.reset

/-- The device with a core replaced. -/
def Dev.setCore (d : Dev) (g : Nat) (x : Core) : Dev := { d with cores := d.cores.put g x }

/-- Die `n`. -/
def Dev.die (d : Dev) (n : Nat) : Die := d.dies.getD n Die.reset

/-- The device with a die replaced. -/
def Dev.setDie (d : Dev) (n : Nat) (x : Die) : Dev := { d with dies := d.dies.put n x }

/-- The state with the device changed. -/
def State.mapDev (s : State) (f : Dev → Dev) : State := { s with d := f s.d }

/-- The state with a context changed. -/
def State.mapCtx (s : State) (c : Nat) (f : Ctx → Ctx) : State := { s with d := s.d.setCtx c (f (s.d.ctx c)) }

/-- The state with a share changed. -/
def State.mapShare (s : State) (c g : Nat) (f : Share → Share) : State :=
  { s with d := s.d.setShare c g (f (s.d.share c g)) }

/-- The state with a core changed. -/
def State.mapCore (s : State) (g : Nat) (f : Core → Core) : State := { s with d := s.d.setCore g (f (s.d.core g)) }

/-- Something noted as of a core's present clock (R248). -/
def State.happen (s : State) (g : Nat) (h : Happening) : State := s.mapCore g fun x => { x with now := h :: x.now }

/-- Whether a token for a frame has arrived in a core's present clock, or an instance has parked for want of a descriptor: a
release would have come before the token, or have given the instance its descriptor, so it comes in a later clock (R248). -/
def Core.tokenNow (x : Core) (c ofs : Nat) : Bool := x.now.any fun h => match h with
  | .token c' o _ => c' = c && o = ofs
  | .parked => true
  | _ => false

/-- The state with a die changed. -/
def State.mapDie (s : State) (n : Nat) (f : Die → Die) : State := { s with d := s.d.setDie n (f (s.d.die n)) }

/-- The state with the issuing warp changed. -/
def State.mapWarp (s : State) (f : Warp → Warp) : State := { s with w := f s.w }

/-- A fresh name, and the state that has used it. -/
def State.fresh (s : State) : Nat × State :=
  (s.d.nextId, { s with d := { s.d with nextId := s.d.nextId + 1 } })

/-- The state whose free-value counter has advanced (DESIGN CHOICE, log entry 7). -/
def State.tick (s : State) : State := { s with d := { s.d with free := s.d.free + 1 } }

/-- One more in a life histogram's counter (R409): die and stack temperatures, voltage, errors by structure, records
0x3F by unit, repairs, each kind with its own thousand of keys. -/
def State.lifeCount (s : State) (key n : Nat) : State :=
  { s with d := { s.d with deimos := { s.d.deimos with histo := s.d.deimos.histo.upd key 0 fun x => satNat 32 (x + n) } } }

/-- A link that has not trained. -/
def Link.absent : Link := { up := false, trained := false, degraded := false, peer := 0 }

/-- Whether a device link is up (R401). -/
def Dev.linkUp (d : Dev) (l : Nat) : Bool := (d.links.getD l Link.absent).up

/-- Every resident warp, the issuing one first. -/
def State.allWarps (s : State) : List Warp := if s.w.live then s.w :: s.d.warps else s.d.warps

/-- The resident warp of a name. -/
def State.warp (s : State) (uid : Nat) : Option Warp := s.allWarps.find? fun w => w.uid = uid

/-- A resident warp changed in place. -/
def State.mapUid (s : State) (uid : Nat) (f : Warp → Warp) : State :=
  if s.w.live && s.w.uid = uid then { s with w := f s.w }
  else { s with d := { s.d with warps := s.d.warps.map fun w => if w.uid = uid then f w else w } }

/-- The warp of a name made the issuing one; the former issuing warp joins the others. -/
def State.focus (s : State) (uid : Nat) : State :=
  if s.w.live && s.w.uid = uid then s
  else match s.d.warps.find? fun w => w.uid = uid with
    | none => s
    | some w =>
      let rest := s.d.warps.filter fun x => x.uid ≠ uid
      { s with w := w, d := { s.d with warps := if s.w.live then s.w :: rest else rest } }

/-- The machine with another warp, or none, the issuing one again. -/
def State.backTo (t : State) (w : Warp) : State :=
  if w.live then t.focus w.uid
  else { t with w := Warp.absent, d := { t.d with warps := if t.w.live then t.w :: t.d.warps else t.d.warps } }

/-- Words in the frame area of a share (R227, R315). -/
def Ctx.frameWords (c : Ctx) : Nat := c.frameg * 16384

/-- Bytes of a share's scratch (R161, R315). -/
def Ctx.scratchBytes (c : Ctx) : Nat := c.scrg * 65536

/-- Whether a handle is well formed for a context (R107): reserved bits zero and OFS below the frame area. -/
def Ctx.wellFormed (c : Ctx) (h : Word) : Bool := bitsOf h.toNat 31 27 = 0 && handleOfs h < c.frameWords

/-! ### Translation (R253, R254, R330-R332) -/

/-- The home stack of a device address (R254). -/
def homeStack (iw : Nat) (pa : Nat) : Nat :=
  let win := iw * 0x1000000000
  let g := pa / 4096
  if pa < win then (bitsOf g 3 0) ^^^ (bitsOf g 7 4) ^^^ (bitsOf g 11 8)
  else
    let lsz := (0x10000000000 - win) / 8
    2 * ((pa - win) / lsz) + bitsOf (pa - win) 12 12

/-- The home die (R254). -/
def homeDie (iw : Nat) (pa : Nat) : Nat := homeStack iw pa / 2

/-- The 32-byte sectors that a die's L2 holds (R15). -/
def l2Sectors : Nat := 3145728

/-- Memory with no more sectors of a home die apart from HBM than that die's L2 holds: the lowest of the others leave (R15,
R268; DEDUCED, log entry 31). -/
def PMem.trimDie (iw : Nat) (m : PMem) (die : Nat) : PMem :=
  let mine := m.hbm.filter fun p => homeDie iw (p.1 * 32) = die
  (mine.take (mine.length - l2Sectors)).foldl (fun k p => k.dropSector p.1) m

/-- Memory with no more sectors apart from HBM than the L2s hold. -/
def PMem.trimL2 (m : PMem) (iw : Nat) : PMem :=
  if m.hbm.length ≤ l2Sectors then m else (List.range 8).foldl (PMem.trimDie iw) m

/-! ### Error marks met (R392, R395) -/

/-- The HBM row of an address, named by the 64 KiB frame that covers it and its stack (R395). -/
def hbmRow (iw pa : Nat) : Nat := pa / 65536 * 16 + homeStack iw pa % 16

/-- An HBM row recorded as failing (R395; DESIGN CHOICE, log entry 82). -/
def State.rowFailing (s : State) (row : Nat) : State :=
  if s.d.deimos.failRows.contains row then s
  else { s with d := { s.d with deimos := { s.d.deimos with failRows := s.d.deimos.failRows ++ [row] } } }

/-- An error met, counted by Deimos under its structure (R392, R409). -/
def State.countError (s : State) (structure_ : Nat) (corrected : Bool) : State :=
  s.lifeCount ((if corrected then 4000 else 4001) + 2 * structure_) 1

/-- `n` bytes of one line at `a` read by whatever meets the mark they may carry: an error of HBM met there first is counted, and
its row is a failing one (R392, R395). -/
def State.meetMark (s : State) (a n : Nat) : State :=
  if s.mem.unmet a n then
    ({ s with mem := s.mem.met a n }.rowFailing (hbmRow s.d.iw a)).countError 0x0A false
  else s

/-! ### Walks -/

/-- What a walk finds: the physical address, the bytes to the end of the page, the page's size as a power of two, and
the leaf's attribute bits [7:2]. -/
structure Xlat where
  pa : Nat
  room : Nat
  shift : Nat
  attrs : Nat
deriving DecidableEq, Repr

/-- R of a leaf. -/
def Xlat.canRead (x : Xlat) : Bool := x.attrs.testBit 0

/-- W of a leaf. -/
def Xlat.canWrite (x : Xlat) : Bool := x.attrs.testBit 1

/-- LOCAL of a leaf. -/
def Xlat.isLocal (x : Xlat) : Bool := x.attrs.testBit 2

/-- NOL1 of a leaf. -/
def Xlat.noL1 (x : Xlat) : Bool := x.attrs.testBit 3

/-- HDIRECT of a leaf. -/
def Xlat.hdirect (x : Xlat) : Bool := x.attrs.testBit 4

/-- SYSATOMIC of a leaf. -/
def Xlat.sysAtomic (x : Xlat) : Bool := x.attrs.testBit 5

/-- The lowest address bit a level's entry covers: levels count down from 0 as in R330. -/
def levelShift : Nat → Nat
  | 0 => 48
  | 1 => 39
  | 2 => 30
  | 3 => 21
  | _ => 16

/-- Whether a leaf at a level is valid (R331): bits, alignment, range and LOCAL. -/
def leafOk (iw level entry : Nat) : Bool :=
  let frame := bitsOf entry 51 16 * 65536
  2 ≤ level && bitsOf entry 63 52 = 0 && bitsOf entry 15 8 = 0 && frame % 2 ^ levelShift level = 0 &&
  (isDevice frame || isHost frame) &&
  (bitOf entry 4 == (isDevice frame && decide (iw * 0x1000000000 ≤ frame)))

/-- Whether a pointer at a level is valid (R331): `next` is the level below. -/
def pointerOk (level entry : Nat) : Bool :=
  level < 4 && bitsOf entry 63 52 = 0 && bitsOf entry 7 2 = 0 &&
  isDevice (bitsOf entry 51 8 * 256) && (bitsOf entry 51 8 * 256) % (if level = 3 then 256 else 4096) = 0

/-- The walk from a level on, at the coherence points (R270, R330): `fuel` levels are left. -/
def walkFrom (m : PMem) (iw va : Nat) : Nat → Nat → Nat → Option Xlat
  | 0, _, _ => none
  | fuel + 1, level, table =>
    let sh := levelShift level
    let idx := (va / 2 ^ sh) % (if level = 4 then 32 else 512)
    let entry := m.nat (table + 8 * idx) 8
    if !bitOf entry 0 then none
    else if bitOf entry 1 then
      (if leafOk iw level entry then
        some { pa := bitsOf entry 51 16 * 65536 + va % 2 ^ sh, room := 2 ^ sh - va % 2 ^ sh, shift := sh, attrs := bitsOf entry 7 2 }
      else none)
    else if pointerOk level entry then walkFrom m iw va fuel (level + 1) (bitsOf entry 51 8 * 256)
    else none

/-- A walk of a context's tables (R330); bits [63:57] make an address not translate here. -/
def State.walk (s : State) (c va : Nat) : Option Xlat :=
  if va < 2 ^ 57 then walkFrom s.mem s.d.iw va 5 0 (s.d.ctx c).troot else none

/-- The TLB of a core for a context (R333): a cached translation, else a walk (DEDUCED, log entry 71). -/
def State.translate (s : State) (g c va : Nat) : Option Xlat :=
  match (s.d.tlb.getD (g * 64 + c) []).find (va / 65536) with
  | some e => some { pa := e.pa + va % 65536, room := 2 ^ e.shift - va % 2 ^ e.shift, shift := e.shift, attrs := e.attrs }
  | none => s.walk c va

/-- The TLB after an access through it (DEDUCED, log entry 71). -/
def State.fillTlb (s : State) (g c va : Nat) : State :=
  match (s.d.tlb.getD (g * 64 + c) []).find (va / 65536), s.walk c va with
  | none, some x =>
    let e : TlbEnt := { pa := x.pa - va % 65536, shift := x.shift, attrs := x.attrs, since := (s.d.core g).clk }
    { s with d := { s.d with tlb := s.d.tlb.upd (g * 64 + c) [] (fun t => t.put (va / 65536) e) } }
  | _, _ => s

/-- An engine's access to `n` bytes that lie in one page: the physical address, where the page allows it (R332). -/
def State.engineAddr (s : State) (c va : Nat) (wr : Bool) : Option Nat :=
  match s.walk c va with
  | some x => if (if wr then x.canWrite else x.canRead) then some x.pa else none
  | none => none

/-- Whether every page of a range translates with the permission asked for; `fuel` pages at most. -/
def State.rangeOk (s : State) (c : Nat) (wr : Bool) : Nat → Nat → Nat → Bool
  | 0, _, n => n = 0
  | fuel + 1, va, n =>
    n = 0 ||
    (match s.walk c va with
      | some x => (if wr then x.canWrite else x.canRead) && (n ≤ x.room || State.rangeOk s c wr fuel (va + x.room) (n - x.room))
      | none => false)

/-- Bytes read by an engine through a context's tables, page by page; an untranslated byte reads 0. -/
def State.readVirt (s : State) (c va : Nat) : Nat → List Byte
  | 0 => []
  | n + 1 => (match s.engineAddr c va false with
      | some pa => s.mem.byte pa
      | none => 0#8) :: s.readVirt c (va + 1) n

/-- A number read so. -/
def State.natVirt (s : State) (c va n : Nat) : Nat := ofBytesLE (s.readVirt c va n)

/-- The lines of a range leave the core's L1. -/
def Core.dropLines (x : Core) (pa n : Nat) : Core := { x with l1 := x.l1.filter fun p => !(linesOf pa n).contains p.1 }

/-- A read-modify-write by core `g`: its own copy of the line is invalidated (R169, R171). -/
def State.modifyBytes (s : State) (g pa : Nat) (bs : List Byte) : State :=
  let s1 : State := { s with mem := s.mem.write pa bs }
  if (s.d.core g).l1.isEmpty then s1 else s1.mapCore g fun x => x.dropLines pa bs.length

/-- The value that an atomic in two steps has still to write on a range, with its address; the memory of the host holds no
copy of a revision, so that is where the page tables put it (R269, R342). -/
def Piece.due (p : Piece) (a n : Nat) : Option (Nat × Nat) :=
  match p.act, p.place with
  | .atomEnd (some v), .phys pa => if pa < a + n && a < pa + p.size then some (pa, v) else none
  | _, _ => none

/-- The piece of an atomic whose value is written. -/
def Piece.paid (p : Piece) (a n : Nat) : Piece := if (p.due a n).isSome then { p with act := .atomEnd none } else p

/-- The values that atomics in two steps have still to write on a range written, before an engine or a unit touches it: no
device access falls between the read and the write (R169, R269; DEDUCED, log entry 56). The operations themselves end in
moves of their own. -/
def State.settle (s : State) (a n : Nat) : State :=
  let due := s.d.ops.flatMap fun o => o.pieces.filterMap fun p => (p.due a n).map fun x => (o.core, x.1, bytesLE p.size x.2)
  if due.isEmpty then s
  else
    let t := due.foldl (fun u x => u.modifyBytes x.1 x.2.1 x.2.2) s
    { t with d := { t.d with ops := t.d.ops.map fun o => { o with pieces := o.pieces.map fun p => p.paid a n } } }

/-- Bytes written by an engine or a unit at their coherence point (R259, R269). -/
def State.putMem (s : State) (a : Nat) (bs : List Byte) : State :=
  let t := s.settle a bs.length
  { t with mem := t.mem.write a bs }

/-- Bytes written by an engine, where they translate for writing. -/
def State.writeVirt (s : State) (c va : Nat) (bs : List Byte) : State :=
  match s.engineAddr c va true with
  | some pa => s.putMem pa bs
  | none => s

/-! ### Tokens and circuits (R108, R225, R262) -/

/-- The senders that are no core's send unit: each die's Encke and Charon, the context manager, and the record writers of
each core and of the units of die 0 (R262, R389). -/
def enckeSender (die : Nat) : Nat := 256 + die
def charonSender (die : Nat) : Nat := 264 + die
def managerSender : Nat := 272
def faultSender (g : Nat) : Nat := 273 + g

/-- What comes over device links enters circuits of its own (DEDUCED, log entry 13). -/
def linkSender : Nat := 2000

/-- The first core of the die that a sender stands on, which records what cannot be routed (R226); of what came over a link
it is that of the destination. -/
def issuingDie (sender dest : Nat) : Nat :=
  if sender < 256 then sender / 32 * 32
  else if sender < 264 then (sender - 256) * 32
  else if sender < 272 then (sender - 264) * 32
  else if sender = 272 then 0
  else if sender < 529 then (sender - 273) / 32 * 32
  else dest / 32 * 32

/-- Reductions and mass additions, which act for every lane of their address. -/
def Act.isRed : Act → Bool
  | .red _ _ _ => true
  | .mass _ => true
  | _ => false

/-- Whether a wait is over: no operation of that name is outstanding, in the lane named or at all. -/
def State.depDone (s : State) (x : Dep) : Bool :=
  (s.d.ops.all fun o => o.id ≠ x.op || (x.lane < 32 && o.pieces.all fun p => p.lane ≠ x.lane && !p.act.isRed)) &&
  (s.d.loops.all fun o => o.id ≠ x.op)

/-- Whether every wait of a list is over. -/
def State.depsDone (s : State) (xs : List Dep) : Bool := xs.all s.depDone

/-! ### Fault records (R249, R386-R388) -/

/-- The record's sixteen words (R249). -/
def FaultRec.words (r : FaultRec) (dev seqno clk : Nat) : List Word :=
  [ BitVec.ofNat 32 (r.code % 256 + r.cls % 16 * 2 ^ 8 + (if r.parked then 2 ^ 12 else 0) + (if r.fatal then 2 ^ 13 else 0) +
      (if r.multitag then 2 ^ 14 else 0) + r.ctx % 64 * 2 ^ 16 + r.core / 32 % 8 * 2 ^ 22 + r.core % 32 * 2 ^ 25),
    BitVec.ofNat 32 (r.blk % 65536 + r.codeofs % 4096 * 2 ^ 16), r.lanes, r.tag, r.frame, r.tilecoord,
    BitVec.ofNat 32 (r.address % 2 ^ 32), BitVec.ofNat 32 (r.address / 2 ^ 32), r.d0, r.d1, r.d2, r.resid,
    BitVec.ofNat 32 (dev % 4096), BitVec.ofNat 32 (clk % 2 ^ 32), BitVec.ofNat 32 (clk / 2 ^ 32), BitVec.ofNat 32 seqno ]

/-- A record of a code and class of a context with every other field zero; an engine's has BLOCK 0xFFFF (R249). -/
def FaultRec.engine (code cls ctx core : Nat) : FaultRec :=
  { code := code, cls := cls, parked := false, fatal := false, multitag := false, ctx := ctx, core := core,
    blk := 0xFFFF, codeofs := 0, lanes := 0, tag := 0, frame := 0, tilecoord := 0, address := 0, d0 := 0, d1 := 0,
    d2 := 0, resid := 0 }

/-- The lowest lane of a mask. -/
def lowLane (m : Lanes) : Nat := (lanesOf m).headD 0

/-- A record of the warp for the word at its position: lanes, tags, frame and TILECOORD (R249). -/
def Warp.faultRec (w : Warp) (code cls : Nat) (lanes : Lanes) : FaultRec :=
  let l := lowLane lanes
  { code := code, cls := cls, parked := false, fatal := false
    multitag := (lanesOf lanes).any fun k => w.tag.getD k 0 != w.tag.getD l 0
    ctx := w.ctx, core := w.core, blk := w.blk, codeofs := w.pc, lanes := lanes, tag := w.tag.getD l 0
    frame := handleOf w.core (w.frame.getD l 0), tilecoord := w.tilecoord, address := 0, d0 := 0, d1 := 0, d2 := 0,
    resid := 0 }

/-- A record of a token (R226, R249). -/
def tokRec (t : Token) (code reason g : Nat) : FaultRec :=
  { FaultRec.engine code 2 t.ctx g with
    blk := t.blk, tag := t.w3, frame := t.handle, d0 := BitVec.ofNat 32 reason, d1 := BitVec.ofNat 32 t.blk }

/-- The records a full ring drops (R387). -/
def FaultRec.droppable (r : FaultRec) : Bool :=
  !r.parked && !r.fatal &&
  (r.code = 0x10 || r.code = 0x13 || r.code = 0x14 || r.code = 0x16 || r.code = 0x18 || r.code = 0x1B || r.code = 0x30 ||
    r.cls = 3)

/-- The supervisor context (R314). -/
def Dev.supervisor (d : Dev) : Option Nat :=
  (d.ctxs.find? fun p => p.2.supv && p.2.state != .free).map Prod.fst

/-- The task of the live frame at an offset of a context's share of a core; 256 where there is none. -/
def Dev.frameTask (d : Dev) (c g ofs : Nat) : Nat :=
  match (d.share c g).frames.find ofs with
  | some f => if f.state = .released then 256 else f.task
  | none => 256

/-- A message put on its circuit, in the order it leaves (R262). -/
def State.post (s : State) (item : Item) (sender : Nat) (after : List Dep) : State :=
  let n := s.fresh
  let m : Msg := { id := n.1, item := { item with task := s.d.frameTask item.tok.ctx item.tok.dest item.tok.ofs }, sender := sender, dest := item.tok.dest, cclass := item.tok.cclass, after := after }
  { n.2 with d := { n.2.d with net := n.2.d.net ++ [m] } }

/-- A record of a unit that belongs to no core's share. -/
def WaitRec.free (r : FaultRec) : WaitRec := { body := r, uid := none, seq := 0, holds := false, unit := false, after := [] }

/-- A notification token sent, or, for a core that is offline, dropped by the issuing die (R226, R388): the record of that waits
to be written after the one at hand. -/
def State.sendNotice (s : State) (k : Token) (g : Nat) : State :=
  if !k.badCore && (s.d.core k.dest).offline then
    s.mapCtx k.ctx fun x =>
      { x with dropcnt := satNat 32 (x.dropcnt + 1), waiting := x.waiting ++ [WaitRec.free (tokRec k 0x10 6 (issuingDie (faultSender g) k.dest))] }
  else s.post { kind := 0, ctr := 0, tok := k } (faultSender g) []

/-- The notifications of a record (R388): a token to the supervisor, and an MSI-X message. -/
def State.notify (s : State) (c g n nhdl flags vec nblkSlot : Nat) (ok : Bool) : State :=
  if !ok then s
  else
    let s1 := match s.d.supervisor with
      | some v =>
        if flags.testBit 0 && v ≠ c then
          let k := tokenTo s.d.devnum (BitVec.ofNat 32 nhdl) 0 (bitsOf nblkSlot 23 16) {} v (bitsOf nblkSlot 15 0)
            (BitVec.ofNat 32 c) (BitVec.ofNat 32 n)
          s.sendNotice k g
        else s
      | none => s
    if flags.testBit 1 then { s1 with d := { s1.d with msix := vec :: s1.d.msix } } else s1

/-- Every share of a context asked to halt for pre-emption (R325; DEDUCED, log entry 47). -/
def State.requestAll (s : State) (c : Nat) : State :=
  let ask := fun (p : Nat × Share) =>
    if p.1 / 256 = c && p.2.slot.isSome && !p.2.saved then (p.1, { p.2 with request := true }) else p
  { s with d := { s.d with shares := s.d.shares.map ask } }

/-- The context suspended on every core as by pre-emption (R235, R329, R387; DEDUCED, log entry 47). -/
def State.suspend (s : State) (c : Nat) : State :=
  let k := (s.d.ctx c).state
  if k = .active || k = .swapped || k = .idle then (s.mapCtx c fun x => { x with state := .suspended }).requestAll c
  else s

/-- The context suspended since its fault ring does not translate: until a CONTINUE no record is written (R387). -/
def State.ringFails (s : State) (c : Nat) : State :=
  let t := s.suspend c
  if (t.d.ctx c).state = .suspended then t.mapCtx c fun x => { x with ringDown := true } else t

/-- How the writing of a record ends (R387). -/
inductive RecOut where
  | written | dropped | waits
deriving DecidableEq, Repr

/-- A record written into its context's ring, in the order of R387; `waits` where the ring is full and the record is
not one that is dropped, or where the ring does not translate, which suspends the context; what then waits is written after a
CONTINUE. -/
def State.writeRec (s : State) (r : FaultRec) : State × RecOut :=
  let c := s.d.ctx r.ctx
  let q := 2 ^ c.flog
  if c.ringDown then (s, .waits)
  else match s.engineAddr r.ctx c.fring true with
  | none => (s.ringFails r.ctx, .waits)
  | some hp =>
    let s := s.settle hp 64
    let n := s.mem.nat hp 4
    let ridx := s.mem.nat (hp + 4) 4
    if (n + 2 ^ 32 - ridx) % 2 ^ 32 ≥ q then
      let lost := satNat 32 (s.mem.nat (hp + 8) 4 + 1)
      if r.droppable then ({ s with mem := s.mem.writeNat (hp + 8) 4 lost }, .dropped) else (s, .waits)
    else
      match s.engineAddr r.ctx (c.fring + 64 + 64 * (n % q)) true with
      | none => (s.ringFails r.ctx, .waits)
      | some rp =>
        let s := s.settle rp 64
        let m1 := s.mem.writeWords rp (r.words s.d.devnum n (s.d.core r.core).clk)
        let m2 := m1.writeNat hp 4 ((n + 1) % 2 ^ 32)
        let fl := m2.nat (hp + 12) 4
        let ok := bitsOf fl 31 27 = 0 && bitsOf fl 15 2 = 0 && m2.nat (hp + 23) 1 = 0
        let s2 : State := { s with mem := m2 }
        (s2.notify r.ctx r.core n (m2.nat (hp + 16) 4) (fl % 4) (bitsOf fl 26 16) (m2.nat (hp + 20) 4) ok, .written)

/-- Whether an operation may still write a record of its own: a read may meet an error mark (R392), and in a context with
regions a write may lack a page or meet a revision of a page of the host (R342, R346). A word that parked at its issue is not
waited for: its warp has issued nothing after it (R335). -/
def State.mayRecord (s : State) (o : MemOp) : Bool :=
  (!o.isWrite || o.isAtomic || !o.marked.isEmpty || !(s.d.ctx o.ctx).regions.isEmpty) && (o.parked.isSome || o.pieces.all Piece.ok)

/-- The operations of a warp, issued before `before`, that may still write a record of their own (R251). -/
def State.markers (s : State) (uid before : Nat) : List Nat :=
  ((s.d.ops.filter fun o => o.uid = uid && o.id < before && s.mayRecord o).map MemOp.id) ++
  ((s.d.loops.filter fun o => o.uid = uid && o.id < before).map LoopOp.id)

/-- Whether the operations a record waits for have ended. -/
def State.turnCome (s : State) (k : WaitRec) : Bool :=
  k.after.all fun i => s.d.ops.all (fun o => o.id ≠ i) && s.d.loops.all fun o => o.id ≠ i

/-- Whether a record must wait where it is: its warp has an earlier record or an earlier read that may make one (R251), or
it is one that waits for room and another waits already (R387). -/
def State.recordBehind (s : State) (k : WaitRec) : Bool :=
  let ws := (s.d.ctx k.body.ctx).waiting
  !s.turnCome k || ws.any fun x => (k.uid.isSome && x.uid = k.uid && x.seq ≤ k.seq) || (!k.body.droppable && s.turnCome x)

/-- A record sent to its ring by its writer; one that must wait is kept (R251, R387). -/
def State.record (s : State) (k : WaitRec) : State × Bool :=
  let keep := fun (t : State) => t.mapCtx k.body.ctx fun c => { c with waiting := c.waiting ++ [k] }
  if (s.d.ctx k.body.ctx).state = .free then (s, false)
  else if s.recordBehind k then (keep s, true)
  else
    let o := s.writeRec k.body
    match o.2 with
    | .waits => (keep o.1, true)
    | _ => (o.1, false)

/-- A record of a unit of a core's share: a queue, the matrix engine (R399). -/
def WaitRec.ofUnit (r : FaultRec) : WaitRec := { WaitRec.free r with unit := true }

/-- A record of the issuing warp's word, behind those of its earlier words (R251). -/
def State.warpRec (s : State) (r : FaultRec) (holds : Bool) : WaitRec :=
  { body := r, uid := some s.w.uid, seq := s.d.nextId, holds := holds, unit := false, after := s.markers s.w.uid s.d.nextId }

/-- A record after which nobody waits for anything. -/
def State.note (s : State) (r : FaultRec) : State := (s.record (WaitRec.free r)).1

/-- A record of a unit of a core's share after which nobody waits for anything. -/
def State.noteUnit (s : State) (r : FaultRec) : State := (s.record (WaitRec.ofUnit r)).1

/-- A record of a unit for a warp's command, named by its number, after which nobody waits for anything; the warp's terminator
comes after it (R46). -/
def State.noteFor (s : State) (uid id : Nat) (r : FaultRec) : State :=
  (s.record { WaitRec.ofUnit r with uid := some uid, seq := id }).1

/-- A record of an operation of a warp, named by the operation's name, after which nobody waits. -/
def State.noteOp (s : State) (uid id : Nat) (r : FaultRec) : State :=
  (s.record { body := r, uid := some uid, seq := id, holds := false, unit := false, after := s.markers uid id }).1

/-- A record of the issuing warp's word after which the warp goes on. -/
def State.noteWarp (s : State) (r : FaultRec) : State := (s.record (s.warpRec r false)).1

/-- Whether a record of a warp waits to be written: its terminator's tokens come after it (R46). -/
def State.recordsDue (s : State) (w : Warp) : Bool := (s.d.ctx w.ctx).waiting.any fun k => k.uid = some w.uid

/-- A drop counted and recorded (R226). -/
def State.dropTok (s : State) (t : Token) (reason g : Nat) : State :=
  (s.mapCtx t.ctx fun c => { c with dropcnt := satNat 32 (c.dropcnt + 1) }).note (tokRec t 0x10 reason g)

/-- An item routed (R226 reasons 6 and 7, R404): to a device link, or onto its circuit on this device. -/
def State.route (s : State) (item : Item) (sender : Nat) (after : List Dep) : State :=
  let t := item.tok
  if t.device ≠ s.d.devnum then
    match (s.d.ctx t.ctx).paths.find t.device with
    | some l =>
      if s.d.linkUp l then
        s.post item sender after
      else s.dropTok t 7 (if sender < 256 then sender else 0)
    | none => s.dropTok t 7 (if sender < 256 then sender else 0)
  else if !t.badCore && (s.d.core t.dest).offline then s.dropTok t 6 (issuingDie sender t.dest)
  else s.post item sender after

/-- A token routed. -/
def State.sendTok (s : State) (t : Token) (sender : Nat) (after : List Dep) : State :=
  s.route { kind := 0, tok := t, ctr := 0 } sender after

/-! ### Frames (R112, R227) -/

/-- The lowest free run of `n` granules at or after granule `at_`, before `top`, between the frames listed. -/
def freeRun (n top : Nat) : Nat → Map Frame → Option Nat
  | start, [] => if start + n ≤ top then some start else none
  | start, (o, f) :: fs => if start + n ≤ o / 16 then some start else freeRun n top (o / 16 + f.size) fs

/-- Where a frame of `n` granules goes in a share (R227). -/
def Dev.placeFor (d : Dev) (c g n : Nat) : Option Nat :=
  (freeRun n ((d.ctx c).frameWords / 16) 0 (d.share c g).frames).map fun k => k * 16

/-- Every word from `a` on, `n` of them, removed from a table: it reads as its default again. -/
def clearRange {α : Type} (m : Map α) (a n : Nat) : Map α := m.filter fun p => p.1 < a || a + n ≤ p.1

/-- A new frame: words zero, presence and marks clear (R227, R228, R272). -/
def Share.newFrame (x : Share) (ofs : Nat) (f : Frame) : Share :=
  { x with
    frames := x.frames.put ofs f
    words := clearRange x.words ofs (f.size * 16)
    pres := clearRange x.pres ofs (f.size * 16)
    marks := clearRange x.marks ofs (f.size * 16) }

/-- A frame's first header. -/
def Frame.fresh (st : FState) (task size : Nat) (hi lo : Word) : Frame :=
  { state := st, task := task, size := size, park := none, mix := [], ctl := [], jlow := 0xFFF, jpay := 0, jpz := false,
    fidHi := hi, fidLo := lo, ord := 0, waiting := [] }

/-- Whether a resident warp holds a lane on the frame at `ofs` of a share (R112). -/
def State.frameHeld (s : State) (c g ofs : Nat) : Bool :=
  s.allWarps.any fun w => w.ctx = c && w.core = g && w.status != .retired && w.filled != 0 &&
    (lanesOf w.filled).any fun l => w.frame.getD l 0 = ofs

/-- The space of released frames that no warp holds any more, given back (R112). -/
def State.sweepFrames (s : State) (c g : Nat) : State :=
  s.mapShare c g fun x => { x with frames := x.frames.filter fun p => p.2.state != .released || s.frameHeld c g p.1 }

/-- The group of an instance of a bin; under DET = 1 a vector group is also keyed by tag bits [19:5] (R236, R279). -/
def Ready.key (r : Ready) (det seq : Bool) (bin : Nat) : GroupKey :=
  { seq := seq, bin := bin, task := r.task, blk := r.desc.blk
    grp := if det && !seq then bitsOf r.desc.tag.toNat 19 5 else 0 }

/-- The oldest instance of a group of a vector bin: the first entered (R238). -/
def Share.oldest (x : Share) (det : Bool) (k : GroupKey) : Option Nat :=
  (((x.vbins.getD k.bin []).filter fun r => decide (r.key det false k.bin = k)).head?).map Ready.seqno

/-- The groups still timed out after instances have left: those whose oldest instance stayed (R238). -/
def Share.stillTimed (x y : Share) (det : Bool) : List GroupKey :=
  x.timed.filter fun k => (y.oldest det k).isSome && y.oldest det k = x.oldest det k

/-- The ready instances of a frame taken out of a bin table, and those that remain. -/
def splitReady (ofs : Nat) (bins : Map (List Ready)) : List Ready × Map (List Ready) :=
  (bins.flatMap fun p => p.2.filter fun r => r.desc.ofs = ofs,
    bins.map fun p => (p.1, p.2.filter fun r => r.desc.ofs ≠ ofs))

/-- A frame that is no longer pending for any warp (R117): its offset may be another frame's soon. -/
def State.forgetPend (s : State) (c g ofs : Nat) : State :=
  let go := fun (w : Warp) => if w.ctx = c && w.core = g && w.pend.contains ofs then { w with pend := w.pend.filter fun o => o ≠ ofs } else w
  { s with w := go s.w, d := { s.d with warps := s.d.warps.map go } }

/-- A frame released (R112): its ready instances are discarded and recorded with reason 8, each counted in DROPCNT too
(DEDUCED, log entry 86), its waiting and collided tokens dropped with reason 2, and its space given back when no warp
holds it. -/
def State.releaseFrame (s : State) (c g ofs : Nat) : State :=
  match (s.d.share c g).frames.find ofs with
  | none => s
  | some f =>
    if f.state = .released then s
    else
      let x := s.d.share c g
      let v := splitReady ofs x.vbins
      let q := splitReady ofs x.sbins
      let gone := (v.1 ++ q.1).map Ready.desc ++ f.park.toList
      let here := fun (e : Collided) => e.core = g && e.tok.ofs = ofs
      let lost := f.waiting.map Prod.snd ++ (((s.d.ctx c).collided ++ (s.d.ctx c).heldColl).filter here).map Collided.tok
      let s1 := (s.forgetPend c g ofs).mapShare c g fun y =>
        { y with
          vbins := v.2, sbins := q.2, timed := y.stillTimed { y with vbins := v.2 } (s.d.ctx c).det
          frames := y.frames.put ofs { f with state := .released, park := none, waiting := [] } }
      let s2 := s1.mapCtx c fun k =>
        { k with collided := k.collided.filter fun e => !here e, heldColl := k.heldColl.filter fun e => !here e }
      let lostRec := fun (dsc : Desc) =>
        { FaultRec.engine 0x10 2 c g with blk := dsc.blk, tag := dsc.tag, frame := handleOf g ofs, d0 := 8, d1 := BitVec.ofNat 32 dsc.blk }
      let count := fun (k : Ctx) => { k with dropcnt := satNat 32 (k.dropcnt + 1) }
      let s3 := gone.foldl (fun t dsc => (t.mapCtx c count).note (lostRec dsc)) s2
      let s4 := lost.foldl (fun t k => t.dropTok k 2 g) s3
      (if gone.isEmpty then s4 else s4.happen g .freed).sweepFrames c g

/-! ### Taking a fault and returning from one (R114, R250, R335, R337, R384, R385) -/

/-- The issuing warp leaves its core without performing anything more (R385): frames of `FALLOC` not committed are
released, and a warp with operations outstanding keeps its registers until they have been performed. -/
def State.endWarp (s : State) : State :=
  let w := s.w
  let s1 := w.pend.foldl (fun t o => t.releaseFrame w.ctx w.core o) s
  let busy := s1.d.ops.any (fun o => o.uid = w.uid) || s1.d.loops.any (fun o => o.uid = w.uid)
  let s2 : State := { s1 with w := Warp.absent }
  let s3 : State := if busy then { s2 with d := { s2.d with warps := { w with status := .retired, pend := [] } :: s2.d.warps } } else s2
  s3.sweepFrames w.ctx w.core

/-- A synchronous program fault taken at the warp's word (R250, R385): one record, and the warp ends; where the record
must wait for room the warp waits with it (R387). -/
def State.faultWith (s : State) (r : FaultRec) : State :=
  let o := s.record (s.warpRec r true)
  if o.2 then o.1.mapWarp fun w => { w with status := .ringWait } else o.1.endWarp

/-- The exceptions an instruction word raises that end its warp: code, lanes and detail fields. -/
structure Raise where
  code : Nat
  lanes : Lanes
  address : Nat := 0
  d0 : Word := 0
  d1 : Word := 0
deriving DecidableEq, Repr

/-- The record of a raised fault (R249). -/
def Warp.raiseRec (w : Warp) (r : Raise) : FaultRec :=
  { w.faultRec r.code 0 r.lanes with address := r.address, d0 := r.d0, d1 := r.d1 }

/-- TAKING AN EXCEPTION: a synchronous program fault of the issuing warp (R250, R385). -/
def State.raise (s : State) (r : Raise) : State := s.faultWith (s.w.raiseRec r)

/-- A fault of the whole word: every filled lane (R251). -/
def State.raiseAll (s : State) (code : Nat) (d0 : Word := 0) : State :=
  s.raise { code := code, lanes := s.w.filled, d0 := d0 }

/-- The park table's key: warps share indexes 0 to 511; copy queues and the matrix engine have their own (R336). -/
def parkKey (kind idx : Nat) : Nat := (if kind < 4 then 0 else kind) * 512 + idx

/-- A resume identifier (R336). -/
def resid (kind ctx g idx gen : Nat) : Word :=
  BitVec.ofNat 32 (gen % 64 + idx % 512 * 2 ^ 6 + g % 32 * 2 ^ 15 + g / 32 % 8 * 2 ^ 20 + ctx % 64 * 2 ^ 23 + kind % 8 * 2 ^ 29)

/-- A park entry never used. -/
def Park.unused : Park := { kind := 0, gen := 0, uid := 0, sd := 0, used := false, held := none }

/-- The lowest park entry that is not in use, for a warp. -/
def Share.freePark (x : Share) : Nat :=
  ((List.range 512).find? fun i => !(x.park.getD i Park.unused).used).getD 0

/-- A park entry taken: its generation goes up by one (R336; DEDUCED, log entry 27). -/
def Share.takePark (x : Share) (kind idx uid sd : Nat) : Share :=
  let g := (x.park.getD (parkKey kind idx) Park.unused).gen
  let p : Park := { kind := kind, gen := (g + 1) % 64, uid := uid, sd := sd, used := true, held := none }
  { x with park := x.park.put (parkKey kind idx) p }

/-- A park entry given back. -/
def Share.dropPark (x : Share) (kind idx : Nat) : Share :=
  match x.park.find (parkKey kind idx) with
  | some p => { x with park := x.park.put (parkKey kind idx) { p with used := false, held := none } }
  | none => x

/-- The generation of a park entry. -/
def Share.parkGen (x : Share) (kind idx : Nat) : Nat :=
  (x.park.getD (parkKey kind idx) Park.unused).gen

/-- The issuing warp parked before its next word with a record that names the entry (R115, R221, R335). The call
identifier of an `ECALL` also stands in DETAIL2 (R250). -/
def State.parkWith (s : State) (kind sd : Nat) (r : FaultRec) : State :=
  let w := s.w
  let idx := (s.d.share w.ctx w.core).freePark
  let s1 := s.mapShare w.ctx w.core fun x => x.takePark kind idx w.uid sd
  let id := resid kind w.ctx w.core idx ((s1.d.share w.ctx w.core).parkGen kind idx)
  let r1 := { r with parked := true, resid := id, d2 := if kind = 3 then id else r.d2 }
  let o := s1.record (s1.warpRec r1 true)
  o.1.mapWarp fun x => { x with status := if o.2 then .ringWait else .parked idx }

/-- A write that found no page in the pool, counted (R345). -/
def State.countMiss (s : State) (c d0 : Nat) : State :=
  if d0 = 3 then s.mapCtx c fun k => { k with rpparked := satNat 16 (k.rpparked + 1) } else s

/-- A word of a warp that has issued, parked by a fault met since: its record names a park entry, which is the answer, and the
warp issues nothing before a resume (R190, R335, R346; DEDUCED, log entry 70). -/
def State.parkFlight (s : State) (uid id pc : Nat) (tile : Word) (lanes : Lanes) (code va d0 : Nat) : Option (Nat × State) :=
  (s.warp uid).map fun w =>
    let idx := (s.d.share w.ctx w.core).freePark
    let s1 := s.mapShare w.ctx w.core fun x => x.takePark 1 idx uid 0
    let rid := resid 1 w.ctx w.core idx ((s1.d.share w.ctx w.core).parkGen 1 idx)
    let r := { w.faultRec code 1 lanes with
      codeofs := pc, tilecoord := tile, address := va, d0 := BitVec.ofNat 32 d0, parked := true, resid := rid }
    (idx, (s1.countMiss w.ctx d0).noteOp uid id r)

/-- A translation fault taken by the issuing warp (R160, R335): the lanes that met the code of the lowest one, parked
under a resume identifier. DETAIL0 is 0 for a read, 1 a write, 2 an atomic, 3 no page in the pool (R250). -/
def State.parkTransl (s : State) (code : Nat) (lanes : Lanes) (address : Nat) (d0 : Nat) : State :=
  s.parkWith 1 0 { s.w.faultRec code 1 lanes with address := address, d0 := BitVec.ofNat 32 d0 }

/-- An engine or a copy queue parked (R184, R204): the record names it, and the identifier stands in the park table. -/
def State.parkEngine (s : State) (kind idx c g code address d0 : Nat) : State × Word :=
  let s1 := s.mapShare c g fun x => x.takePark kind idx 0 0
  let id := resid kind c g idx ((s1.d.share c g).parkGen kind idx)
  (s1.noteUnit { FaultRec.engine code 1 c g with parked := true, address := address, d0 := BitVec.ofNat 32 d0, resid := id }, id)

/-! ### Ending a context (R312, R390) -/

/-- The number of iterations of a nest. -/
def LoopOp.total (o : LoopOp) : Nat := o.ext.foldl (· * ·) 1

/-- Whether a nest asks for leave (R18). -/
def LoopOp.heavy (o : LoopOp) : Bool := 4096 < o.total

/-- Whether a stream asks for leave (R18). -/
def MKind.heavy : MKind → Bool
  | .mstream _ _ _ n _ _ => 64 < n
  | _ => false

/-- A grant returned (R405). -/
def State.returnLeave (s : State) (g weight : Nat) : State := s.mapDie (g / 32) fun x => { x with use := x.use - weight }

/-- The leave that a context's matrix instructions and nests hold given back, and their requests withdrawn (R18, R405). -/
def State.dropLeave (s : State) (c : Nat) : State :=
  let ms := (s.d.shares.filter fun p => p.1 / 256 = c).flatMap fun p =>
    (p.2.mx.issued.filter fun m => m.kind.heavy && !m.finished && m.leave = 2).map fun _ => (p.1 % 256, 4)
  let ls := (s.d.loops.filter fun o => o.ctx = c && o.heavy && o.leave = 2).map fun o => (o.core, 1)
  let t := (ms ++ ls).foldl (fun t p => t.returnLeave p.1 p.2) s
  { t with d := { t.d with dies := t.d.dies.map fun p => (p.1, { p.2 with reqs := p.2.reqs.filter fun r => r.ctx ≠ c || r.kind = 2 }) } }

/-- What is left of a share after its context's end: the generations of its park table (R336; DEDUCED, log entries 26 and 27),
and what its copy engine, where there is one, has accepted, with the scratch that this moves (R312). -/
def Share.discarded (x : Share) (copies : Bool) : Share :=
  let y := { Share.empty with park := x.park.map fun p => (p.1, { p.2 with used := false, held := none, uid := 0 }) }
  if copies && (x.copyA.isSome || x.copyB.isSome) then
    { y with
      slot := x.slot, words := x.words, marks := x.marks
      copyA := x.copyA.map fun k => { k with orphan := true }, copyB := x.copyB.map fun k => { k with orphan := true } }
  else y

/-- A context's discard (R312): every frame, bin entry, warp, queue entry, park entry, matrix state, spawn queue entry and
ring entry is gone, and so are its translations in the cores (R333). What engines have accepted completes without it. -/
def State.discard (s : State) (c : Nat) : State :=
  let t := s.dropLeave c
  let d := t.d
  let d1 := { d with
    shares := d.shares.map fun p => if p.1 / 256 = c then (p.1, p.2.discarded !(d.core (p.1 % 256)).offline) else p
    warps := d.warps.filter fun w => w.ctx ≠ c
    ops := d.ops.filter fun o => o.ctx ≠ c
    loops := d.loops.filter fun o => o.ctx ≠ c
    tlb := d.tlb.filter fun p => p.1 % 64 ≠ c
    dies := d.dies.map fun p => (p.1, { p.2 with
      spawn := p.2.spawn.filter fun e => e.ctx ≠ c
      gangs := p.2.gangs.filter fun e => e.ctx ≠ c
      encke := p.2.encke.map fun e => if e.ctx = c then { e with orphan := true } else e }) }
  let t1 : State := { t with d := d1, w := if t.w.live && t.w.ctx = c then Warp.absent else t.w }
  t1.mapCtx c fun x =>
    { x with
      swapout := false, launches := [], tasks := [], regions := [], revs := [], rootConf := [], rootGran := []
      collided := [], spill := [], heldSpill := [], heldColl := [], waiting := x.waiting.filter fun k => k.uid.isNone }

/-- A context FREE after its discard: its pool is empty (R312, R345). -/
def State.freeCtx (s : State) (c : Nat) : State :=
  (s.discard c).mapCtx c fun x => { x with state := .free, pool := [], ringDown := false }

/-- The record of an end, and the discard it starts: the context goes to ENDING, its warps stop, its tables empty, or to FREE
at once from IDLE (R312). No engine writes the record, so its BLOCK is zero (R249); the core of a control-state error writes the record
0x31 of it, with its CORE, DIE and CLK. `core` is 256 where there is none, and DETAIL1 of 0x32 then names none (DEDUCED,
log entry 81). -/
def State.endCtx (s : State) (c code cause core : Nat) : State :=
  if (s.d.ctx c).state = .free || (s.d.ctx c).state = .ending then s
  else
    let d1 := if code = 0x32 && (cause = 2 || cause = 3 || cause = 7) then (if core < 256 then core else 0xFFFFFFFF) else 0
    let s1 := s.note { FaultRec.engine code 5 c (if code = 0x31 && core < 256 then core else 0) with
      blk := 0, fatal := true, d0 := BitVec.ofNat 32 cause, d1 := BitVec.ofNat 32 d1 }
    if (s.d.ctx c).state = .idle then s1.freeCtx c
    else s1.mapCtx c fun x => { x with state := .ending, ringDown := false }

end Sys2Proof.Machine
end

