-- ==== Sys2Proof/Machine/Operands.lean ====
section
/-! DEFINITION. Operand forms and destinations: reading V, S, O, L registers, immediates and IMM32 in the element type
(R20, R47-R52, R65, R74, R76), writing results, and the checks every word makes first (R88, R89). -/

namespace Sys2Proof

/-- The width of an element. -/
def Ty.width : Ty → Nat
  | .i32 | .u32 | .f32 => 32
  | .i64 | .u64 | .f64 => 64
  | .f16 | .bf16 | .f16x2 | .bf16x2 | .i16x2 | .u16x2 => 16
  | .i8x4 | .u8x4 => 8

/-- Elements in an operand. -/
def Ty.count : Ty → Nat
  | .f16x2 | .bf16x2 | .i16x2 | .u16x2 => 2
  | .i8x4 | .u8x4 => 4
  | _ => 1

/-- Signed integer types. -/
def Ty.signed : Ty → Bool
  | .i32 | .i64 | .i16x2 | .i8x4 => true
  | _ => false

/-- Bits of a whole operand of the type. -/
def Ty.bits (t : Ty) : Nat := 32 * t.regs

/-- Element `k` of an operand's bits. -/
def Ty.elem (t : Ty) (x k : Nat) : Nat := x / 2 ^ (t.width * k) % 2 ^ t.width

/-- The operand whose elements are `f 0`, `f 1`, …; the elements' own width is kept. -/
def Ty.join (t : Ty) (f : Nat → Nat) : Nat :=
  ((List.range t.count).map fun k => f k % 2 ^ t.width * 2 ^ (t.width * k)).foldl (· + ·) 0

/-- An element as an integer of its type. -/
def Ty.int (t : Ty) (x : Nat) : Int := if t.signed then sextInt t.width x else ((x % 2 ^ t.width : Nat) : Int)

/-- The type's smallest and largest integers. -/
def Ty.minInt (t : Ty) : Int := if t.signed then -((2 ^ (t.width - 1) : Nat) : Int) else 0
def Ty.maxInt (t : Ty) : Int := if t.signed then ((2 ^ (t.width - 1) : Nat) : Int) - 1 else ((2 ^ t.width : Nat) : Int) - 1

/-- The register after one in its file, for pairs (R20). -/
def Spec.next : Spec → Spec
  | .v n => .v (n + 1)
  | .s n => .s (n + 1)
  | .o n => .o (n + 1)
  | .l _ => .l 1
  | x => x

/-- The V or S register `k` places after one. -/
def Spec.plus (x : Spec) (k : Nat) : Spec :=
  match x with
  | .v n => .v (n + BitVec.ofNat 8 k)
  | .s n => .s (n + BitVec.ofNat 8 k)
  | y => y

/-- An inline immediate in the element type (R76): the operand's bits. -/
def Ty.immBits (t : Ty) (x : BitVec 8) : Nat :=
  let v := x.toInt
  if t.fltAll then t.join fun _ => t.ffmt.roundFV .rne false 0 (FV.ofInt v)
  else t.join fun _ => wrapInt t.width v

/-- IMM32 in the element type (R76); a binary32 NaN widens to the canonical one (R23; DEDUCED, log entry 94). -/
def Ty.imm32Bits (t : Ty) (x : Word) : Nat :=
  match t with
  | .i64 => wrapInt 64 x.toInt
  | .f64 => fmt64.roundFV .rne false 0 (fmt32.read false x.toNat)
  | .f16 | .bf16 => x.toNat % 65536
  | _ => x.toNat

namespace Machine

/-! ### FMODE (R24) -/

/-- The rounding mode a code names in a warp: DYN is FMODE.RM (R26, R27). -/
def rndOf (fmode : Word) (r : Rnd) : Rnd :=
  match r with
  | .dyn => match bitsOf fmode.toNat 9 7 with
    | 1 => .rtz
    | 2 => .rup
    | 3 => .rdn
    | 4 => .rna
    | 5 => .sr
    | _ => .rne
  | r => r

def fmodeFtz (w : Word) : Bool := w.getLsbD 10
def fmodeDaz (w : Word) : Bool := w.getLsbD 11
def fmodeNanp (w : Word) : Bool := w.getLsbD 12
def fmodeSat (w : Word) : Bool := w.getLsbD 13
def fmodeWx (w : Word) : Bool := w.getLsbD 14
def fmodeZovf (w : Word) : Bool := w.getLsbD 15

/-- The stochastic value of a lane's element (R28). -/
def Warp.srq (w : Warp) (l k : Nat) : Word := srQ w.srseed (w.tag.getD l 0) l k

/-! ### Reading -/

/-- A V register of a lane; one whose operation in flight was performed before a `WAIT` gives its old or its new value,
chosen anew at each word and at each place `k` of the word that reads it: 0 for A, 1 for B, 2 for C, 3 for D (R55;
DESIGN CHOICE, log entry 5). -/
def Warp.readV (w : Warp) (r l : Nat) (k : Nat := 0) : Word :=
  match w.inflight.find (r * 32 + l) with
  | some old => if Config.earlyOld w.uid w.issued (r * 32 + l) k then old else w.v.getD (r * 32 + l) 0
  | none => w.v.getD (r * 32 + l) 0

/-- L0 or L1 of a lane; before a producer the value is free (R51; DESIGN CHOICE, log entry 4). -/
def Warp.readL (w : Warp) (n : BitVec 1) (l : Nat) : Word :=
  if w.lprod.getLsbD n.toNat then (if n = 0 then w.l0.getD l 0 else w.l1.getD l 0)
  else Config.lastResult w.uid w.issued n.toNat l

/-- One register or immediate as 32 bits, read at place `k` of the word. -/
def Warp.read32 (w : Warp) (x : Spec) (l : Nat) (k : Nat := 0) : Word :=
  match x with
  | .v n => w.readV n.toNat l k
  | .s n => w.s.getD n.toNat 0
  | .o n => w.o.getD (n.toNat * 32 + l) 0
  | .l n => w.readL n l
  | .imm v => BitVec.ofInt 32 v.toInt
  | _ => 0

/-- An operand in its element type: the bits of one register, a pair or an immediate (R20, R76). -/
def Warp.operand (w : Warp) (t : Ty) (x : Opd) (l : Nat) (k : Nat := 0) : Nat :=
  match x with
  | .imm32 v => t.imm32Bits v
  | .spec (.imm v) => t.immBits v
  | .spec y => if t.wide then (w.read32 y l k).toNat + 2 ^ 32 * (w.read32 y.next l k).toNat else (w.read32 y l k).toNat

/-- A source specifier as an operand. -/
def Warp.src (w : Warp) (t : Ty) (x : Spec) (l : Nat) (k : Nat := 0) : Nat := w.operand t (.spec x) l k

/-- An operand of one 32-bit register: a count, a slot index or an offset. -/
def Warp.opd32 (w : Warp) (x : Opd) (l : Nat) (k : Nat := 0) : Word :=
  match x with
  | .imm32 v => v
  | .spec y => w.read32 y l k

/-- An S pair as 64 bits. -/
def Warp.sPair (w : Warp) (x : Spec) : Nat := (w.read32 x 0).toNat + 2 ^ 32 * (w.read32 x.next 0).toNat

/-! ### Writing -/

/-- A V register of a lane written; an earlier operation's old value is forgotten. -/
def Warp.putV (w : Warp) (r l : Nat) (x : Word) : Warp :=
  { w with v := Map.putC 0 w.v (r * 32 + l) x, inflight := w.inflight.del (r * 32 + l) }

/-- An O register of a lane written. -/
def Warp.putO (w : Warp) (r l : Nat) (x : Word) : Warp := { w with o := Map.putC 0 w.o (r * 32 + l) x }

/-- An S register written. -/
def Warp.putS (w : Warp) (r : Nat) (x : Word) : Warp := { w with s := Map.putC 0 w.s r x }

/-- A lane of a destination register written. -/
def Warp.putSpec (w : Warp) (d : Spec) (l : Nat) (x : Word) : Warp :=
  match d with
  | .v n => w.putV n.toNat l x
  | .o n => w.putO n.toNat l x
  | .s n => w.putS n.toNat x
  | _ => w

/-- A lane of a destination of `n` registers written with `x`, low word first. -/
def Warp.putWide : Nat → Warp → Spec → Nat → Nat → Warp
  | 0, w, _, _, _ => w
  | n + 1, w, d, l, x => Warp.putWide n (w.putSpec d l (BitVec.ofNat 32 x)) d.next l (x / 2 ^ 32)

/-- L0 and L1 after a producer of `n` result registers (R51): inactive lanes take zero (DESIGN CHOICE, log entry 4). -/
def Warp.putLast (w : Warp) (n : Nat) (act : Lanes) (f : Nat → Nat) : Warp :=
  let lo : Map Word := (lanesOf act).map fun l => (l, BitVec.ofNat 32 (f l))
  if n = 2 then
    { w with l0 := lo, l1 := (lanesOf act).map fun l => (l, BitVec.ofNat 32 (f l / 2 ^ 32)), lprod := 3 }
  else { w with l0 := lo, l1 := w.l0, lprod := if w.lprod.getLsbD 0 then 3 else 1 }

/-- The destinations of one lane: D unless NODST, and the O register under OEN (R74; DEDUCED, log entry 8). -/
def Warp.putDest (w : Warp) (c : Ctl) (d : Spec) (n l x : Nat) : Warp :=
  let w1 := if c.nodst then w else Warp.putWide n w d l x
  if c.oen then Warp.putWide n w1 (.o c.oidx) l x else w1

/-- A vector result: the destinations of every active lane, and the last-result names (R51, R122). -/
def Warp.putResult (w : Warp) (c : Ctl) (d : Spec) (n : Nat) (act : Lanes) (f : Nat → Nat) : Warp :=
  ((lanesOf act).foldl (fun v l => v.putDest c d n l (f l)) w).putLast n act f

/-- Lanes written without a change of the last-result names (R148). -/
def Warp.putLanes (w : Warp) (d : Spec) (n : Nat) (act : Lanes) (f : Nat → Nat) : Warp :=
  (lanesOf act).foldl (fun v l => Warp.putWide n v d l (f l)) w

/-! ### What every word does first (R88, R89) -/

/-- Whether the issuing warp runs at supervisor level (R314). -/
def State.isSupervisor (s : State) : Bool := (s.d.ctx s.w.ctx).supv

/-- The words only the supervisor may issue (R89). -/
def needsSupervisor : Instr → Bool
  | .sret _ | .resumeq _ => true
  | _ => false

/-- The fault of a word before it does anything: its encoding and declarations, the kind of its warp, privilege. -/
def State.wordFault (s : State) (i : Instr) : Option Nat :=
  if !(i.legal && i.inside (8 * s.w.hdr.vregs) (8 * s.w.hdr.sregs)) then some 0x01
  else if !i.kindOk s.w.hdr.seq then some 0x01
  else if needsSupervisor i && !s.isSupervisor then some 0x04
  else none

/-- The word's meaning after its checks; a check that fails takes its fault with nothing of the word performed. -/
def State.checked (s : State) (i : Instr) (k : State → State) : Host.Outcome State Fault Refusal :=
  match s.wordFault i with
  | some code => .next (s.raiseAll code)
  | none => .next (k s)

/-- The warp at its next word. -/
def Warp.advance (w : Warp) (i : Instr) : Warp := { w with pc := w.pc + i.byteLen, issued := w.issued + 1 }

/-- The state with the issuing warp at its next word. -/
def State.advance (s : State) (i : Instr) : State := { s with w := s.w.advance i }

/-- A word whose whole effect is on its warp's registers. -/
def State.wordOn (s : State) (i : Instr) (f : Warp → Warp) : Host.Outcome State Fault Refusal :=
  s.checked i fun t => (t.mapWarp f).advance i

end Machine

end Sys2Proof
end

