-- ==== Sys2Proof/Machine/Flags.lean ====
section
/-! DEFINITION. Predicates, poison flags and conditions (R42, R52, R77, R127, R135). -/

namespace Sys2Proof.Machine

/-- The lanes in which predicate `n` is true; P7 reads 1 (R47, R52). -/
def Warp.pred (w : Warp) (n : Nat) : Lanes := if n = 7 then BitVec.allOnes 32 else w.p.getD n 0

/-- The lanes in which a predicate source field is true (R77). -/
def Warp.psrc (w : Warp) (x : PSrc) : Lanes := if x.neg then ~~~ w.pred x.p.toNat else w.pred x.p.toNat

/-- A scalar predicate; 7 means always (R52). -/
def Warp.spred (w : Warp) (n : Nat) : Bool := if n < 4 then w.sp.getLsbD n else n = 7

/-- A scalar predicate source field. -/
def Warp.spsrc (w : Warp) (x : PSrc) : Bool := w.spred x.p.toNat != x.neg

/-- The active lanes of a predicated word (R7, R52). -/
def Warp.active (w : Warp) (g : Guard) : Lanes :=
  w.filled &&& (if g.pn then ~~~ w.pred g.pr.toNat else w.pred g.pr.toNat)

/-- Whether a scalar word is on (R52). -/
def Warp.scalarOn (w : Warp) (g : Guard) : Bool := w.spred g.pr.toNat != g.pn

/-- A predicate written in the lanes of a mask; other lanes keep it and P7 discards the write (R52). -/
def Warp.putPred (w : Warp) (n : Nat) (act val : Lanes) : Warp :=
  if n = 7 then w else { w with p := Map.putC 0 w.p n ((w.p.getD n 0 &&& ~~~ act) ||| (val &&& act)) }

/-- A scalar predicate written. -/
def Warp.putSp (w : Warp) (n : Nat) (b : Bool) : Warp :=
  if n < 4 then { w with sp := if b then w.sp ||| (1#4 <<< n) else w.sp &&& ~~~ (1#4 <<< n) } else w

/-- Lanes poisoned (R42); empty lanes never are. -/
def Warp.poison (w : Warp) (m : Lanes) : Warp := { w with pz := w.pz ||| (m &&& w.filled) }

/-- The filled lanes that are poisoned. -/
def Warp.poisoned (w : Warp) : Lanes := w.pz &&& w.filled

/-- An integer condition (R127). -/
def intCond (t : Ty) (c a b : Nat) : Bool :=
  match c with
  | 0 => t.int a == t.int b
  | 1 => t.int a != t.int b
  | 2 => t.int a < t.int b
  | 3 => t.int a ≤ t.int b
  | 4 => t.int b < t.int a
  | 5 => t.int b ≤ t.int a
  | 6 => a &&& b != 0
  | _ => a &&& b == 0

/-- A floating condition (R135). -/
def fltCond (c : Nat) (o : Option Ordering) : Bool :=
  match c, o with
  | 0, some x => x == .eq
  | 1, some x => x != .eq
  | 2, some x => x == .lt
  | 3, some x => x != .gt
  | 4, some x => x == .gt
  | 5, some x => x != .lt
  | 6, some _ => true
  | 7, some _ => false
  | 8, some x => x == .eq
  | 9, some x => x != .eq
  | 10, some x => x == .lt
  | 11, some x => x != .gt
  | 12, some x => x == .gt
  | 13, some x => x != .lt
  | 1, none | 7, none | 8, none | 10, none | 11, none | 12, none | 13, none => true
  | _, _ => false

end Sys2Proof.Machine
end

