-- ==== Sys2Proof/Machine/Float.lean ====
section
/-! DEFINITION. The floating-point words (R132-R138). -/

namespace Sys2Proof

/-- A format's bits with a subnormal made a zero of its sign, where `on` (R24, R25); binary64 is never changed. -/
def FFmt.flush (f : FFmt) (on : Bool) (raw : Nat) : Nat :=
  if on && f.eb ≠ 11 && bitsOf raw (f.width - 2) f.mb = 0 then f.withSign (bitOf raw (f.width - 1)) 0 else raw

/-- Whether any element of a result is NaN. -/
def Ty.anyNaN (t : Ty) (x : Nat) : Bool := (List.range t.count).any fun k => t.ffmt.isNaN (t.elem x k)

/-- Element `k` of an operand as a number (R132). -/
def Ty.fv (t : Ty) (daz : Bool) (x k : Nat) : FV := t.ffmt.read daz (t.elem x k)

/-- Whether number `a` ranks below number `b`, −0 below +0 (R134). -/
def FV.below (a b : FV) : Bool :=
  match a.cmp b with
  | some .lt => true
  | some .eq => a.neg && !b.neg
  | _ => false

/-- The lesser (or greater) of two elements (R134): operand bits, a NaN ignored unless `nan`. -/
def FFmt.pick (f : FFmt) (greater nan daz ftz : Bool) (a b : Nat) : Nat :=
  let x := f.read daz a
  let y := f.read daz b
  let xb := f.flush (daz || ftz) a
  let yb := f.flush (daz || ftz) b
  if x.isNaN && y.isNaN then f.nanBits
  else if x.isNaN then (if nan then f.nanBits else yb)
  else if y.isNaN then (if nan then f.nanBits else xb)
  else if (if greater then x.below y else y.below x) then yb else xb

/-- The class bit of a code (R136). -/
def FFmt.classOf (f : FFmt) (raw : Nat) : Nat :=
  let s := bitOf raw (f.width - 1)
  let e := bitsOf raw (f.width - 2) f.mb
  let m := raw % 2 ^ f.mb
  if e = 2 ^ f.eb - 1 then
    (if m = 0 then (if s then 0 else 7) else if bitOf m (f.mb - 1) then 9 else 8)
  else if e = 0 then (if m = 0 then (if s then 3 else 4) else if s then 2 else 5)
  else if s then 1 else 6

/-- The integral value of a number under a rounding mode (R137). -/
def FV.integral (mode : Rnd) (q : Word) : FV → FV
  | .fin s m e => .fin s (roundAt mode s q (.rat m 1 e) 0) 0
  | x => x

namespace Machine

/-- A floating-point result written: destinations, last-result names, and poison of a NaN under NANP (R132). -/
def Warp.putFlt (w : Warp) (c : Ctl) (d : Spec) (t : Ty) (act : Lanes) (f : Nat → Nat) : Warp :=
  let w1 := w.putResult c d t.regs act f
  if fmodeNanp w.fmode then w1.poison (maskOf fun l => act.getLsbD l && t.anyNaN (f l)) else w1

/-- The elements of a result in one lane: each number rounded once to the type (R132). -/
def Warp.roundElems (w : Warp) (t : Ty) (mode : Rnd) (l : Nat) (f : Nat → FV) : Nat :=
  t.join fun k => t.ffmt.roundFV mode (fmodeFtz w.fmode) (w.srq l k) (f k)

/-- A two-source arithmetic word. -/
def Warp.flt2 (w : Warp) (x : Alu2) (op : Rnd → FV → FV → FV) : Warp :=
  let mode := rndOf w.fmode x.rnd
  let daz := fmodeDaz w.fmode
  w.putFlt x.ctl x.d x.ty (w.active x.g) fun l =>
    let a := w.src x.ty x.a l
    let b := w.operand x.ty x.b l 1
    w.roundElems x.ty mode l fun k => op mode (x.ty.fv daz a k) (x.ty.fv daz b k)

/-- A minimum or maximum word. -/
def Warp.fltPick (w : Warp) (x : Alu2) (greater : Bool) : Warp :=
  w.putFlt x.ctl x.d x.ty (w.active x.g) fun l =>
    let a := w.src x.ty x.a l
    let b := w.operand x.ty x.b l 1
    x.ty.join fun k => x.ty.ffmt.pick greater x.xf (fmodeDaz w.fmode) (fmodeFtz w.fmode) (x.ty.elem a k) (x.ty.elem b k)

/-- The exact sum of products and an addend (R138). -/
def dotSum (mode : Rnd) (c : FV) (ps : List (FV × FV)) : FV :=
  match ps with
  | [] => c
  | (a, b) :: rest => (rest.foldl (fun t p => FV.add mode t (FV.mul p.1 p.2)) (FV.mul a b)).add mode c

/-- The descriptor FDn of a context (R30, R31). -/
def State.fdWord (s : State) (n : Nat) : Word := (s.d.ctx s.w.ctx).fd.getD n fdDefault

/-- `FADD` (R133). -/
def execFadd (x : Alu2) (s : State) : Host.Outcome State Fault Refusal :=
  s.wordOn (.fadd x) fun w => w.flt2 x FV.add

/-- `FSUB`. -/
def execFsub (x : Alu2) (s : State) : Host.Outcome State Fault Refusal :=
  s.wordOn (.fsub x) fun w => w.flt2 x fun m a b => FV.add m a b.negate

/-- `FMUL`. -/
def execFmul (x : Alu2) (s : State) : Host.Outcome State Fault Refusal :=
  s.wordOn (.fmul x) fun w => w.flt2 x fun _ a b => FV.mul a b

/-- `FFMA`: one rounding of `a × b + c`. -/
def execFfma (x : Alu3) (s : State) : Host.Outcome State Fault Refusal :=
  s.wordOn (.ffma x) fun w =>
    let mode := rndOf w.fmode x.rnd
    let daz := fmodeDaz w.fmode
    w.putFlt x.ctl x.d x.ty (w.active x.g) fun l =>
      let a := w.src x.ty x.a l
      let b := w.src x.ty x.b l 1
      let c := w.src x.ty x.c l 2
      w.roundElems x.ty mode l fun k => FV.add mode (FV.mul (x.ty.fv daz a k) (x.ty.fv daz b k)) (x.ty.fv daz c k)

/-- `FMIN` (R134). -/
def execFmin (x : Alu2) (s : State) : Host.Outcome State Fault Refusal :=
  s.wordOn (.fmin x) fun w => w.fltPick x false

/-- `FMAX`. -/
def execFmax (x : Alu2) (s : State) : Host.Outcome State Fault Refusal :=
  s.wordOn (.fmax x) fun w => w.fltPick x true

/-- `FSETP` (R135). -/
def execFsetp (x : CmpW) (s : State) : Host.Outcome State Fault Refusal :=
  s.wordOn (.fsetp x) fun w =>
    let daz := fmodeDaz w.fmode
    w.putPred x.pd.toNat (w.active x.g) (maskOf fun l =>
      fltCond x.cond.toNat (FV.cmp (x.ty.fv daz (w.src x.ty x.a l) 0) (x.ty.fv daz (w.operand x.ty x.b l 1) 0)))

/-- `FCLASS` (R136): read without DAZ, never poisons. -/
def execFclass (x : Alu2) (s : State) : Host.Outcome State Fault Refusal :=
  s.wordOn (.fclass x) fun w =>
    w.putResult x.ctl x.d 1 (w.active x.g) fun l => 2 ^ x.ty.ffmt.classOf (x.ty.elem (w.src x.ty x.a l) 0)

/-- `FRND` (R137). -/
def execFrnd (x : Alu2) (s : State) : Host.Outcome State Fault Refusal :=
  s.wordOn (.frnd x) fun w =>
    let mode := rndOf w.fmode x.rnd
    w.putFlt x.ctl x.d x.ty (w.active x.g) fun l =>
      let a := w.src x.ty x.a l
      w.roundElems x.ty mode l fun k => (x.ty.fv (fmodeDaz w.fmode) a k).integral mode (w.srq l k)

/-- `FSCALE` (R137): the count is B as a signed 32-bit integer (DEDUCED, log entry 49). -/
def execFscale (x : Alu2) (s : State) : Host.Outcome State Fault Refusal :=
  s.wordOn (.fscale x) fun w =>
    let mode := rndOf w.fmode x.rnd
    w.putFlt x.ctl x.d x.ty (w.active x.g) fun l =>
      let a := w.src x.ty x.a l
      w.roundElems x.ty mode l fun k => (x.ty.fv (fmodeDaz w.fmode) a k).scale (w.opd32 x.b l 1).toInt

/-- `FDOT2` (R138). -/
def execFdot2 (x : Alu3) (s : State) : Host.Outcome State Fault Refusal :=
  s.wordOn (.fdot2 x) fun w =>
    let mode := rndOf w.fmode x.rnd
    let daz := fmodeDaz w.fmode
    w.putFlt x.ctl x.d .f32 (w.active x.g) fun l =>
      let a := w.src x.ty x.a l
      let b := w.src x.ty x.b l 1
      let c := Ty.fv .f32 daz (w.src .f32 x.c l 2) 0
      w.roundElems .f32 mode l fun _ => dotSum mode c ((List.range 2).map fun k => (x.ty.fv daz a k, x.ty.fv daz b k))

/-- `FDOT4` (R138): elements in byte slots; a special code poisons the lane; a descriptor of width 4 or less raises
code 0x06. An inline immediate in A or B is four codes, its 32 sign-extended bits (DEDUCED, log entry 94). -/
def execFdot4 (x : Alu3) (s : State) : Host.Outcome State Fault Refusal :=
  s.checked (.fdot4 x) fun t =>
    let f := nfmt (t.fdWord x.fn.toNat)
    if f.width ≤ 4 then t.raiseAll 0x06 (BitVec.ofNat 32 x.fn.toNat)
    else
      let go := fun (w : Warp) =>
        let mode := rndOf w.fmode x.rnd
        let act := w.active x.g
        let code := fun y p l k => f.read ((w.read32 y l p).toNat / 2 ^ (8 * k))
        let out := w.putFlt x.ctl x.d .f32 act fun l =>
          let c := Ty.fv .f32 (fmodeDaz w.fmode) (w.src .f32 x.c l 2) 0
          w.roundElems .f32 mode l fun _ => dotSum mode c ((List.range 4).map fun k => ((code x.a 0 l k).1, (code x.b 1 l k).1))
        out.poison (maskOf fun l => act.getLsbD l && (List.range 4).any fun k => (code x.a 0 l k).2 || (code x.b 1 l k).2)
      (t.mapWarp go).advance (.fdot4 x)

end Machine

end Sys2Proof
end

