-- ==== Sys2Proof/Machine/Convert.lean ====
section
/-! DEFINITION. The conversion words (R139-R144). -/

namespace Sys2Proof

/-- The code in slot `p` of a register (R139). -/
def NFmt.slotCode (f : NFmt) (x p : Nat) : Nat := x / 2 ^ (f.slot * (p % f.cap)) % 2 ^ f.width

/-- A register with the code of slot `p` written and its other slots kept (R139). -/
def NFmt.putSlot (f : NFmt) (x p code : Nat) : Nat :=
  let at_ := f.slot * (p % f.cap)
  let low := x % 2 ^ at_
  let high := x / 2 ^ (at_ + f.slot)
  low + (code % 2 ^ f.width) * 2 ^ at_ + high * 2 ^ (at_ + f.slot)

/-- Codes of the elements written into slots `p` and on of a register (DEDUCED, log entry 51). -/
def NFmt.putCodes (f : NFmt) (x p n : Nat) (c : Nat → NCode) : Nat :=
  (List.range n).foldl (fun y k => f.putSlot y (p + k) (c k).code) x

namespace Machine

/-- A conversion's source elements in a lane and whether reading each poisons the lane (R141). -/
structure CvtSrc where
  num : Nat → FV
  bad : Nat → Bool

/-- A narrow source: the codes of slots `p` and `p + 1`, times the scale. -/
def narrowSrc (f : NFmt) (a p scale : Nat) : CvtSrc :=
  { num := fun k => (f.read (f.slotCode a (p + k))).1.mul (f.skind.factor scale)
    bad := fun k => (f.read (f.slotCode a (p + k))).2 }

/-- A wide source. -/
def wideSrc (t : Ty) (daz : Bool) (a : Nat) : CvtSrc := { num := fun k => t.fv daz a k, bad := fun _ => false }

/-- A narrow result in each active lane, with the poison of its writes (R42, R141, R142); under
`.OXn` the register whose slots are kept is On, which stands in the place of D (R74; DEDUCED, log entry 51). -/
def Warp.putNarrow (w : Warp) (c : Ctl) (d : Spec) (f : NFmt) (act : Lanes) (n : Nat) (p : Nat → Nat)
    (code : Nat → Nat → NCode) (bad : Nat → Bool) : Warp :=
  let old := if c.nodst then Spec.o c.oidx else d
  let w1 := w.putResult c d 1 act fun l => f.putCodes (w.read32 old l 3).toNat (p l) n (code l)
  w1.poison (maskOf fun l => act.getLsbD l && (bad l || (List.range n).any fun k =>
    (code l k).poison || (fmodeNanp w.fmode && (code l k).isNaN)))

/-- The source of an `FCVT` in a lane (R140, R141); codes in an inline immediate are its 32 sign-extended bits (DEDUCED,
log entry 94). -/
def State.fcvtSrc (s : State) (w : Warp) (x : Alu3) (l : Nat) : CvtSrc :=
  if x.fn = 15 then
    narrowSrc (nfmt (s.fdWord (mod2Src x.mod2))) (w.read32 x.a l).toNat (w.read32 x.b l 1).toNat ((w.read32 x.c l 2).toNat % 256)
  else
    let t := (fltOfFn x.fn).getD .f32
    wideSrc t (fmodeDaz w.fmode) (w.src t x.a l)

/-- Elements a conversion handles: two where either side is packed. -/
def fcvtCount (x : Alu3) : Nat :=
  if (!x.xf && x.ty.fltPacked) || x.fn = 8 || x.fn = 9 then 2 else 1

/-- `FCVT` (R141). -/
def execFcvt (x : Alu3) (s : State) : Host.Outcome State Fault Refusal :=
  s.checked (.fcvt x) fun t =>
    let n := fcvtCount x
    let go := fun (w : Warp) =>
      let mode := rndOf w.fmode x.rnd
      let act := w.active x.g
      let srcBad := fun l => (List.range n).any fun k => (t.fcvtSrc w x l).bad k
      if x.xf then
        let f := nfmt (t.fdWord (mod2Dst x.mod2))
        let scale := fun l => f.skind.factor ((w.read32 x.c l 2).toNat / (if x.fn = 15 then 256 else 1) % 256)
        w.putNarrow x.ctl x.d f act n (fun l => (w.read32 x.b l 1).toNat)
          (fun l k => f.writeQuot mode (fmodeWx w.fmode) (fmodeSat w.fmode) (w.srq l k) ((t.fcvtSrc w x l).num k) (scale l)) srcBad
      else
        (w.putFlt x.ctl x.d x.ty act fun l => w.roundElems x.ty mode l (t.fcvtSrc w x l).num).poison
          (maskOf fun l => act.getLsbD l && srcBad l)
    (t.mapWarp go).advance (.fcvt x)

/-- `ICVT` (R143): integer to float, or float to integer with saturation; a NaN gives 0 and poisons the lane. -/
def execIcvt (x : Alu3) (s : State) : Host.Outcome State Fault Refusal :=
  s.wordOn (.icvt x) fun w =>
    let src := (icvtOfFn x.fn).getD .f32
    let mode := rndOf w.fmode x.rnd
    let act := w.active x.g
    if x.ty.intScalar then
      let a := fun l => src.fv (fmodeDaz w.fmode) (w.src src x.a l) 0
      (w.putResult x.ctl x.d x.ty.regs act fun l =>
        wrapInt x.ty.width ((a l).toIntSat mode (w.srq l 0) x.ty.minInt x.ty.maxInt)).poison
        (maskOf fun l => act.getLsbD l && (a l).isNaN)
    else
      w.putFlt x.ctl x.d x.ty act fun l =>
        w.roundElems x.ty mode l fun _ => FV.ofInt (src.int (w.src src x.a l))

/-- `CVTN` (R144): a block scale from a block magnitude; the scale code, or elements divided by the scale. -/
def execCvtn (x : Alu3) (s : State) : Host.Outcome State Fault Refusal :=
  s.checked (.cvtn x) fun t =>
    let f := nfmt (t.fdWord (mod2Dst x.mod2))
    if f.style = .int || f.skind = .none then t.raiseAll 0x06 (BitVec.ofNat 32 (mod2Dst x.mod2))
    else
      let go := fun (w : Warp) =>
        let act := w.active x.g
        let mag := fun l => (Ty.fv .f32 (fmodeDaz w.fmode) (w.src .f32 x.c l 2) 0).abs
        let bad := fun l => (f.scaleCode (mag l)).2
        if x.fn = 1 then
          (w.putResult x.ctl x.d 1 act fun l => (f.scaleCode (mag l)).1).poison (maskOf fun l => act.getLsbD l && bad l)
        else
          w.putNarrow x.ctl x.d f act x.ty.count (fun l => (w.read32 x.b l 1).toNat)
            (fun l k => f.writeQuot (rndOf w.fmode x.rnd) (fmodeWx w.fmode) (fmodeSat w.fmode) (w.srq l k)
              (x.ty.fv (fmodeDaz w.fmode) (w.src x.ty x.a l) k) (f.skind.value (f.scaleCode (mag l)).1)) bad
      (t.mapWarp go).advance (.cvtn x)

end Machine

end Sys2Proof
end

