-- ==== Sys2Proof/Machine/Rev.lean ====
section
/-! DEFINITION. Revisions: which task's view an access reaches, copies on write, and the pool of pages (R343-R347). -/

namespace Sys2Proof.Machine

/-- The task number that no task has: an access of it reaches the root revision (R343; DEDUCED, log entry 15). -/
def rootTask : Nat := 256

/-- Whether an address lies in a region. -/
def Region.has (r : Region) (va : Nat) : Bool := r.base ≤ va && va < r.base + r.len

/-- Whether a revision holds the region at an address. -/
def Revision.holds (r : Revision) (va : Nat) : Bool := r.regions.any fun p => p.2.has va

/-- Whether a task reads and writes an address in a revision of its own (R343). -/
def Ctx.ownsView (c : Ctx) (task va : Nat) : Bool :=
  match c.revs.find task with
  | some r => r.holds va
  | none => false

/-- The task whose revision a child forked from at an address; none for the root revision (R343). -/
def Ctx.viewParent (c : Ctx) (task va : Nat) : Option Nat :=
  match c.tasks.find task with
  | some t => match t.child with
    | some k => if c.ownsView k.parent va then some k.parent else none
    | none => none
  | none => none

/-- The page of the retained ancestor of a child at a granule; none where it still is the root's memory (R344). -/
def Ctx.ancPage (c : Ctx) (va : Nat) : Nat → Nat → Option Nat
  | 0, _ => none
  | fuel + 1, task =>
    match c.revs.find task with
    | none => none
    | some r =>
      let up := fun (own : Bool) => match c.viewParent task va with
        | none => none
        | some p =>
          match (if own then (c.revs.find p).bind (fun k => k.own.find (va / 4096)) else none) with
          | some pg => some pg
          | none => Ctx.ancPage c va fuel p
      match r.anc.find (va / 4096) with
      | some 1 => up false
      | some pg => some pg
      | none => up true

/-- The page of a task's own view at a granule: its copy, else its ancestor's (R344). -/
def Ctx.viewPage (c : Ctx) (task va : Nat) : Option Nat :=
  if c.ownsView task va then
    (match (c.revs.find task).bind (fun k => k.own.find (va / 4096)) with
      | some pg => some pg
      | none => c.ancPage va 16 task)
  else none

/-- The physical location of an address in a task's view: `pa` is where the page tables put it (R265, R343). -/
def State.locate (s : State) (c task va pa : Nat) : Nat :=
  match (s.d.ctx c).viewPage task va with
  | some pg => pg + va % 4096
  | none => pa

/-- The children whose retained ancestor still shares a granule with a view (R344). -/
def Ctx.sharers (c : Ctx) (view : Option Nat) (va : Nat) : List Nat :=
  (c.revs.filter fun p => p.2.holds va && c.viewParent p.1 va == view && (p.2.anc.find (va / 4096)).isNone).map Prod.fst

/-- The pool pages a context's revisions use (R344, R347). -/
def Ctx.pagesUsed (c : Ctx) : List Nat :=
  (c.revs.flatMap fun p => p.2.record :: ((p.2.own.map Prod.snd) ++ ((p.2.anc.map Prod.snd).filter fun a => a ≠ 1))).eraseDups

/-- The pages of a pool. -/
def poolPages (pool : List (Nat × Nat)) : Nat := (pool.map Prod.snd).foldl (· + ·) 0

/-- The lowest page of a chunk from `k` on that is not in use: `n` pages are left. -/
def freeInChunk (used : List Nat) (base : Nat) : Nat → Nat → Option Nat
  | 0, _ => none
  | n + 1, k => if used.contains (base + 4096 * k) then freeInChunk used base n (k + 1) else some (base + 4096 * k)

/-- A free page of the pool (R344). -/
def Ctx.freePage (c : Ctx) : Option Nat :=
  let used := c.pagesUsed
  c.pool.findSome? fun p => freeInChunk used p.1 p.2 0

/-- Pages of the pool that are free. -/
def Ctx.pagesFree (c : Ctx) : Nat := poolPages c.pool - c.pagesUsed.length

/-- A granule copied to a page, its error marks with it (R344, R393). -/
def PMem.copyGranule (m : PMem) (src dst : Nat) : PMem :=
  let m1 := m.write dst (m.bytes src 4096)
  ((List.range 64).filter fun k => (m.marks.find (src / 64 + k)).isSome).foldl (fun t k => t.setMark (dst / 64 + k)) m1

/-- Whether a write at an address needs a page of the pool first (R344). -/
def Ctx.needsPage (c : Ctx) (task va : Nat) : Bool :=
  if c.ownsView task va then
    (((c.revs.find task).bind fun k => k.own.find (va / 4096)).isNone) || !(c.sharers (some task) va).isEmpty
  else !(c.sharers none va).isEmpty

/-- The ancestors of some children made to share a page, or their parent's ancestor (1), at a granule. -/
def Ctx.shareWith (c : Ctx) (kids : List Nat) (gran page : Nat) : Ctx :=
  { c with revs := c.revs.map fun p => if kids.contains p.1 then (p.1, { p.2 with anc := p.2.anc.put gran page }) else p }

/-- The exact accumulators of a page moved with the revision's copy of it (R282). -/
def PMem.moveAccs (m : PMem) (src : Option Nat) (dst : Nat) : PMem :=
  match src with
  | none => m
  | some o => { m with accs := m.accs.map fun x => if o ≤ x.pa && x.pa < o + 4096 then { x with pa := x.pa - o + dst } else x }

/-- A page of the pool taken: no L1 holds a line of what it was before (R260, R344). -/
def State.takePage (s : State) (pg : Nat) : State :=
  { s with d := { s.d with cores := s.d.cores.map fun p =>
      if p.2.l1.isEmpty then p else (p.1, { p.2 with l1 := p.2.l1.filter fun q => q.1 / 64 ≠ pg / 4096 }) } }

/-- Whether any revision of a region at an address is outstanding (R341, R342). -/
def Ctx.revised (c : Ctx) (va : Nat) : Bool := c.revs.any fun p => p.2.holds va

/-- Whether a write meets a page of the host in a region of which a revision is outstanding (R342). -/
def Ctx.hostBarred (c : Ctx) (va pa : Nat) : Bool := isHost pa && c.revised va

/-- The copy that a first write makes before it (R344); none where the pool has no free page, and none for a write that
R342 forbids. -/
def State.cow (s : State) (c task va pa : Nat) : Option State :=
  let x := s.d.ctx c
  if x.hostBarred va pa then none
  else if !x.needsPage task va then some s
  else match x.freePage with
    | none => none
    | some pg =>
      let gran := va / 4096
      if x.ownsView task va then
        let kids := x.sharers (some task) va
        let old := (x.revs.find task).bind fun k => k.own.find gran
        let src := s.locate c task va pa / 4096 * 4096
        let y := (x.shareWith kids gran (old.getD 1))
        let z := { y with revs := y.revs.map fun p => if p.1 = task then (p.1, { p.2 with own := p.2.own.put gran pg }) else p }
        some { s.takePage pg with d := (s.takePage pg).d.setCtx c z, mem := (s.mem.copyGranule src pg).moveAccs old pg }
      else
        let kids := x.sharers none va
        some { s.takePage pg with d := (s.takePage pg).d.setCtx c (x.shareWith kids gran pg), mem := s.mem.copyGranule (pa / 4096 * 4096) pg }

/-- The dirty bits of the sectors a write of a task's own revision touches (R344). -/
def State.markDirty (s : State) (c task va n : Nat) : State :=
  let x := s.d.ctx c
  if x.ownsView task va then
    let bits : BitVec 128 := (List.range ((va % 4096 + n + 31) / 32 - va % 4096 / 32)).foldl (fun b k => b ||| (1#128 <<< (va % 4096 / 32 + k))) 0
    s.mapCtx c fun y => { y with revs := y.revs.map fun p =>
      if p.1 = task then (p.1, { p.2 with dirty := p.2.dirty.put (va / 4096) (p.2.dirty.getD (va / 4096) 0 ||| bits) }) else p }
  else s

/-- Bytes of one granule written for a task by its core or its unit, in the task's view: nothing where they do not translate
for writing or R342 refuses them; none where a page of the pool is lacking (R343, R344). A copy of the line that the core's own
L1 holds stays as it is (R167, R260; DESIGN CHOICE, log entry 102). -/
def State.writePart (s : State) (c task va : Nat) (bs : List Byte) : Option State :=
  match s.engineAddr c va true with
  | none => some s
  | some pa =>
    if (s.d.ctx c).hostBarred va pa then some s
    else (s.cow c task va pa).map fun t =>
      let u := t.markDirty c task va bs.length
      u.putMem (u.locate c task va pa) bs

/-- Bytes, 4,096 at most, written for a task by its core or its unit. -/
def State.writeFor (s : State) (c task va : Nat) (bs : List Byte) : Option State :=
  let n := 4096 - va % 4096
  if bs.length ≤ n then s.writePart c task va bs
  else (s.writePart c task va (bs.take n)).bind fun t => t.writePart c task (va + n) (bs.drop n)

end Sys2Proof.Machine
end

