-- ==== Sys2Proof/Machine/Access.lean ====
section
/-! DEFINITION. Reads and writes at their coherence points: core memory, the L1, memory with its revisions, and the
addresses of loop nests (R43, R161, R167-R171, R187, R252-R260, R265, R268, R282, R343, R344). -/

namespace Sys2Proof.Machine

/-! ### Core memory (R43, R228, R252) -/

/-- The byte address at which a share's scratch begins: the frame area lies below it (R227). -/
def Ctx.scratchAt (c : Ctx) : Nat := c.frameWords * 4

/-- A byte of core memory. -/
def Share.coreByte (x : Share) (b : Nat) : Byte := BitVec.ofNat 8 ((x.words.getD (b / 4) 0).toNat / 2 ^ (8 * (b % 4)))

/-- Bytes of core memory. -/
def Share.coreBytes (x : Share) (b : Nat) : Nat → List Byte
  | 0 => []
  | n + 1 => x.coreByte b :: x.coreBytes (b + 1) n

/-- A word with one byte replaced. -/
def putByte (w : Word) (k : Nat) (v : Byte) : Word :=
  BitVec.ofNat 32 (w.toNat - w.toNat / 2 ^ (8 * k) % 256 * 2 ^ (8 * k) + v.toNat * 2 ^ (8 * k))

/-- Bytes written into core memory; the words they touch take a mark, or lose one (R43). -/
def Share.putCore (x : Share) (b : Nat) (bad : Bool) : List Byte → Share
  | [] => x
  | v :: vs =>
    let y := { x with
      words := Map.putC 0 x.words (b / 4) (putByte (x.words.getD (b / 4) 0) (b % 4) v)
      marks := if bad then x.marks.put (b / 4) false else x.marks.del (b / 4) }
    y.putCore (b + 1) bad vs

/-- The words a range of core memory touches. -/
def coreWords (b n : Nat) : List Nat := (List.range ((b + n + 3) / 4 - b / 4)).map fun k => b / 4 + k

/-- Whether a range of core memory meets a mark. -/
def Share.coreBad (x : Share) (b n : Nat) : Bool := (coreWords b n).any fun k => (x.marks.find k).isSome

/-- Whether a range of core memory meets a mark that an error set (R392). -/
def Share.coreErr (x : Share) (b n : Nat) : Bool := (coreWords b n).any fun k => x.marks.getD k false

/-! ### The L1 of a core (R167, R260) -/

/-- A list of bytes with some replaced from `k` on. -/
def putBytes (line : List Byte) (k : Nat) : List Byte → List Byte
  | [] => line
  | b :: bs => putBytes (line.set k b) (k + 1) bs

/-- A write of the core seen by the lines its L1 holds (DEDUCED, log entry 80). -/
def Core.seeWrite (x : Core) (pa : Nat) (bs : List Byte) : Core :=
  { x with l1 := x.l1.map fun p =>
      (p.1, ((List.range bs.length).filter fun k => (pa + k) / 64 = p.1).foldl (fun l k =>
        l.set ((pa + k) % 64) (bs.getD k 0)) p.2) }

/-- Bytes written to memory by core `g` through the home L2: its own L1 is updated (R167). -/
def State.storeBytes (s : State) (g pa : Nat) (bs : List Byte) : State :=
  let s1 : State := { s with mem := s.mem.write pa bs }
  if (s.d.core g).l1.isEmpty then s1 else s1.mapCore g fun x => x.seeWrite pa bs

/-- The lines that an L1 of 256 KiB holds (R13, R15). -/
def l1Lines : Nat := 4096

/-- Bytes of one line read by core `g` through its L1 (R260): a line it holds, else the home L2's, which fills it unless
an error mark stands on it or the L1 is full, where another line must leave first (R13; DEDUCED, log entry 80). -/
def State.loadL1 (s : State) (g pa n : Nat) : Nat × Bool × State :=
  match (s.d.core g).l1.find (pa / 64) with
  | some line => (ofBytesLE ((line.drop (pa % 64)).take n), false, s)
  | none =>
    if s.mem.marked pa n then (s.mem.nat pa n, true, s)
    else if l1Lines ≤ (s.d.core g).l1.length then (s.mem.nat pa n, false, s)
    else (s.mem.nat pa n, false, s.mapCore g fun x => { x with l1 := x.l1.put (pa / 64) (s.mem.bytes (pa / 64 * 64) 64) })

/-! ### Places -/

/-- Whether two places share a byte. -/
def Place.meets (a : Place) (n : Nat) (b : Place) (m : Nat) : Bool :=
  match a, b with
  | .phys x, .phys y => x < y + m && y < x + n
  | .core g x, .core h y => g == h && x < y + m && y < x + n
  | _, _ => false

/-- Where a piece lies now: its task's own revision is looked up at the access (R265, R343). -/
def State.placeOf (s : State) (o : MemOp) (p : Piece) : Place :=
  match p.place with
  | .phys pa => .phys (s.locate o.ctx o.task p.va pa)
  | x => x

/-- What a read finds: its value, whether the data carried a mark, and the structure that a record of the read names where an
error set the mark, 0 where none did (R392). -/
structure Got where
  val : Nat
  bad : Bool
  code : Nat
  state : State

/-- A read at a place. -/
def State.readPlace (s : State) (c g : Nat) (l1 : Bool) (at_ : Place) (n : Nat) : Got :=
  match at_ with
  | .core h b =>
    let x := s.d.share c h
    { val := ofBytesLE (x.coreBytes b n), bad := x.coreBad b n, code := if x.coreErr b n then 0x04 else 0, state := s }
  | .phys pa =>
    if l1 then
      let r := s.loadL1 g pa n
      { val := r.1, bad := r.2.1, code := if r.2.1 then s.mem.errCode pa n else 0, state := r.2.2 }
    else { val := s.mem.nat pa n, bad := s.mem.marked pa n, code := s.mem.errCode pa n, state := s }

/-- A place read whose mark the reader meets (R392). -/
def State.meetPlace (s : State) (at_ : Place) (n : Nat) : State :=
  match at_ with
  | .core _ _ => s
  | .phys pa => s.meetMark pa n

/-! ### Exact accumulators (R282) -/

/-- How many accumulators of a die an element takes (R282). -/
def accWeight (size : Nat) : Nat := if size = 8 then 8 else 1

/-- The format of a reduction's element. -/
def redFmt (size : Nat) : FFmt := if size = 8 then fmt64 else fmt32

/-- The sum an accumulator holds. -/
def ExactAcc.sum (x : ExactAcc) : FV :=
  match x.special with
  | 0 => .fin x.neg x.m x.e
  | 1 => .inf x.neg
  | _ => .nan

/-- An accumulator holding a sum. -/
def accOf (pa size age : Nat) (v : FV) : ExactAcc :=
  match v with
  | .nan => { pa := pa, size := size, special := 2, neg := false, m := 0, e := 0, age := age }
  | .inf s => { pa := pa, size := size, special := 1, neg := s, m := 0, e := 0, age := age }
  | .fin s m e => { pa := pa, size := size, special := 0, neg := s, m := m, e := e, age := age }

/-- The oldest accumulators of a die ended until `need` more fit; `fuel` at most. -/
def dropOldest (iw die need : Nat) : Nat → List ExactAcc → List ExactAcc
  | 0, xs => xs
  | fuel + 1, xs =>
    let mine := xs.filter fun x => homeDie iw x.pa = die
    if (mine.map fun x => accWeight x.size).foldl (· + ·) 0 + need ≤ 65536 then xs
    else match mine.map ExactAcc.age with
      | [] => xs
      | a :: as =>
        let old := as.foldl Nat.min a
        dropOldest iw die need fuel (xs.filter fun x => !(homeDie iw x.pa = die && x.age = old))

/-- An addition into an element's exact accumulator, begun where it has none (R282). -/
def State.exactAdd (s : State) (g pa size : Nat) (v : FV) : State :=
  let f := redFmt size
  let have_ := s.mem.accs.find? fun x => x.pa = pa && x.size = size
  let start := match have_ with
    | some x => x.sum
    | none => f.read false (s.mem.nat pa size)
  let sum := start.add .rne v
  let age := match have_ with
    | some x => x.age
    | none => s.d.nextId
  let others := s.mem.accs.filter fun x => !x.meets pa size
  let kept := dropOldest s.d.iw (homeDie s.d.iw pa) (accWeight size) 65536 others
  let s1 := s.fresh.2.modifyBytes g pa (bytesLE size (f.roundFV .rne false 0 sum))
  { s1 with mem := { s1.mem with accs := kept ++ [accOf pa size age sum] } }

/-! ### Atomic operations (R170, R171) -/

/-- The value an atomic leaves: `op` of R170 on the old value `m`, the data `c` and the compare value `k`. -/
def atomResult (op size m c k : Nat) : Nat :=
  let w := 8 * size
  match op with
  | 0 => (m + c) % 2 ^ w
  | 1 => m &&& c
  | 2 => m ||| c
  | 3 => m ^^^ c
  | 4 => if sextInt w m ≤ sextInt w c then m else c
  | 5 => if sextInt w m < sextInt w c then c else m
  | 6 => if m ≤ c then m else c
  | 7 => if m < c then c else m
  | 8 => c
  | 9 => if m = k then c else m
  | _ => fmt32.roundFV .rne false 0 ((fmt32.read false m).add .rne (fmt32.read false c))

/-- The sum a reduction addition leaves: wrapping, or rounded RNE with a canonical NaN (R169). -/
def redSum (flt : Bool) (size m v : Nat) : Nat :=
  if flt then (redFmt size).roundFV .rne false 0 (((redFmt size).read false m).add .rne ((redFmt size).read false v))
  else (m + v) % 2 ^ (8 * size)

/-- The sum of a group's values, taken in increasing lane order (R169). -/
def groupSum (flt : Bool) (size : Nat) : List Nat → Nat
  | [] => 0
  | v :: vs => vs.foldl (redSum flt size) v

/-! ### Loop nests (R186, R187) -/

/-- The element sizes of the loop types (R186). -/
def loopSize (ty : Nat) : Nat := if ty = 2 || ty = 3 || ty = 5 then 8 else if ty = 6 || ty = 7 then 2 else 4

/-- The operation of a nest. -/
def LoopOp.op (o : LoopOp) : Nat := bitsOf o.control.toNat 3 0

/-- The element size of a nest. -/
def LoopOp.esize (o : LoopOp) : Nat := loopSize (bitsOf o.control.toNat 11 8)

/-- The indices of an iteration, level 0 first. -/
def loopIdx : List Nat → Nat → List Nat
  | [], _ => []
  | e :: es, n => n % e :: loopIdx es (n / e)

/-- Operand `j`'s byte offset from its base at iteration `n`. -/
def LoopOp.offset (o : LoopOp) (j n : Nat) : Int :=
  (((loopIdx o.ext n).zip (o.strides.getD j [])).map fun p => ((p.1 : Nat) : Int) * p.2).foldl (· + ·) 0 * ((o.esize : Nat) : Int)

/-- Whether operand `j` lies in own scratch. -/
def LoopOp.inScratch (o : LoopOp) (j : Nat) : Bool := o.control.getLsbD (15 + j)

/-- Operand `j`'s address at iteration `n`: a byte offset in scratch, or a virtual address modulo 2^64. -/
def LoopOp.addr (o : LoopOp) (j n : Nat) : Nat :=
  if o.inScratch j then (((o.bases.getD j 0 : Nat) : Int) + o.offset j n).toNat
  else wrapInt 64 (((o.bases.getD j 0 : Nat) : Int) + o.offset j n)

/-- The operands an iteration reads (R187): 0 always, 1 unless the operation is a copy, 2 for the fused one. -/
def LoopOp.reads (o : LoopOp) : List Nat :=
  if o.reduce.isSome then (if o.op = 3 then [0, 1] else [0])
  else if o.op = 0 then [0] else if o.op = 6 then [0, 1, 2] else [0, 1]

/-- The rank of a lane among the filled ones. -/
def LoopOp.rank (o : LoopOp) (l : Nat) : Nat := ((lanesOf o.filled).filter fun k => k < l).length

/-- The iteration a lane performs as its `j`-th (R187). -/
def LoopOp.iter (o : LoopOp) (l j : Nat) : Nat := o.rank l + popLanes o.filled * j

/-- How many iterations a lane performs. -/
def LoopOp.share (o : LoopOp) (l : Nat) : Nat :=
  if o.total ≤ o.rank l then 0 else (o.total - o.rank l + popLanes o.filled - 1) / popLanes o.filled

/-- Where operand `j` lies at iteration `n`; none where it does not translate. -/
def State.loopPlace (s : State) (o : LoopOp) (j n : Nat) : Option Place :=
  if o.inScratch j then some (.core o.core ((s.d.ctx o.ctx).scratchAt + o.addr j n))
  else match s.translate o.core o.ctx (o.addr j n) with
    | some x => some (.phys (s.locate o.ctx o.task (o.addr j n) x.pa))
    | none => none

/-- The operands of a lane's iteration that it reads or writes. -/
def LoopOp.touches (o : LoopOp) : List Nat := if o.reduce.isSome then o.reads else (o.reads ++ [2]).eraseDups

/-- Whether a lane of a nest has still to touch a place: program order at one location (R259). -/
def State.loopMeets (s : State) (o : LoopOp) (l : Nat) (at_ : Place) (n : Nat) : Bool :=
  let done := ((o.lanes.find? fun x => x.lane = l).map LoopLane.next).getD 0
  let iters := (List.range (o.share l)).filter fun j => done ≤ j
  iters.any (fun j => o.touches.any fun k =>
    match s.loopPlace o k (o.iter l j) with
    | some q => q.meets o.esize at_ n
    | none => false) ||
  (o.reduce.isSome && !o.written && (match s.loopPlace o 2 0 with
    | some q => q.meets o.esize at_ n
    | none => false))

end Sys2Proof.Machine
end

