-- ==== Sys2Proof/Machine/Perform.lean ====
section
/-! DEFINITION. Performing the accesses of an issued memory word, piece by piece, at their coherence points
(R54, R164-R171, R175, R258, R259, R269, R335, R392, R393). -/

namespace Sys2Proof.Machine

/-! ### Writes of a party (R259, R344) -/

/-- A write through a context's page at `pa` for the virtual address `va`, by core `g` in a task's view; none while
the pool has no page for the copy it needs (R344). -/
def State.writeAt (s : State) (c g task va pa : Nat) (bs : List Byte) : Option State :=
  match s.cow c task va pa with
  | none => none
  | some s1 => some ((s1.markDirty c task va bs.length).storeBytes g (s1.locate c task va pa) bs)

/-- A read-modify-write's write, which drops the core's own copy of the line (R171). -/
def State.modifyAt (s : State) (c task va pa n : Nat) (f : Nat → State → State) : Option State :=
  match s.cow c task va pa with
  | none => none
  | some s1 => some (f (s1.locate c task va pa) (s1.markDirty c task va n))

/-! ### When a piece may be performed (R175, R258, R259) -/

/-- Pieces that act for several lanes, or for the whole warp. -/
def Act.isWide : Act → Bool
  | .red _ _ _ | .mass _ | .flush | .inval => true
  | _ => false

/-- Loads. -/
def Act.isLoad : Act → Bool
  | .load => true
  | _ => false

/-- The second half of a read and a later write that has still to be made (R269). -/
def Act.isEnd : Act → Bool
  | .atomEnd (some _) => true
  | _ => false

/-- Updates of masked bits. -/
def Act.isBits : Act → Bool
  | .bits _ _ => true
  | _ => false

/-- Whether two pieces act for one lane. -/
def Piece.sameLane (p q : Piece) : Bool := p.lane = q.lane || p.act.isWide || q.act.isWide

/-- Whether the waits of an operation are over for a piece. -/
def State.pieceFree (s : State) (o : MemOp) (p : Piece) : Bool :=
  o.after.all fun d => (d.lane < 32 && d.lane ≠ p.lane && !p.act.isWide) || s.depDone d

/-- Whether an earlier access of the lane to the location is outstanding (R259). -/
def State.pieceBehind (s : State) (o : MemOp) (p : Piece) : Bool :=
  let at_ := s.placeOf o p
  s.d.ops.any (fun q => q.uid = o.uid && q.id < o.id && q.pieces.any fun r =>
    r.sameLane p && (s.placeOf q r).meets r.size at_ p.size) ||
  s.d.loops.any (fun q => q.uid = o.uid && q.id < o.id && (lanesOf q.filled).any fun l =>
    (l = p.lane || p.act.isWide) && s.loopMeets q l at_ p.size)

/-- Whether another device access stands between its read and its write at the location (R269). -/
def State.pieceHeldOff (s : State) (o : MemOp) (p : Piece) : Bool :=
  let at_ := s.placeOf o p
  s.d.ops.any fun q => q.pieces.any fun r =>
    r.act.isEnd && !(q.id = o.id && r.lane = p.lane) && (s.placeOf q r).meets r.size at_ p.size

/-- Whether piece `i` may be performed, with the pieces of `group` at the same instant: earlier pieces of its lane and
earlier overlapping pieces of the word come first (R164, R165, R171). -/
def State.pieceReady (s : State) (o : MemOp) (group : List Nat) (i : Nat) (p : Piece) : Bool :=
  p.ok && s.pieceFree o p && !s.pieceBehind o p && !s.pieceHeldOff o p &&
  ((o.pieces.take i).zipIdx).all fun q =>
    group.contains q.2 ||
    (q.1.lane ≠ p.lane && (p.act.isLoad || !(s.placeOf o q.1).meets q.1.size (s.placeOf o p) p.size))

/-! ### The end of an operation (R54, R335) -/

/-- An operation replaced. -/
def State.setOp (s : State) (o : MemOp) : State :=
  { s with d := { s.d with ops := s.d.ops.map fun q => if q.id = o.id then o else q } }

/-- A counter of a warp one lower (R54). -/
def Warp.countDown (w : Warp) (k : CounterClass) : Warp :=
  match k with
  | .ld => { w with ldc := w.ldc - 1 }
  | .st => { w with stc := w.stc - 1 }
  | .cp => { w with cpc := w.cpc - 1 }
  | .tl => { w with tlc := w.tlc - 1 }

/-- A counter of a warp one higher. -/
def Warp.countUp (w : Warp) (k : CounterClass) : Warp :=
  match k with
  | .ld => { w with ldc := w.ldc + 1 }
  | .st => { w with stc := w.stc + 1 }
  | .cp => { w with cpc := w.cpc + 1 }
  | .tl => { w with tlc := w.tlc + 1 }

/-- A counter of a warp. -/
def Warp.counter (w : Warp) (k : CounterClass) : Nat :=
  match k with
  | .ld => w.ldc
  | .st => w.stc
  | .cp => w.cpc
  | .tl => w.tlc

/-- The registers of an ended warp freed once its operations have been performed (R385). -/
def State.freeEnded (s : State) (uid : Nat) : State :=
  if s.d.ops.any (fun o => o.uid = uid) || s.d.loops.any (fun o => o.uid = uid) then s
  else { s with d := { s.d with warps := s.d.warps.filter fun w => !(w.uid = uid && w.status == .retired) } }

/-- The record of the lanes of a word whose data carried an error mark (R392). -/
def State.markRecord (s : State) (o : MemOp) : State :=
  match o.marked, s.warp o.uid with
  | (l, va) :: _, some w =>
    let lanes := maskOf fun k => (o.marked.find k).isSome
    let va0 := o.marked.getD (lowLane lanes) va
    s.noteOp o.uid o.id { w.faultRec 0x30 4 lanes with
      codeofs := o.pc, tilecoord := o.tile, address := if l < 32 then va0 else va
      d0 := BitVec.ofNat 32 o.detected }
  | _, _ => s

/-- An operation with nothing left to perform: its counter falls (R54). -/
def State.finishOp (s : State) (o : MemOp) : State :=
  let s1 : State := { s with d := { s.d with ops := s.d.ops.filter fun q => q.id ≠ o.id } }
  let s2 := if o.counted then s1.mapUid o.uid fun w => w.countDown o.cls else s1
  (s2.markRecord o).freeEnded o.uid

/-- An operation with its pieces as they now are: finished when none is left. -/
def State.putOp (s : State) (o : MemOp) : State := if o.pieces.isEmpty then s.finishOp o else s.setOp o

/-! ### Delivery (R55, R80, R168) -/

/-- The register value of a loaded element, and whether it poisons the lane (R34, R80, R168). -/
def LoadExt.value (e : LoadExt) (x : Nat) : Nat × Bool :=
  match e with
  | .zero => (x, false)
  | .sign n => (wrapInt 32 (sextInt (8 * n) x), false)
  | .code width shift special => (x / 2 ^ shift % 2 ^ width, x / 2 ^ shift % 2 ^ width = special)

/-- A lane's destination registers written by an operation; what they held stays readable until a `WAIT` (R55; DESIGN CHOICE, log entry 5). -/
def Warp.deliver : Nat → Warp → Nat → Nat → Nat → Warp
  | 0, w, _, _, _ => w
  | n + 1, w, r, l, x =>
    let key := r * 32 + l
    let old := w.v.getD key 0
    let kept := if (w.inflight.find key).isSome then w.inflight else w.inflight.put key old
    Warp.deliver n { w with v := Map.putC 0 w.v key (BitVec.ofNat 32 x), inflight := kept } (r + 1) l (x / 2 ^ 32)

/-- The result of a lane whose pieces are all performed. -/
def State.deliverLane (s : State) (o : MemOp) (l : Nat) : State :=
  let r := (o.ext.getD l .zero).value (o.buf.getD l 0)
  s.mapUid o.uid fun w =>
    let w1 := Warp.deliver o.nreg w o.dreg l r.1
    if r.2 then w1.poison (maskOf fun k => k = l) else w1

/-! ### Loads (R165, R167) -/

/-- The load pieces of a word that read the location piece `p` reads: all receive one value (R165). -/
def State.loadGroup (s : State) (o : MemOp) (p : Piece) : List Nat :=
  let loads := o.pieces.zipIdx.filter fun q => q.1.ok && q.1.act.isLoad
  let touching := loads.filter fun q => (s.placeOf o q.1).meets q.1.size (s.placeOf o p) p.size
  let big := touching.foldl (fun (b : Piece) q => if b.size < q.1.size then q.1 else b) p
  (loads.filter fun q => (s.placeOf o q.1).meets q.1.size (s.placeOf o big) big.size).map Prod.snd

/-- An operation of which a piece met an error mark, whose record names the structure `code`; 0 for no mark (R392). -/
def MemOp.noteMark (o : MemOp) (p : Piece) (code : Nat) : MemOp :=
  if code = 0 then o
  else { o with
    marked := if (o.marked.find p.lane).isNone then o.marked.put p.lane p.va else o.marked
    detected := if o.detected = 0 then code else o.detected }

/-- One load piece read into its operation's buffer; a mark in the data poisons the lane (R42). -/
def readPiece (x : State × MemOp) (p : Piece) : State × MemOp :=
  let s := x.1
  let o := x.2
  let g := s.readPlace o.ctx o.core p.l1 (s.placeOf o p) p.size
  let s1 := if g.bad then (g.state.meetPlace (s.placeOf o p) p.size).mapUid o.uid fun w => w.poison (maskOf fun k => k = p.lane) else g.state
  (s1, { (o.noteMark p g.code) with buf := o.buf.put p.lane (o.buf.getD p.lane 0 + g.val * 2 ^ (8 * p.byteOfs)) })

/-- The pieces of an operation without those numbered. -/
def MemOp.without (o : MemOp) (idxs : List Nat) : MemOp :=
  { o with pieces := (o.pieces.zipIdx.filter fun q => !idxs.contains q.2).map Prod.fst }

/-- The lanes of a list of pieces that have none left in an operation. -/
def MemOp.doneLanes (o : MemOp) (ps : List Piece) : List Nat :=
  ((ps.map Piece.lane).eraseDups).filter fun l => o.pieces.all fun q => q.lane ≠ l

/-- A load piece performed, with the pieces that read the same location (R165). -/
def State.performLoad (s : State) (o : MemOp) (p : Piece) : Option State :=
  let group := s.loadGroup o p
  let members := o.pieces.zipIdx.filter fun q => group.contains q.2
  if members.all fun q => s.pieceReady o group q.2 q.1 then
    let ps := members.map Prod.fst
    let r := ps.foldl readPiece (s, o)
    let o1 := r.2.without group
    some (((o1.doneLanes ps).foldl (fun t l => t.deliverLane o1 l) r.1).putOp o1)
  else none

/-! ### Stores (R165, R167, R168) -/

/-- The bytes a store leaves at its place: a byte that a later lane of the word also writes keeps its value for that
lane's store (R165). -/
def State.storeData (s : State) (o : MemOp) (i : Nat) (p : Piece) (data : Nat) (old : List Byte) : List Byte :=
  let later := (o.pieces.drop (i + 1)).filter fun q => q.ok && q.lane ≠ p.lane
  let at_ := s.placeOf o p
  let byteAt := fun k => match at_ with
    | .phys a => Place.phys (a + k)
    | .core g b => Place.core g (b + k)
  ((bytesLE p.size data).zip old).zipIdx.map fun x =>
    if later.any fun q => (s.placeOf o q).meets q.size (byteAt x.2) 1 then x.1.2 else x.1.1

/-- The old bytes at a place. -/
def State.oldBytes (s : State) (o : MemOp) (p : Piece) : List Byte :=
  match s.placeOf o p with
  | .phys a => s.mem.bytes a p.size
  | .core g b => (s.d.share o.ctx g).coreBytes b p.size

/-- Bytes written at a piece's place (R43, R259). -/
def State.putPiece (s : State) (o : MemOp) (p : Piece) (bs : List Byte) : Option State :=
  match p.place with
  | .phys pa => s.writeAt o.ctx o.core o.task p.va pa bs
  | .core g b => some (s.mapShare o.ctx g fun x => x.putCore b p.poisonMark bs)

/-- The write of one piece; none where it must wait. -/
def State.writePiece (s : State) (o : MemOp) (i : Nat) (p : Piece) : Option State :=
  match p.act with
  | .store data => s.putPiece o p (s.storeData o i p data (s.oldBytes o p))
  | .bits data mask =>
    let old := ofBytesLE (s.oldBytes o p)
    s.putPiece o p (bytesLE p.size (old - (old &&& mask) + data))
  | .mass add =>
    match p.place with
    | .phys pa => s.modifyAt o.ctx o.task p.va pa p.size fun a t =>
        t.modifyBytes o.core a (bytesLE 4 (q824Add (t.mem.nat a 4) add))
    | _ => some s
  | .atomEnd (some data) =>
    match p.place with
    | .phys pa => s.modifyAt o.ctx o.task p.va pa p.size fun a t => t.modifyBytes o.core a (bytesLE p.size data)
    | _ => some s
  | .flush | .inval =>
    match s.placeOf o p with
    | .phys a =>
      let m := { s.mem with accs := s.mem.accs.filter fun x => !x.meets a p.size }
      let f := if p.act = .inval then PMem.dropSector else PMem.flushSector
      some { s with mem := (sectorsOf a p.size).foldl f m }
    | _ => some s
  | _ => none

/-- The pieces written together: those of a covered line that carries an error mark, in one request (R165, R393), and the
two of a narrow element that two pages hold (R168). -/
def State.storeGroup (s : State) (o : MemOp) (i : Nat) (p : Piece) : List Nat :=
  match s.placeOf o p with
  | .phys a =>
    if p.act.isBits then (o.pieces.zipIdx.filter fun q => q.1.lane = p.lane && q.1.act.isBits).map Prod.snd
    else if p.covers && s.mem.marked a p.size then
      (o.pieces.zipIdx.filter fun q => q.1.ok && q.1.covers && (match s.placeOf o q.1 with
        | .phys b => b / 64 = a / 64
        | _ => false)).map Prod.snd
    else [i]
  | _ => [i]

/-- The mark of a line that one request has covered, removed (R393). -/
def State.clearCovered (s : State) (o : MemOp) (p : Piece) (group : List Nat) : State :=
  match s.placeOf o p with
  | .phys a => if group.length ≤ 1 || p.act.isBits then s else { s with mem := { s.mem with marks := s.mem.marks.del (a / 64) } }
  | _ => s

/-- A store piece performed, with the rest of its covered line where that carries a mark. -/
def State.performStore (s : State) (o : MemOp) (i : Nat) (p : Piece) : Option State :=
  let group := s.storeGroup o i p
  let members := o.pieces.zipIdx.filter fun q => group.contains q.2
  if members.all fun q => s.pieceReady o group q.2 q.1 then
    match members.foldl (fun (t : Option State) q => t.bind fun u => u.writePiece o q.2 q.1) (some s) with
    | some t => some ((t.clearCovered o p group).putOp (o.without group))
    | none => none
  else none

/-! ### Atomics and reductions (R169-R171, R269, R282) -/

/-- An operation with piece `i` made the second half of a read and a later write. -/
def MemOp.withEnd (o : MemOp) (i data : Nat) : MemOp :=
  { o with pieces := o.pieces.zipIdx.map fun q => if q.2 = i then { q.1 with act := .atomEnd (some data) } else q.1 }

/-- The lane's old value kept for its destination. -/
def MemOp.keepOld (o : MemOp) (p : Piece) (v : Nat) : MemOp := { o with buf := o.buf.put p.lane v }

/-- The read of a read-modify-write that meets an error mark: it is noted for the record, and poisons the lane that receives the
old value (R42, R392). -/
def State.meetOld (s : State) (o : MemOp) (p : Piece) : State × MemOp :=
  match s.placeOf o p with
  | .phys a =>
    if s.mem.marked a p.size then
      let t := s.meetMark a p.size
      (if o.nreg = 0 then t else t.mapUid o.uid fun w => w.poison (maskOf fun k => k = p.lane), o.noteMark p (s.mem.errCode a p.size))
    else (s, o)
  | _ => (s, o)

/-- The lane of an atomic delivered, and its piece done. -/
def State.endAtomic (s : State) (o : MemOp) (i : Nat) (p : Piece) : State :=
  (if o.nreg = 0 then s else s.deliverLane o p.lane).putOp (o.without [i])

/-- A lane's read-modify-write (R171), or one half of it on memory of the host outside SYSATOMIC (R269; DEDUCED, log entry 56). -/
def State.performAtom (s : State) (o : MemOp) (i : Nat) (p : Piece) (op data cmp : Nat) (whole : Bool) : Option State :=
  match p.place, s.placeOf o p with
  | .phys pa, .phys a =>
    let old := s.mem.nat a p.size
    let new := atomResult op p.size old data cmp
    let x := s.meetOld o p
    let o1 := x.2.keepOld p old
    if whole then
      (x.1.modifyAt o.ctx o.task p.va pa p.size fun b t => t.modifyBytes o.core b (bytesLE p.size new)).map fun t =>
        t.endAtomic o1 i p
    else if (s.d.ctx o.ctx).hostBarred p.va pa then none
    else some (x.1.setOp (o1.withEnd i new))
  | _, _ => none

/-- One addition of a reduction store at the home L2 (R169), or the read that begins it in memory of the host. Under
DET = 1 each lane's value enters the exact accumulator of an element of device memory unrounded (R282, R310; DEDUCED, log
entry 85). -/
def State.performRed (s : State) (o : MemOp) (i : Nat) (p : Piece) (flt : Bool) (vals : List Nat) (whole : Bool) : Option State :=
  match p.place, s.placeOf o p with
  | .phys pa, .phys a =>
    let sum := redSum flt p.size (s.mem.nat a p.size) (groupSum flt p.size vals)
    let x := s.meetOld o p
    if whole then
      let add := fun (b : Nat) (t : State) =>
        if flt && (s.d.ctx o.ctx).det && isDevice b then
          vals.foldl (fun u v => u.exactAdd o.core b p.size ((redFmt p.size).read false v)) t
        else t.modifyBytes o.core b (bytesLE p.size sum)
      (x.1.modifyAt o.ctx o.task p.va pa p.size add).map fun t => t.putOp (x.2.without [i])
    else if (s.d.ctx o.ctx).hostBarred p.va pa then none
    else some (x.1.setOp (x.2.withEnd i sum))
  | _, _ => none

/-- The write that ends an atomic or addition performed as two steps, unless a unit's access has already had it made. -/
def State.performEnd (s : State) (o : MemOp) (i : Nat) (p : Piece) : Option State :=
  (if p.act.isEnd then s.writePiece o i p else some s).map fun t => t.endAtomic o i p

/-- The operation of a name. -/
def State.op (s : State) (id : Nat) : Option MemOp := s.d.ops.find? fun o => o.id = id

/-- Piece `i` of an operation performed; none where it may not be yet. -/
def State.performPiece (s : State) (o : MemOp) (i : Nat) (p : Piece) : Option State :=
  match p.act with
  | .load => s.performLoad o p
  | .atom op data cmp whole => if s.pieceReady o [i] i p then s.performAtom o i p op data cmp whole else none
  | .red flt vs whole => if s.pieceReady o [i] i p then s.performRed o i p flt vs whole else none
  | .atomEnd _ => if s.pieceReady o [i] i p then s.performEnd o i p else none
  | .mass _ => let x := s.meetOld o p; x.1.performStore x.2 i p
  | _ => s.performStore o i p

/-! ### Soft errors (R392) -/

/-- The record of an error that no register of a warp met. -/
def errorRec (code cls c g structure_ : Nat) : FaultRec :=
  { FaultRec.engine code cls c g with d0 := BitVec.ofNat 32 structure_ }

/-- A read of an HBM row with a corrected error: the third in a scrub interval records the row as failing (R395). -/
def State.correctedRead (s : State) (row : Nat) : State :=
  let n := s.d.deimos.corrected.getD row 0 + 1
  let t : State := { s with d := { s.d with deimos := { s.d.deimos with corrected := s.d.deimos.corrected.put row n } } }
  if 3 ≤ n then t.rowFailing row else t

/-- A line of device memory takes an error mark; an error of HBM stands there until its first reader meets it (R392). -/
def State.spoilLine (s : State) (pa : Nat) (hbm : Bool) : State :=
  if !isDevice pa then s
  else { s with mem := if hbm then s.mem.hideMark (pa / 64) else s.mem.setMark (pa / 64) }

/-- A sector that leaves the L2 with what the L2 held lost (R392). -/
def PMem.loseSector (m : PMem) (sec : Nat) : PMem :=
  match m.hbm.find sec with
  | some h => { m.raw (sec * 32) h.bytes with hbm := m.hbm.del sec }
  | none => m

/-- Whether the L2 holds bytes of a line that are newer than HBM's. -/
def PMem.dirtyLine (m : PMem) (line : Nat) : Bool :=
  [line * 2, line * 2 + 1].any fun k => match m.hbm.find k with
    | some h => h.dirty
    | none => false

/-- An error in the L2's tags: the line is invalidated, and HBM's takes an error mark if the line was dirty, or may have
been as far as the unit can tell; record 0x3F goes to the context whose access met it (R392). -/
def State.loseLine (s : State) (c g pa : Nat) (mayBeDirty : Bool) : State :=
  if !isDevice pa then s
  else
    let was := s.mem.dirtyLine (pa / 64)
    let m := (s.mem.loseSector (pa / 64 * 2)).loseSector (pa / 64 * 2 + 1)
    let t : State := { s with mem := if was || mayBeDirty then m.setMark (pa / 64) else m }
    (t.lifeCount 5008 1).note (errorRec 0x3F 6 c g 8)

/-- What an error that its protection cannot correct becomes at the place an access of context `c` on core `g` reads or
writes; structures that no such access meets are struck in turns of their own. -/
def State.hitBy (s : State) (c g : Nat) (at_ : Place) (k : Nat) : State :=
  match at_ with
  | .core h b => if k = 0x04 then s.mapShare c h fun x => { x with marks := x.marks.put (b / 4) true } else s
  | .phys a =>
    match k with
    | 0x07 => s.mapCore g fun x => x.dropLines a 1
    | 0x08 => s.spoilLine a false
    | 0x0A => s.spoilLine a true
    | 0x09 => s.loseLine c g a false
    | _ => s

/-- An error counted where it strikes; one of HBM is counted where it is met. -/
def State.countHit (s : State) (k : Nat) : State := if k = 0x0A then s else s.countError k false

/-- A soft error met by an access at a place, before the access (R392, R395, R409; DESIGN CHOICE, log entry 82). -/
def State.meetUpset (s : State) (c g : Nat) (at_ : Place) (read : Bool) (u : Upset) : State :=
  match u with
  | .none => s
  | .corrected k =>
    let t := s.countError k true
    match at_ with
    | .phys a => if k = 0x0A && read && isDevice a then t.correctedRead (hbmRow s.d.iw a) else t
    | _ => t
  | .hit k => (s.countHit k).hitBy c g at_ k

/-! ### The events -/

/-- The kind of access of a word: 0 a read, 1 a write, 2 both (R332; DEDUCED, log entry 60). -/
def accessKind : Instr → Nat
  | .ld _ | .ldx _ | .ldz _ | .kvld _ | .posld _ => 0
  | .st _ | .stx _ | .stz _ => 1
  | _ => 2

/-- The first fault that writes meet as they are to be performed: a page of the host in a region with a revision (R342), or a
pool without a page (R346). Code, address and DETAIL0. -/
def State.firstMiss (s : State) (o : MemOp) : List Piece → Option (Nat × Nat × Nat)
  | [] => none
  | p :: ps => match p.place with
    | .core _ _ => s.firstMiss o ps
    | .phys pa =>
      if (s.d.ctx o.ctx).hostBarred p.va pa then some (0x21, p.va, accessKind o.word)
      else match s.cow o.ctx o.task p.va pa with
        | none => some (0x20, p.va, 3)
        | some t => t.firstMiss o ps

/-- The lanes a piece acts for. -/
def Piece.who (p : Piece) : Lanes := if p.lanes = 0 then maskOf fun l => l = p.lane else p.lanes

/-- A word parked by a fault that it met after its issue (R335). -/
def State.parkOp (s : State) (o : MemOp) (lanes : Lanes) (code va d0 : Nat) : State :=
  match s.parkFlight o.uid o.id o.pc o.tile lanes code va d0 with
  | none => s
  | some (idx, t) => t.setOp { o with parked := some idx }

/-- A write that may be performed but for a fault: its lanes stay unfinished, all of a release, and the word parks, unless it
has lanes unfinished already (R335, R342, R346). -/
def State.lateFault (s : State) (o : MemOp) (i : Nat) (p : Piece) : State :=
  let group := s.storeGroup o i p
  let members := o.pieces.zipIdx.filter fun q => group.contains q.2
  if p.act.isLoad || !(members.all fun q => s.pieceReady o group q.2 q.1) then s
  else
    let ps := members.map Prod.fst
    match s.firstMiss o ps with
    | none => s
    | some (code, va, d0) =>
      let back := fun (q : Piece) => if o.rls || ps.any (fun r => r.lane = q.lane) then { q with ok := false } else q
      let o1 := { o with pieces := o.pieces.map back }
      if o.parked.isSome || o.pieces.any fun q => !q.ok then s.setOp o1
      else s.parkOp o1 (ps.foldl (fun m q => m ||| q.who) 0) code va d0

/-- Piece `i` of an operation performed where it may be, or its fault taken. -/
def State.performOr (s : State) (o : MemOp) (i : Nat) (p : Piece) : State := (s.performPiece o i p).getD (s.lateFault o i p)

/-- STRED_ADDITION: a group's addition is performed (R169). -/
def execStredAddition (op group : Nat) (s : State) : Host.Outcome State Fault Refusal :=
  match s.op op with
  | none => .next s
  | some o => match o.pieces[group]? with
    | none => .next s
    | some p => match p.act with
      | .red _ _ _ | .atomEnd _ => .next (s.performOr o group p)
      | _ => .next s

/-- ATOMIC_STEP: a lane's atomic is performed (R171; DEDUCED, log entry 56). -/
def execAtomicStep (op lane : Nat) (s : State) : Host.Outcome State Fault Refusal :=
  match s.op op with
  | none => .next s
  | some o => match o.pieces.findIdx? fun p => p.lane = lane with
    | none => .next s
    | some i => match o.pieces[i]? with
      | none => .next s
      | some p => match p.act with
        | .atom _ _ _ _ | .atomEnd _ => .next (s.performOr o i p)
        | _ => .next s

/-- Every piece of an operation performed that may be, in order; `fuel` pieces at most. -/
def State.performAll (s : State) (id : Nat) : Nat → State
  | 0 => s
  | fuel + 1 => match s.op id with
    | none => s
    | some o => match o.pieces.zipIdx.findSome? fun q => s.performPiece o q.2 q.1 with
      | none => s
      | some t => t.performAll id fuel

/-- HELD_RELEASE_STORE: a store under RLS is performed once its release holds (R167; DEDUCED, log entry 77). -/
def execHeldReleaseStore (op : Nat) (s : State) : Host.Outcome State Fault Refusal :=
  match s.op op with
  | none => .next s
  | some o => if o.rls then .next (s.performAll op o.pieces.length) else .next s

end Sys2Proof.Machine
end

