-- ==== Sys2Proof/Machine/Fetch.lean ====
section
/-! DEFINITION. Fetching the issuing warp's next word: the fetch boundary, the translation of code, the decoder
(R67-R69, R88, R89, R332, R392). -/

namespace Sys2Proof.Machine

/-- What a fetch gives: a word to execute, or a state in which the fetch has ended the matter. -/
inductive Fetched where
  | word (i : Instr) (s : State)
  | done (s : State)

/-- The virtual address of the issuing warp's next word (R69). -/
def Warp.codeVa (w : Warp) : Nat := w.base + 32 + w.pc

/-- Whether the context of a share may issue: ACTIVE, in its slot and not halted (R312, R325). -/
def State.mayRun (s : State) (c g : Nat) : Bool :=
  (s.d.ctx c).state = .active && !(s.d.share c g).halted && !(s.d.core g).offline

/-- The word at the issuing warp's place in a fetch block, decoded (R67, R68, R88). -/
def State.fetchIn (s : State) (block : List Byte) : Fetched :=
  let bs := block.drop (s.w.codeVa % 32)
  let len := lenOfWord (ofBytesLE (bs.take 4))
  if 32 < s.w.pc % 32 + len then .done (s.raiseAll 0x02)
  else match decodeBytes (bs.take len) with
    | .ok (i, _) => .word i s
    | .error _ => .done (s.raiseAll 0x01)

/-- The key of a fetch block of a context in an instruction cache. -/
def fetchKey (c va : Nat) : Nat := c * 2 ^ 52 + va / 32

/-- The fetch block of a word that the issuing warp has in hand or its core holds; none where memory must be read
(R72). -/
def State.heldBlock (s : State) (va : Nat) : Option (List Byte) :=
  match s.w.block with
  | some (b, bs) => if b = va / 32 then some bs else (s.d.core s.w.core).icache.find (fetchKey s.w.ctx va)
  | none => (s.d.core s.w.core).icache.find (fetchKey s.w.ctx va)

/-- The fetch block of a word whose physical address is known (R72). -/
def State.fetchBytes (s : State) (va pa : Nat) : List Byte := (s.heldBlock va).getD (s.mem.bytes (pa / 32 * 32) 32)

/-- The fetch block that the issuing warp goes on from, held by its core from then on (R72; DEDUCED, log entry 88). -/
def State.takeBlock (s : State) (va : Nat) (bs : List Byte) : State :=
  (if (s.d.core s.w.core).icache.find (fetchKey s.w.ctx va) = some bs then s
   else s.mapCore s.w.core fun x => { x with icache := x.icache.put (fetchKey s.w.ctx va) bs }).mapWarp fun w =>
    { w with block := some (va / 32, bs) }

/-- The fetch blocks of a range of a context forgotten by every core and warp: the whole context where the length is 0. -/
def State.forgetCode (s : State) (c va n : Nat) : State :=
  let out := fun (k : Nat) => k / 2 ^ 52 = c && (n = 0 || (va < (k % 2 ^ 52 + 1) * 32 && k % 2 ^ 52 * 32 < va + n))
  let clear := fun (w : Warp) => match w.block with
    | some (b, _) => if w.ctx = c && out (fetchKey c (b * 32)) then { w with block := none } else w
    | none => w
  { s with
    w := clear s.w
    d := { s.d with
      cores := s.d.cores.map fun p => (p.1, { p.2 with icache := p.2.icache.filter fun q => !out q.1 })
      warps := s.d.warps.map clear } }

/-- The fetch of the issuing warp's next word (R69, R332, R392). -/
def State.fetch (s : State) : Fetched :=
  let w := s.w
  if w.hdr.clen * 32 ≤ w.pc then .done (s.raiseAll 0x02)
  else match s.translate w.core w.ctx w.codeVa with
    | none => .done (s.parkTransl 0x20 w.filled w.codeVa 0)
    | some x =>
      if !x.canRead then .done (s.parkTransl 0x21 w.filled w.codeVa 0)
      else if (s.heldBlock w.codeVa).isNone && s.mem.marked (x.pa / 32 * 32) 32 then
        .done ((s.meetMark (x.pa / 32 * 32) 32).endCtx w.ctx 0x31 0x0E w.core)
      else
        let bs := s.fetchBytes w.codeVa x.pa
        ((s.fillTlb w.core w.ctx w.codeVa).takeBlock w.codeVa bs).fetchIn bs

/-- The partition number of a restored warp that waits for one (R242, R326). -/
def noPart : Nat := 16

/-- Whether a warp is placed and its context may issue (R242, R312, R325). -/
def State.warpOn (s : State) (w : Warp) : Bool := w.part ≠ noPart && s.mayRun w.ctx w.core

/-- Whether a loop nest or another word of a warp has parked since its issue (R190, R335). -/
def Dev.heldByPark (d : Dev) (uid : Nat) : Bool :=
  d.loops.any (fun o => o.uid = uid && o.parked.isSome) || d.ops.any fun o => o.uid = uid && o.parked.isSome

/-- Whether a warp can issue: running, placed, its context in its slot, and none of its words parked since their issue (R190, R312,
R335). -/
def State.canIssue (s : State) (w : Warp) : Bool := w.status == .running && s.warpOn w && !s.d.heldByPark w.uid

/-- What issues a warp's words: a partition, or the sequencer (R242, R243). -/
def Warp.unit (w : Warp) : Nat := if w.seq then 32 else w.part

/-- The greedy run of a unit of a core. -/
def Dev.run (d : Dev) (g unit : Nat) : IssueRun := (d.core g).runs.getD unit { last := 0, stalled := [] }

/-- The warps of a unit that can issue, without those that have stalled in its run where there are others. -/
def State.issuers (s : State) (g unit : Nat) : List Warp :=
  let ws := s.allWarps.filter fun v => v.core = g && v.unit = unit && s.canIssue v
  let up := ws.filter fun v => !(s.d.run g unit).stalled.contains v.uid
  if up.isEmpty then ws else up

/-- Whether a warp issues next on its unit, greedy then oldest: the one that issued last as long as it can, then the one that
formed earliest (R242, R243; DEDUCED, log entry 104). -/
def State.mayIssue (s : State) (w : Warp) : Bool :=
  let ws := s.issuers w.core w.unit
  let last := (s.d.run w.core w.unit).last
  s.canIssue w && (if ws.any fun v => v.uid = last then w.uid = last else ws.any (fun v => v.uid = w.uid) && ws.all fun v => w.uid ≤ v.uid)

/-- The issue of a warp's next word: the warp comes to the front and its word is fetched. Nothing happens where the
warp cannot issue. -/
def State.issue (s : State) (uid : Nat) : Fetched :=
  match s.warp uid with
  | none => .done s
  | some w => if s.mayIssue w then (s.focus uid).fetch else .done s

end Sys2Proof.Machine
end

