-- ==== Sys2Proof/Machine/Integer.lean ====
section
/-! DEFINITION. The integer, logic, shift, bit-field, compare, select, address, move and predicate words (R122-R131). -/

namespace Sys2Proof.Machine

/-! ### Element operations -/

/-- An exact integer result in its type: limited under `.SAT`, else reduced modulo `2^w` (R122). -/
def intResult (t : Ty) (sat : Bool) (x : Int) : Nat := wrapInt t.width (if sat then satInt x t.minInt t.maxInt else x)

/-- A two-source operation of exact integers, element by element. -/
def intElems (t : Ty) (sat : Bool) (f : Int → Int → Int) (a b : Nat) : Nat :=
  t.join fun k => intResult t sat (f (t.int (t.elem a k)) (t.int (t.elem b k)))

/-- A two-source operation of element bits. -/
def bitElems (t : Ty) (f : Nat → Nat → Nat) (a b : Nat) : Nat := t.join fun k => f (t.elem a k) (t.elem b k)

/-- Bitwise complement in a width. -/
def notN (n x : Nat) : Nat := 2 ^ n - 1 - x % 2 ^ n

/-- Shift left by a count, zeros in (R125). -/
def shlN (n x c : Nat) : Nat := if n ≤ c then 0 else x * 2 ^ c % 2 ^ n

/-- Shift right by a count, zeros in. -/
def shrN (n x c : Nat) : Nat := if n ≤ c then 0 else x / 2 ^ c

/-- Shift right by a count, sign bits in. -/
def sarN (n x c : Nat) : Nat := wrapInt n (sextInt n x / ((2 ^ (if n ≤ c then n else c) : Nat) : Int))

/-- Rotate left by a count mod the width. -/
def rotN (n x c : Nat) : Nat := (x * 2 ^ (c % n) + x / 2 ^ (n - c % n)) % 2 ^ n

/-- Set bits of the low `n` bits. -/
def popN (n x : Nat) : Nat := ((List.range n).filter fun i => bitOf x i).length

/-- Leading zero bits in a width; the width for 0. -/
def clzN (n x : Nat) : Nat := if x % 2 ^ n = 0 then n else n - 1 - (x % 2 ^ n).log2

/-- Trailing zero bits in a width; the width for 0. -/
def ctzN (n x : Nat) : Nat := ((List.range n).find? fun i => bitOf x i).getD n

/-- Bits reversed in a width. -/
def brevN (n x : Nat) : Nat := ((List.range n).map fun i => if bitOf x i then 2 ^ (n - 1 - i) else 0).foldl (· + ·) 0

/-- The field of `BFE` (R126): bits at or above the width read as 0 or as the sign. -/
def bfeN (t : Ty) (a b c : Nat) : Nat :=
  let w := t.width
  let pos := b % 256
  let len := if c % 256 < w then c % 256 else w
  let field := (wrapInt 512 (t.int a)) / 2 ^ pos % 2 ^ len
  if len = 0 then 0 else if t.signed then wrapInt w (sextInt len field) else field

/-- The insertion of `BFI` (R126). -/
def bfiN (w a b c : Nat) : Nat :=
  let pos := c % 256
  let len := c / 256 % 256
  if len = 0 || w ≤ pos then a
  else
    let m := (2 ^ len - 1) * 2 ^ pos % 2 ^ w
    (a &&& notN w m) ||| (b % 2 ^ len * 2 ^ pos % 2 ^ w)

/-- `LEA` (R128): `a + b × 2^s`. -/
def leaN (t : Ty) (a b s : Nat) : Nat :=
  if t.wide then wrapInt 64 ((a : Int) + (if t.signed then sextInt 32 b else ((b % 2 ^ 32 : Nat) : Int)) * ((2 ^ (s % 64) : Nat) : Int))
  else (a + b * 2 ^ (s % 32)) % 2 ^ 32

/-! ### The forms -/

/-- A result of a two-source word in each active lane, or once under `.S` (R122). -/
def Warp.alu2 (w : Warp) (x : Alu2) (n : Nat) (f : Nat → Nat) : Warp :=
  if x.ctl.sc then (if w.scalarOn x.g then Warp.putWide n w x.d 0 (f 0) else w)
  else w.putResult x.ctl x.d n (w.active x.g) f

/-- The same for three sources. -/
def Warp.alu3 (w : Warp) (x : Alu3) (n : Nat) (f : Nat → Nat) : Warp :=
  if x.ctl.sc then (if w.scalarOn x.g then Warp.putWide n w x.d 0 (f 0) else w)
  else w.putResult x.ctl x.d n (w.active x.g) f

/-- A two-source integer word. -/
def Warp.int2 (w : Warp) (x : Alu2) (f : Nat → Nat → Nat) : Warp :=
  w.alu2 x x.ty.regs fun l => f (w.src x.ty x.a l) (w.operand x.ty x.b l 1)

/-- A shift: the count is an element of B, or one 32-bit operand for 64-bit types (R125). -/
def Warp.shift (w : Warp) (x : Alu2) (f : Nat → Nat → Nat → Nat) : Warp :=
  w.alu2 x x.ty.regs fun l =>
    let a := w.src x.ty x.a l
    if x.ty.wide then f 64 a (w.opd32 x.b l 1).toNat
    else bitElems x.ty (f x.ty.width) a (w.operand x.ty x.b l 1)

/-- A one-source word with a result of `n` registers. -/
def Warp.int1 (w : Warp) (x : Alu2) (n : Nat) (f : Nat → Nat) : Warp := w.alu2 x n fun l => f (w.src x.ty x.a l)

/-! ### Arithmetic (R123, R124) -/

/-- `IADD` (R122, R123). -/
def execIadd (x : Alu2) (s : State) : Host.Outcome State Fault Refusal :=
  s.wordOn (.iadd x) fun w => w.int2 x (intElems x.ty x.xf (· + ·))

/-- `ISUB`. -/
def execIsub (x : Alu2) (s : State) : Host.Outcome State Fault Refusal :=
  s.wordOn (.isub x) fun w => w.int2 x (intElems x.ty x.xf (· - ·))

/-- `IMUL`: the low bits of the product. -/
def execImul (x : Alu2) (s : State) : Host.Outcome State Fault Refusal :=
  s.wordOn (.imul x) fun w => w.int2 x (intElems x.ty false (· * ·))

/-- `IMULH`: the high word of the 64-bit product. -/
def execImulh (x : Alu2) (s : State) : Host.Outcome State Fault Refusal :=
  s.wordOn (.imulh x) fun w => w.int2 x fun a b => wrapInt 64 (x.ty.int a * x.ty.int b) / 2 ^ 32

/-- `IMAD`: the low bits of `a × b + c`. -/
def execImad (x : Alu3) (s : State) : Host.Outcome State Fault Refusal :=
  s.wordOn (.imad x) fun w => w.alu3 x x.ty.regs fun l =>
    intElems x.ty false (· + ·) (intElems x.ty false (· * ·) (w.src x.ty x.a l) (w.src x.ty x.b l 1)) (w.src x.ty x.c l 2)

/-- `IMADW`: a 64-bit `a × b + c` (R124). -/
def execImadw (x : Alu3) (s : State) : Host.Outcome State Fault Refusal :=
  s.wordOn (.imadw x) fun w => w.alu3 x 2 fun l =>
    wrapInt 64 (x.ty.int (w.src x.ty x.a l) * x.ty.int (w.src x.ty x.b l 1) + (w.src .u64 x.c l 2 : Int))

/-- `IMIN`. -/
def execImin (x : Alu2) (s : State) : Host.Outcome State Fault Refusal :=
  s.wordOn (.imin x) fun w => w.int2 x (intElems x.ty false fun a b => if b < a then b else a)

/-- `IMAX`. -/
def execImax (x : Alu2) (s : State) : Host.Outcome State Fault Refusal :=
  s.wordOn (.imax x) fun w => w.int2 x (intElems x.ty false fun a b => if a < b then b else a)

/-- `IABS`; the type's minimum gives itself, or its maximum under `.SAT`. -/
def execIabs (x : Alu2) (s : State) : Host.Outcome State Fault Refusal :=
  s.wordOn (.iabs x) fun w => w.int1 x x.ty.regs fun a => intElems x.ty x.xf (fun p _ => if p < 0 then -p else p) a a

/-- The carry of `IADDC` in a lane: the 33-bit sum. -/
def Warp.addcSum (w : Warp) (x : AddcW) (cin : Bool) (l : Nat) : Nat :=
  w.src .u32 x.a l + w.src .u32 x.b l 1 + (if cin then 1 else 0)

/-- `IADDC`: sum with a carry in from a predicate and out to another (R124). -/
def execIaddc (x : AddcW) (s : State) : Host.Outcome State Fault Refusal :=
  s.wordOn (.iaddc x) fun w =>
    if x.ctl.sc then
      if w.scalarOn x.g then
        let t := w.addcSum x (w.spsrc x.cin) 0
        (Warp.putWide 1 w x.d 0 (t % 2 ^ 32)).putSp x.cout.toNat (decide (2 ^ 32 ≤ t))
      else w
    else
      let act := w.active x.g
      let sum := fun l => w.addcSum x ((w.psrc x.cin).getLsbD l) l
      (w.putResult x.ctl x.d 1 act fun l => sum l % 2 ^ 32).putPred x.cout.toNat act
        (maskOf fun l => decide (2 ^ 32 ≤ sum l))

/-! ### Logic and bits (R123, R125, R126) -/

/-- `AND`. -/
def execAnd (x : Alu2) (s : State) : Host.Outcome State Fault Refusal :=
  s.wordOn (.and x) fun w => w.int2 x (bitElems x.ty (· &&& ·))

/-- `OR`. -/
def execOr (x : Alu2) (s : State) : Host.Outcome State Fault Refusal :=
  s.wordOn (.or x) fun w => w.int2 x (bitElems x.ty (· ||| ·))

/-- `XOR`. -/
def execXor (x : Alu2) (s : State) : Host.Outcome State Fault Refusal :=
  s.wordOn (.xor x) fun w => w.int2 x (bitElems x.ty (· ^^^ ·))

/-- `ANDN`: `a` and not `b`. -/
def execAndn (x : Alu2) (s : State) : Host.Outcome State Fault Refusal :=
  s.wordOn (.andn x) fun w => w.int2 x (bitElems x.ty fun a b => a &&& notN x.ty.width b)

/-- `SHL`. -/
def execShl (x : Alu2) (s : State) : Host.Outcome State Fault Refusal := s.wordOn (.shl x) fun w => w.shift x shlN

/-- `SHR`. -/
def execShr (x : Alu2) (s : State) : Host.Outcome State Fault Refusal := s.wordOn (.shr x) fun w => w.shift x shrN

/-- `SAR`. -/
def execSar (x : Alu2) (s : State) : Host.Outcome State Fault Refusal := s.wordOn (.sar x) fun w => w.shift x sarN

/-- `ROT`. -/
def execRot (x : Alu2) (s : State) : Host.Outcome State Fault Refusal := s.wordOn (.rot x) fun w => w.shift x rotN

/-- `BFE`. -/
def execBfe (x : Alu3) (s : State) : Host.Outcome State Fault Refusal :=
  s.wordOn (.bfe x) fun w => w.alu3 x x.ty.regs fun l =>
    bfeN x.ty (w.src x.ty x.a l) (w.read32 x.b l 1).toNat (w.read32 x.c l 2).toNat

/-- `BFI`. -/
def execBfi (x : Alu3) (s : State) : Host.Outcome State Fault Refusal :=
  s.wordOn (.bfi x) fun w => w.alu3 x x.ty.regs fun l =>
    bfiN x.ty.width (w.src x.ty x.a l) (w.src x.ty x.b l 1) (w.read32 x.c l 2).toNat

/-- `POPC`. -/
def execPopc (x : Alu2) (s : State) : Host.Outcome State Fault Refusal :=
  s.wordOn (.popc x) fun w => w.int1 x 1 (popN x.ty.width)

/-- `CLZ`. -/
def execClz (x : Alu2) (s : State) : Host.Outcome State Fault Refusal :=
  s.wordOn (.clz x) fun w => w.int1 x 1 (clzN x.ty.width)

/-- `CTZ`. -/
def execCtz (x : Alu2) (s : State) : Host.Outcome State Fault Refusal :=
  s.wordOn (.ctz x) fun w => w.int1 x 1 (ctzN x.ty.width)

/-- `BREV`. -/
def execBrev (x : Alu2) (s : State) : Host.Outcome State Fault Refusal :=
  s.wordOn (.brev x) fun w => w.int1 x x.ty.regs (brevN x.ty.width)

/-- `HASH` (R105, R106). -/
def execHash (x : Alu2) (s : State) : Host.Outcome State Fault Refusal :=
  s.wordOn (.hash x) fun w => w.int1 x 1 fun a => (hash32 (BitVec.ofNat 32 a)).toNat

/-! ### Compare, select, address (R127, R128) -/

/-- `ISETP`. -/
def execIsetp (x : CmpW) (s : State) : Host.Outcome State Fault Refusal :=
  s.wordOn (.isetp x) fun w =>
    let c := fun l => intCond x.ty x.cond.toNat (w.src x.ty x.a l) (w.operand x.ty x.b l 1)
    if x.ctl.sc then (if w.scalarOn x.g then w.putSp x.pd.toNat (c 0) else w)
    else w.putPred x.pd.toNat (w.active x.g) (maskOf c)

/-- `ISEL`. -/
def execIsel (x : SelW) (s : State) : Host.Outcome State Fault Refusal :=
  s.wordOn (.isel x) fun w =>
    if x.ctl.sc then
      (if w.scalarOn x.g then
        Warp.putWide x.ty.regs w x.d 0 (if w.spsrc x.pc then w.src x.ty x.a 0 else w.src x.ty x.b 0 1)
      else w)
    else w.putResult x.ctl x.d x.ty.regs (w.active x.g) fun l =>
      if (w.psrc x.pc).getLsbD l then w.src x.ty x.a l else w.src x.ty x.b l 1

/-- `LEA` (R128). B is one 32-bit value, an inline immediate too, extended as the type says (DEDUCED, log entry 94). -/
def execLea (x : Alu3) (s : State) : Host.Outcome State Fault Refusal :=
  s.wordOn (.lea x) fun w => w.alu3 x x.ty.regs fun l =>
    leaN x.ty (w.src x.ty x.a l) (w.read32 x.b l 1).toNat (w.read32 x.c l 2).toNat

/-- `MOVI` (R129). -/
def execMovi (x : Alu2) (s : State) : Host.Outcome State Fault Refusal :=
  s.wordOn (.movi x) fun w => w.alu2 x x.ty.regs fun l => w.operand x.ty x.b l 1

/-! ### Predicates (R130) -/

/-- A predicate word of two sources. -/
def Warp.predWord (w : Warp) (x : PredW) (f : Bool → Bool → Bool) : Warp :=
  if x.ctl.sc then (if w.scalarOn x.g then w.putSp x.pd.toNat (f (w.spsrc x.pa) (w.spsrc x.pb)) else w)
  else w.putPred x.pd.toNat (w.active x.g) (maskOf fun l => f ((w.psrc x.pa).getLsbD l) ((w.psrc x.pb).getLsbD l))

/-- `PAND`. -/
def execPand (x : PredW) (s : State) : Host.Outcome State Fault Refusal := s.wordOn (.pand x) fun w => w.predWord x (· && ·)

/-- `POR`. -/
def execPor (x : PredW) (s : State) : Host.Outcome State Fault Refusal := s.wordOn (.por x) fun w => w.predWord x (· || ·)

/-- `PXOR`. -/
def execPxor (x : PredW) (s : State) : Host.Outcome State Fault Refusal := s.wordOn (.pxor x) fun w => w.predWord x (· != ·)

/-- `PNOT`. -/
def execPnot (x : PredW) (s : State) : Host.Outcome State Fault Refusal := s.wordOn (.pnot x) fun w => w.predWord x fun a _ => !a

/-- `PTEST` (R145). -/
def execPtest (x : PtestW) (s : State) : Host.Outcome State Fault Refusal :=
  s.wordOn (.ptest x) fun w =>
    w.putPred x.pd.toNat (w.active x.g) (if x.fn = 1 then (if w.poisoned = 0 then 0 else BitVec.allOnes 32) else w.pz)

/-- `PCLR` (R145). -/
def execPclr (x : PtestW) (s : State) : Host.Outcome State Fault Refusal :=
  s.wordOn (.pclr x) fun w => { w with pz := w.pz &&& ~~~ w.active x.g }

/-- `NOP` (R71): no effect but the next word. -/
def execNop (x : NopW) (s : State) : Host.Outcome State Fault Refusal := s.wordOn (.nop x) fun w => w

end Sys2Proof.Machine
end

