-- ==== Sys2Proof/Machine/Lane.lean ====
section
/-! DEFINITION. The cross-lane words (R148-R152) and the step that scans, trees and loop reductions share (R41). -/

namespace Sys2Proof

/-- The identity of a reduction: 0 add, 1 minimum, 2 maximum (R41, R152), in every element. -/
def Ty.identity (t : Ty) (op : Nat) : Nat :=
  t.join fun _ =>
    if t.fltAll then (match op with
      | 0 => t.ffmt.withSign true 0
      | 1 => t.ffmt.infBits false
      | _ => t.ffmt.infBits true)
    else (match op with
      | 0 => 0
      | 1 => wrapInt t.width t.maxInt
      | _ => wrapInt t.width t.minInt)

/-- One step of a scan or reduction on whole operands, floating steps rounded (R148, R151). -/
def Ty.combine (t : Ty) (op : Nat) (mode : Rnd) (daz ftz : Bool) (q : Word) (a b : Nat) : Nat :=
  t.join fun k =>
    let x := t.elem a k
    let y := t.elem b k
    if t.fltAll then (match op with
      | 0 => t.ffmt.roundFV mode ftz q (FV.add mode (t.ffmt.read daz x) (t.ffmt.read daz y))
      | 1 => t.ffmt.pick false false daz ftz x y
      | _ => t.ffmt.pick true false daz ftz x y)
    else (match op with
      | 0 => wrapInt t.width (t.int x + t.int y)
      | 1 => if t.int y < t.int x then y else x
      | _ => if t.int x < t.int y then y else x)

/-- One level of the pairwise tree: neighbours combined, the lower lane on the left. -/
def pairUp (f : Nat → Nat → Nat) : List Nat → List Nat
  | a :: b :: xs => f a b :: pairUp f xs
  | xs => xs

/-- The fixed tree of R152 over 32 lane values. -/
def laneTree (f : Nat → Nat → Nat) (x : Nat → Nat) : Nat :=
  ((pairUp f (pairUp f (pairUp f (pairUp f (pairUp f ((List.range 32).map x)))))).headD 0)

namespace Machine

/-- The rounding of `LSCAN`, `LRED` and loop reductions: DYN that names SR rounds RNE (R148, R186; DEDUCED, log entry 50). -/
def foldRnd (fmode : Word) (r : Rnd) : Rnd := if rndOf fmode r = .sr then .rne else rndOf fmode r

/-- A participant's poison reaches every active lane (R148). -/
def Warp.crossPoison (w : Warp) (act : Lanes) : Warp := if w.pz &&& act = 0 then w else w.poison act

/-- A cross-lane result in each active lane; L0 and L1 keep their values (R148). -/
def Warp.cross (w : Warp) (d : Spec) (n : Nat) (act : Lanes) (f : Nat → Nat) : Warp :=
  (w.putLanes d n act f).crossPoison act

/-- The source lane of `LSHUF`: none for a lane that keeps its own A (R149). -/
def shufSrc (mode b l : Nat) : Nat :=
  match mode with
  | 0 => b % 32
  | 1 => l ^^^ (b % 32)
  | 2 => if b ≤ l then l - b else l
  | _ => if l + b < 32 then l + b else l

/-- `LSHUF` (R149). -/
def execLshuf (x : Alu2) (s : State) : Host.Outcome State Fault Refusal :=
  s.wordOn (.lshuf x) fun w =>
    let act := w.active x.g
    w.cross x.d x.ty.regs act fun l =>
      let src := shufSrc x.fn.toNat (w.opd32 x.b l 1).toNat l
      if act.getLsbD src then w.src x.ty x.a src (8 + l) else 0

/-- `LBCAST` (R149). -/
def execLbcast (x : Alu2) (s : State) : Host.Outcome State Fault Refusal :=
  s.wordOn (.lbcast x) fun w =>
    let act := w.active x.g
    w.cross x.d x.ty.regs act fun l =>
      let src := if x.fn = 1 then lowLane act else (w.opd32 x.b l 1).toNat % 32
      if act.getLsbD src then w.src x.ty x.a src (8 + l) else 0

/-- `LVOTE` (R150): ALL, ANY, UNI into a predicate, or the ballot mask into a V register. -/
def execLvote (x : VoteW) (s : State) : Host.Outcome State Fault Refusal :=
  s.wordOn (.lvote x) fun w =>
    let act := w.active x.g
    let yes := w.psrc x.pa &&& act
    let all := yes == act
    let some_ := yes != 0
    match x.fn.toNat with
    | 3 => w.cross (.v x.d) 1 act fun _ => yes.toNat
    | m =>
      let r := if m = 0 then all else if m = 1 then some_ else all || !some_
      (w.putPred x.d.toNat act (if r then BitVec.allOnes 32 else 0)).crossPoison act

/-- `LCNT` (R150). -/
def execLcnt (x : VoteW) (s : State) : Host.Outcome State Fault Refusal :=
  s.wordOn (.lcnt x) fun w =>
    let act := w.active x.g
    let yes := lanesOf (w.psrc x.pa &&& act)
    w.cross (.v x.d) 1 act fun l => if x.fn = 1 then (yes.filter fun k => k < l).length else yes.length

/-- A running value through the active lanes, and what each lane receives (R151; DEDUCED, log entry 50). -/
def scanLanes (exc : Bool) (f : Nat → Nat → Nat) (a : Nat → Nat) : Nat → List Nat → Map Nat
  | _, [] => []
  | r, l :: ls => (l, if exc then r else f r (a l)) :: scanLanes exc f a (f r (a l)) ls

/-- `LSCAN` (R151). -/
def execLscan (x : Alu2) (s : State) : Host.Outcome State Fault Refusal :=
  s.wordOn (.lscan x) fun w =>
    let act := w.active x.g
    let op := x.fn.toNat % 4
    let daz := fmodeDaz w.fmode
    let step := x.ty.combine op (foldRnd w.fmode x.rnd) daz (fmodeFtz w.fmode) 0
    let first := w.operand x.ty x.b 0 1
    let init := if x.ty.fltAll then x.ty.join fun k => x.ty.ffmt.flush daz (x.ty.elem first k) else first
    let out := scanLanes (decide (4 ≤ x.fn.toNat)) step (fun l => w.src x.ty x.a l) init (lanesOf act)
    let w1 := w.cross x.d x.ty.regs act fun l => out.getD l 0
    if x.ty.fltAll && fmodeNanp w.fmode then w1.poison (maskOf fun l => act.getLsbD l && x.ty.anyNaN (out.getD l 0)) else w1

/-- `LRED` (R152). -/
def execLred (x : Alu2) (s : State) : Host.Outcome State Fault Refusal :=
  s.wordOn (.lred x) fun w =>
    let act := w.active x.g
    let op := x.fn.toNat % 4
    let step := x.ty.combine op (foldRnd w.fmode x.rnd) (fmodeDaz w.fmode) (fmodeFtz w.fmode) 0
    let r := laneTree step fun l => if act.getLsbD l then w.src x.ty x.a l else x.ty.identity op
    let w1 := w.cross x.d x.ty.regs act fun _ => r
    if x.ty.fltAll && fmodeNanp w.fmode && x.ty.anyNaN r then w1.poison act else w1

end Machine

end Sys2Proof
end

