-- ==== Sys2Proof/Machine/Queues.lean ====
section
/-! DEFINITION. The queue registers and the words that use them: `MOV`, `QPUSH`, `QPOP`, `QFENCE`, `CPY`, `EVICT`,
`EVPOP`, `EVWAIT`, the select words and the select unit (R61-R64, R153-R157, R179-R182, R206, R213). -/

namespace Sys2Proof

/-- A queue's number in a share: its specifier less 0x40 (R61). -/
def Queue.idx : Queue → Nat
  | .qma => 0
  | .qmw => 1
  | .qmo => 2
  | .qca => 3
  | .qcb => 4
  | .qce => 5
  | .qsi => 6
  | .qso => 7
  | .qek => 8

/-- The bit of a queue in the mask of `QFENCE`; none for a queue no program pushes to (R180). -/
def Queue.fenceBit : Queue → Option Nat
  | .qma => some 0
  | .qmw => some 1
  | .qca => some 2
  | .qcb => some 3
  | .qsi => some 4
  | .qek => some 5
  | _ => none

namespace Machine

/-- An entry of zeros. -/
def QEntry.blank : QEntry :=
  { id := 0, data := List.replicate 32 0, poison := false, lanes := 0, sel := 0, selA := 0, selB := 0, uid := 0, task := 0,
    counted := false, after := [], qafter := [] }

/-- A command as an engine accepts it: with the task whose frame its completion token names (R322). -/
def QEntry.accepted (e : QEntry) (names : Bool) (task : Nat) : QEntry := { e with names := if names then task else 256 }

/-- The entries of a queue of a share, oldest first. -/
def Share.queue (x : Share) (q : Queue) : List QEntry := x.queues.getD q.idx []

/-- A share with a queue replaced. -/
def Share.setQueue (x : Share) (q : Queue) (es : List QEntry) : Share := { x with queues := x.queues.put q.idx es }

/-- Free entries of a queue. -/
def Share.room (x : Share) (q : Queue) : Nat := q.depth - (x.queue q).length

/-- The record of an engine that takes a command or a row whose mark an error set: as of the word that pushed it (R392). -/
def State.noteEntry (s : State) (c g : Nat) (e : QEntry) : State :=
  if e.err = 0 then s else s.noteFor e.uid e.id { FaultRec.engine 0x30 4 c g with d0 := BitVec.ofNat 32 e.err }

/-- The record of the issuing word, where an error set the mark of an entry that it takes: one for the word (R251, R392). -/
def State.noteTaken (s : State) (lanes : Lanes) (es : List QEntry) : State :=
  match es.find? fun e => e.err ≠ 0 with
  | some e => s.noteWarp { s.w.faultRec 0x30 4 lanes with d0 := BitVec.ofNat 32 e.err }
  | none => s

/-- Whether an entry has been performed: no queue, copy command or Encke command of the share holds it (R180). -/
def State.entryDone (s : State) (c g id : Nat) : Bool :=
  let x := s.d.share c g
  (x.queues.all fun p => p.2.all fun e => e.id ≠ id) &&
  ((x.copyA.toList ++ x.copyB.toList).all fun k => k.entry.id ≠ id || k.finished) &&
  (s.d.dies.all fun p => p.2.encke.all fun k => k.entry.id ≠ id)

/-- Whether an entry may begin: its release holds, and the entries a `QFENCE` makes it wait for are performed. -/
def State.entryReady (s : State) (c g : Nat) (e : QEntry) : Bool :=
  s.depsDone e.after && e.qafter.all (s.entryDone c g)

/-- The outstanding writes of a warp, in every lane: what a release of it covers (R258). -/
def State.writesOf (s : State) (uid : Nat) : List Dep :=
  ((s.d.ops.filter fun o => o.uid = uid && o.isWrite).map fun o => { op := o.id, lane := 32 }) ++
  ((s.d.loops.filter fun o => o.uid = uid).map fun o => { op := o.id, lane := 32 })

/-- What an entry of the issuing warp waits for: a release fence before it, and its own release (R175, R179); a select
entry waits for no fence (R158). -/
def State.pushDeps (s : State) (q : Queue) (rls : Bool) : List Dep :=
  (if q = .qsi then [] else s.w.relAfter) ++ (if rls then s.writesOf s.w.uid else [])

/-- The entries that the issuing warp's fences make an entry of a queue wait for (R180). -/
def Warp.fencedBy (w : Warp) (q : Queue) : List Nat :=
  match q.fenceBit with
  | some b => (w.qfences.filter fun f => f.1.testBit b).flatMap Prod.snd
  | none => []

/-- Entries placed at the tail of a queue of the issuing warp's share, named afresh (R62). -/
def State.pushAll (s : State) (q : Queue) (rls : Bool) : List QEntry → State
  | [] => s
  | e :: es =>
    let n := s.fresh
    let e1 := { e with id := n.1, uid := s.w.uid, task := s.w.task, after := s.pushDeps q rls, qafter := s.w.fencedBy q }
    (n.2.mapShare s.w.ctx s.w.core fun x => x.setQueue q (x.queue q ++ [e1])).pushAll q rls es

/-- The warp blocked at a word of its queue, which has performed nothing (R63). -/
def State.blockOn (s : State) (i : Instr) : State := s.mapWarp fun w => { w with status := .blocked i }

/-- A queue word done: the warp runs on at its next word. -/
def State.doneAt (s : State) (i : Instr) : State := (s.mapWarp fun w => { w with status := .running }).advance i

/-- The row a push forms: the active lanes' words, marked where one of them is poisoned, with the lanes that gave them (R62). -/
def Warp.row (w : Warp) (act : Lanes) (x : Spec) : QEntry :=
  { QEntry.blank with
    data := (List.range 32).map fun l => if act.getLsbD l then w.read32 x l else 0
    poison := w.pz &&& act != 0, lanes := act }

/-- A popped entry written to each active lane, its mark poisoning them (R62). -/
def Warp.takeRow (w : Warp) (act : Lanes) (e : QEntry) (put : (Nat → Nat) → Warp → Warp) : Warp :=
  let w1 := put (fun l => (e.data.getD l 0).toNat) w
  if e.poison then w1.poison act else w1

/-! ### Pushes and pops (R62, R63, R179) -/

/-- `QPUSH` where there is room, else blocked. -/
def State.qpushStep (s : State) (x : SysW) : State :=
  match x.d with
  | .q q =>
    let n := x.fn.toNat + 1
    if (s.d.share s.w.ctx s.w.core).room q < n then s.blockOn (.qpush x)
    else
      let act := s.w.active x.g
      (s.pushAll q x.ctl.rls ((List.range n).map fun k => s.w.row act (x.a.plus k))).doneAt (.qpush x)
  | _ => s.doneAt (.qpush x)

/-- `QPOP` where its entries are present, else blocked. -/
def State.qpopStep (s : State) (x : SysW) : State :=
  match x.a with
  | .q q =>
    let n := x.fn.toNat + 1
    let es := (s.d.share s.w.ctx s.w.core).queue q
    if es.length < n then s.blockOn (.qpop x)
    else
      let act := s.w.active x.g
      let take := fun (w : Warp) (p : QEntry × Nat) => w.takeRow act p.1 fun f v => v.putLanes (x.d.plus p.2) 1 act f
      (((s.mapShare s.w.ctx s.w.core fun y => y.setQueue q (es.drop n)).noteTaken act (es.take n)).mapWarp fun w =>
        ((es.take n).zipIdx).foldl take w).doneAt (.qpop x)
  | _ => s.doneAt (.qpop x)

/-- `MOV` (R129): register bits, or a push or pop of one entry without release; with a queue in both places the popped
row is pushed, once both can be done (R63, R66; DEDUCED, log entry 53). -/
def State.movStep (s : State) (x : Alu2) : State :=
  let i : Instr := .mov x
  match x.d, x.a with
  | .q q, .q k =>
    match (s.d.share s.w.ctx s.w.core).queue k with
    | [] => s.blockOn i
    | e :: es =>
      if (s.d.share s.w.ctx s.w.core).room q = 0 then s.blockOn i
      else
        let act := s.w.active x.g
        let t := ((s.mapShare s.w.ctx s.w.core fun y => y.setQueue k es).noteTaken act [e]).mapWarp fun w => if e.poison then w.poison act else w
        (t.pushAll q false [{ t.w.row act (.imm 0) with data := (List.range 32).map fun l => if act.getLsbD l then e.data.getD l 0 else 0 }]).doneAt i
  | .q q, a =>
    if (s.d.share s.w.ctx s.w.core).room q = 0 then s.blockOn i
    else (s.pushAll q false [s.w.row (s.w.active x.g) a]).doneAt i
  | d, .q q =>
    match (s.d.share s.w.ctx s.w.core).queue q with
    | [] => s.blockOn i
    | e :: es =>
      let act := s.w.active x.g
      (((s.mapShare s.w.ctx s.w.core fun y => y.setQueue q es).noteTaken act [e]).mapWarp fun w =>
        w.takeRow act e fun f v => v.putResult x.ctl d 1 act f).doneAt i
  | _, a => (s.mapWarp fun w => w.alu2 x x.ty.regs fun l => w.src x.ty a l).advance i

/-- `QPUSH` (R179). -/
def execQpush (x : SysW) (s : State) : Host.Outcome State Fault Refusal := s.checked (.qpush x) fun t => t.qpushStep x

/-- `QPOP` (R179). -/
def execQpop (x : SysW) (s : State) : Host.Outcome State Fault Refusal := s.checked (.qpop x) fun t => t.qpopStep x

/-- `MOV` (R129). -/
def execMov (x : Alu2) (s : State) : Host.Outcome State Fault Refusal := s.checked (.mov x) fun t => t.movStep x

/-- The unperformed entries of the queues a mask names: queued, in a copy engine's hand or at Encke (R180). -/
def State.fenceSet (s : State) (c g mask : Nat) : List Nat :=
  let x := s.d.share c g
  let names := fun (q : Queue) => match q.fenceBit with
    | some b => mask.testBit b
    | none => false
  let qs := [Queue.qma, .qmw, .qca, .qcb, .qsi, .qek].filter names
  let queued := qs.flatMap fun q => (x.queue q).map QEntry.id
  let copies := (if names .qca then x.copyA.toList else []) ++ (if names .qcb then x.copyB.toList else [])
  let atEncke := if names .qek then s.d.dies.flatMap fun p =>
    (p.2.encke.filter fun k => k.ctx = c && k.core = g).map fun k => k.entry.id else []
  queued ++ ((copies.filter fun k => !k.finished).map fun k => k.entry.id) ++ atEncke

/-- `QFENCE` (R180): a marker; markers whose entries are all performed are discarded. -/
def execQfence (x : SysW) (s : State) : Host.Outcome State Fault Refusal :=
  s.checked (.qfence x) fun t =>
    let set := t.fenceSet t.w.ctx t.w.core x.mod.toNat
    (t.mapWarp fun w => { w with qfences :=
      (w.qfences.filter fun f => !f.2.all (t.entryDone w.ctx w.core)) ++ [(x.mod.toNat, set)] }).advance (.qfence x)

/-! ### Commands (R182, R213) -/

/-- The command entry of 16 S registers from `x`: marked where any filled lane is poisoned (R62). -/
def Warp.command (w : Warp) (x : Spec) : QEntry :=
  { QEntry.blank with
    data := ((List.range 16).map fun k => w.read32 (x.plus k) 0) ++ List.replicate 16 0
    poison := w.poisoned != 0, lanes := BitVec.allOnes 32 }

/-- `CPY` where there is room, else blocked; it counts in CPC and stalls at 255 (R54, R182). -/
def State.cpyStep (s : State) (x : SysC) : State :=
  let q : Queue := if x.fn.getLsbD 0 then .qcb else .qca
  if s.w.cpc = 255 then s.mapWarp fun w => { w with status := .counterStall .cp }
  else if (s.d.share s.w.ctx s.w.core).room q = 0 then s.blockOn (.cpy x)
  else
    ((s.pushAll q true [{ s.w.command x.a with counted := true }]).mapWarp fun w =>
      { w with cpc := w.cpc + 1 }).doneAt (.cpy x)

/-- `CPY` (R182). -/
def execCpy (x : SysC) (s : State) : Host.Outcome State Fault Refusal := s.checked (.cpy x) fun t => t.cpyStep x

/-- `EVICT` where there is room, else blocked (R213). -/
def State.evictStep (s : State) (x : SysW) : State :=
  if (s.d.share s.w.ctx s.w.core).room .qek = 0 then s.blockOn (.evict x)
  else (s.pushAll .qek true [s.w.command x.a]).doneAt (.evict x)

/-- `EVICT` (R213). -/
def execEvict (x : SysW) (s : State) : Host.Outcome State Fault Refusal := s.checked (.evict x) fun t => t.evictStep x

/-! ### The matrix engine's owner (R193, R194, R324) -/

/-- The context that owns a core's matrix engine. -/
def State.engineOwner (s : State) (g : Nat) : Option Nat :=
  (s.d.shares.find? fun p => p.1 % 256 = g && p.2.mx.owned).map fun p => p.1 / 256

/-- Whether a matrix word of the issuing warp stalls: another context owns the engine, or 16 instructions wait to
begin (R193, R324). -/
def State.matrixStalls (s : State) (c g : Nat) (queues : Bool) : Bool :=
  (match s.engineOwner g with
    | some o => o ≠ c
    | none => false) ||
  (queues && 16 ≤ ((s.d.share c g).mx.issued.filter fun m => !m.begun).length)

/-- The matrix state of a share changed. -/
def State.mapMx (s : State) (c g : Nat) (f : Matrix → Matrix) : State := s.mapShare c g fun x => { x with mx := f x.mx }

/-- Whether a context waits for a core's matrix engine that another owns: with a warp stalled at a matrix word, or with
ownership to retake after a restore (R323, R324, R326). -/
def State.engineWaits (s : State) (c g : Nat) : Bool :=
  (match s.engineOwner g with
    | some o => o ≠ c
    | none => false) && ((s.d.share c g).mx.due || s.allWarps.any fun w => w.ctx = c && w.core = g && w.status == .matrixStall)

/-- The wait of a context for a core's engine begun, where it has not begun yet (R323). -/
def State.startEngineWait (s : State) (c g : Nat) : State :=
  if s.engineWaits c g then s else s.mapShare c g fun x => { x with waitSince := (s.d.core g).clk, waitQuanta := 0 }

/-- A matrix word: it stalls at its issue, or goes on (R193, R324). -/
def State.matrixWord (s : State) (queues : Bool) (k : State) : State :=
  if s.matrixStalls s.w.ctx s.w.core queues then (s.startEngineWait s.w.ctx s.w.core).mapWarp fun w => { w with status := .matrixStall } else k

/-- The engine of a core taken by a context whose matrix word issues (R324). -/
def Matrix.take (y : Matrix) : Matrix := { y with owned := true, due := false }

/-- The issuing warp's context takes its core's engine (R324); R194 counts `EVPOP` and `EVWAIT` among the matrix words. -/
def State.ownEngine (s : State) : State := s.mapMx s.w.ctx s.w.core Matrix.take

/-! ### Events (R206) -/

/-- Eight S registers written with words 0 to 7 of an entry. -/
def Warp.putEvent (w : Warp) (d : Spec) (ws : List Word) : Warp :=
  (List.range 8).foldl (fun v k => v.putSpec (d.plus k) 0 (ws.getD k 0)) w

/-- An event taken from `QCE`; a mark, which only an error sets, poisons every active lane (R62, R206, R392). -/
def State.takeEvent (s : State) (x : SysW) (e : QEntry) (es : List QEntry) : State :=
  let act := s.w.active x.g
  ((s.mapShare s.w.ctx s.w.core fun y => y.setQueue .qce es).noteTaken act [e]).mapWarp fun w =>
    let v := w.putEvent x.d e.data
    if e.poison then v.poison act else v

/-- `EVPOP` where the engine is the context's: zeros where `QCE` is empty (R206). -/
def State.evpopStep (s : State) (x : SysW) : State :=
  match (s.d.share s.w.ctx s.w.core).queue .qce with
  | [] => (s.mapWarp fun w => w.putEvent x.d []).advance (.evpop x)
  | e :: es => (s.takeEvent x e es).advance (.evpop x)

/-- `EVPOP` (R206, R324; DEDUCED, log entry 58). -/
def execEvpop (x : SysW) (s : State) : Host.Outcome State Fault Refusal :=
  s.checked (.evpop x) fun t => t.matrixWord false (t.ownEngine.evpopStep x)

/-- `EVWAIT` where the engine is the context's and an entry is present, else blocked. -/
def State.evwaitStep (s : State) (x : SysW) : State :=
  match (s.d.share s.w.ctx s.w.core).queue .qce with
  | [] => s.blockOn (.evwait x)
  | e :: es => (s.takeEvent x e es).doneAt (.evwait x)

/-- `EVWAIT` (R206, R324; DEDUCED, log entry 58). -/
def execEvwait (x : SysW) (s : State) : Host.Outcome State Fault Refusal :=
  s.checked (.evwait x) fun t => t.matrixWord false (t.ownEngine.evwaitStep x)

/-! ### The select words (R154, R155, R157) -/

/-- `SELCFG` where `QSI` has room: the entry carries k, c, the order and the type. -/
def State.selcfgStep (s : State) (x : Alu2) : State :=
  if (s.d.share s.w.ctx s.w.core).room .qsi = 0 then s.blockOn (.selcfg x)
  else
    let w := s.w
    let e := { QEntry.blank with
      sel := 0, selA := w.read32 x.a 0, selB := w.opd32 x.b 0 1
      data := [BitVec.ofNat 32 x.fn.toNat, BitVec.ofNat 32 (if x.ty = .i32 then 0 else if x.ty = .f32 then 2 else 1)] }
    (s.pushAll .qsi false [e]).doneAt (.selcfg x)

/-- `SELCFG` (R155). -/
def execSelcfg (x : Alu2) (s : State) : Host.Outcome State Fault Refusal := s.checked (.selcfg x) fun t => t.selcfgStep x

/-- `SELPUSH` where `QSI` has room; a poisoned participant, one of its active lanes, poisons every active lane. -/
def State.selpushStep (s : State) (x : Alu2) : State :=
  if (s.d.share s.w.ctx s.w.core).room .qsi = 0 then s.blockOn (.selpush x)
  else
    let act := s.w.active x.g
    let e := { s.w.row act x.a with sel := if x.fn = 1 then 2 else 1, selB := s.w.opd32 x.b 0 1, lanes := act }
    ((s.pushAll .qsi false [e]).mapWarp fun w => w.crossPoison act).doneAt (.selpush x)

/-- `SELPUSH` (R155). -/
def execSelpush (x : Alu2) (s : State) : Host.Outcome State Fault Refusal := s.checked (.selpush x) fun t => t.selpushStep x

/-- `SELPOP` (R155, R157): the request enters `QSI` once; the warp is blocked until its own result is in `QSO`. The
selection's mark alone poisons: a poisoned active lane of the pop, or of `SELCFG`, is no participant of R42 (DEDUCED, log
entry 84). -/
def State.selpopStep (s : State) (x : Alu2) : State :=
  let i : Instr := .selpop x
  let sh := s.d.share s.w.ctx s.w.core
  let mine := fun (e : QEntry) => e.uid = s.w.uid
  match (sh.queue .qso).find? mine with
  | some e =>
    let act := s.w.active x.g
    (((s.mapShare s.w.ctx s.w.core fun y => y.setQueue .qso ((y.queue .qso).filter fun k => k.id ≠ e.id)).noteTaken act [e]).mapWarp fun w =>
      w.takeRow act e fun f v => v.putLanes x.d 1 act f).doneAt i
  | none =>
    if (sh.queue .qsi).any fun e => mine e && decide (3 ≤ e.sel) then s.blockOn i
    else if sh.room .qsi = 0 then s.blockOn i
    else
      let e := { QEntry.blank with sel := if x.fn = 1 then 4 else 3, selA := s.w.read32 x.a 0 }
      (s.pushAll .qsi false [e]).blockOn i

/-- `SELPOP` (R155). -/
def execSelpop (x : Alu2) (s : State) : Host.Outcome State Fault Refusal := s.checked (.selpop x) fun t => t.selpopStep x

/-! ### The select unit (R153-R156) -/

/-- Whether value `a` ranks strictly above value `b`: a NaN below every number (R156). -/
def Select.better (x : Select) (a b : Word) : Bool :=
  match x.ty with
  | .f32 =>
    let p := fmt32.read false a.toNat
    let q := fmt32.read false b.toNat
    match p.cmp q with
    | some .gt => x.largest
    | some .lt => !x.largest
    | some .eq => false
    | none => !p.isNaN && q.isNaN
  | t => if x.largest then t.int b.toNat < t.int a.toNat else t.int a.toNat < t.int b.toNat

/-- A candidate in its place of the ranking: behind every candidate it does not outrank; equal values rank by index,
and equal index by push order (R156). -/
def Select.insert (x : Select) (y : Cand) : List Cand → List Cand
  | [] => [y]
  | z :: zs =>
    if x.better y.val z.val || (!x.better z.val y.val && decide (y.idx.toNat < z.idx.toNat)) then y :: z :: zs
    else z :: x.insert y zs

/-- The selection after a row: a candidate in each column whose lane is active (R155). -/
def Select.push (x : Select) (e : QEntry) : Select :=
  let idx := if e.sel = 2 then e.selB else x.row
  let cols := ((lanesOf e.lanes).filter fun l => l < x.c).foldl (fun m l =>
    m.put l ((x.insert { val := e.data.getD l 0, idx := idx } (m.getD l [])).take x.k)) x.cols
  { x with cols := cols, row := if e.sel = 2 then x.row else x.row + 1, poison := x.poison || e.poison }

/-- The selection that `SELCFG` opens; its mark is clear but where its own entry carries one (R62, R155). -/
def Select.config (e : QEntry) : Select :=
  { Select.initial with
    poison := e.poison
    k := (satInt e.selA.toInt 1 64).toNat
    c := (satInt e.selB.toInt 1 32).toNat
    largest := e.data.getD 0 0 == 0
    ty := if e.data.getD 1 0 = 0 then .i32 else if e.data.getD 1 0 = 2 then .f32 else .u32 }

/-- The row that a pop of a rank returns (R155). -/
def Select.rank (x : Select) (e : QEntry) : QEntry :=
  let r := e.selA.toNat
  let none_ : Word := if e.sel = 4 then 0xFFFFFFFF#32 else 0
  let col := fun j =>
    if x.c ≤ j || x.k ≤ r then none_
    else match (x.cols.getD j [])[r]? with
      | some c => if e.sel = 4 then c.idx else c.val
      | none => none_
  { e with data := (List.range 32).map col, poison := x.poison || e.poison, err := if x.err then 0x0D else 0 }

/-- SELECT_ENTRY: the select unit performs the next entry of a context's `QSI` (R153, R155). An entry that `QPUSH` or `MOV`
placed there opens a selection with k = 1 and c = 1, its order and type from words 0 and 1 (R61, R179; DESIGN CHOICE, log
entry 99). -/
def execSelectEntry (ctx core : Nat) (s : State) : Host.Outcome State Fault Refusal :=
  let x := s.d.share ctx core
  match x.queue .qsi with
  | [] => .next s
  | e :: es =>
    if !s.mayRun ctx core || !s.entryReady ctx core e then .next s
    else if 3 ≤ e.sel then
      (if x.room .qso = 0 then .next s
       else .next ((s.noteEntry ctx core e).mapShare ctx core fun y => (y.setQueue .qsi es).setQueue .qso (y.queue .qso ++ [x.sel.rank e])))
    else
      let sel := if e.sel = 0 then Select.config e else x.sel.push e
      .next ((s.noteEntry ctx core e).mapShare ctx core fun y => { y.setQueue .qsi es with sel := sel })

/-! ### Unblocking (R63) -/

/-- A blocked word tried again. -/
def State.queueStep (s : State) (i : Instr) : State :=
  match i with
  | .qpush x => s.qpushStep x
  | .qpop x => s.qpopStep x
  | .mov x => s.movStep x
  | .cpy x => s.cpyStep x
  | .evict x => s.evictStep x
  | .evwait x => s.evwaitStep x
  | .selcfg x => s.selcfgStep x
  | .selpush x => s.selpushStep x
  | .selpop x => s.selpopStep x
  | _ => s

/-- QUEUE_UNBLOCK: a blocked push or pop is performed once room or an entry has appeared (R63). -/
def execQueueUnblock (uid : Nat) (s : State) : Host.Outcome State Fault Refusal :=
  match s.warp uid with
  | some w => match w.status with
    | .blocked i => if s.warpOn w then .next ((s.focus uid).queueStep i) else .next s
    | _ => .next s
  | none => .next s

end Machine

end Sys2Proof
end

