-- ==== Sys2Proof/Machine/Memory.lean ====
section
/-! DEFINITION. The issue of memory words: addresses, checks, the split into pieces, translation and its faults, and
the words over global memory, scratch and frames (R53, R79, R80, R120, R159-R171, R335, R342-R346). -/

namespace Sys2Proof

/-- Where narrow element `e` of an array lies: byte offset, bytes, bit shift and the bits its place holds (R38). -/
def NFmt.elemAt (f : NFmt) (e : Int) : Int × Nat × Nat × Nat :=
  if f.style = .o && f.width = 6 then
    let j := (e % 4).toNat
    (e / 4 * 3 + ((6 * j / 8 : Nat) : Int), if j = 1 || j = 2 then 2 else 1, 6 * j % 8, 6)
  else if f.width ≤ 4 then (e / 2, 1, 4 * (e % 2).toNat, 4)
  else (e, 1, 0, 8)

/-- The special code of an N-style format, or a number no code has (R34; DEDUCED, log entry 55). -/
def NFmt.specialCode (f : NFmt) : Nat := if f.style = .n then 2 ^ (f.width - 1) else 2 ^ 32

end Sys2Proof

namespace Sys2Proof.Machine

/-! ### Addresses (R53, R79, R160) -/

/-- The base of a global access: an address, or a bound translation register. -/
inductive GBase where
  | virt (b : Nat)
  | treg (t : TReg)

/-- The virtual address that offset 0 of a base names. -/
def GBase.va : GBase → Nat
  | .virt b => b
  | .treg t => t.vbase

/-- The translation register a page gives a virtual base (R178): limit 0 where the base does not translate. -/
def State.bindReg (s : State) (v len : Nat) : TReg :=
  match (if v < 2 ^ 57 then s.translate s.w.core s.w.ctx v else none) with
  | some x => { state := .bound, vbase := v, pbase := x.pa, limit := Nat.min len x.room, len := len, r := x.canRead, w := x.canWrite, nol1 := x.noL1, sysAtomic := x.sysAtomic }
  | none => { state := .bound, vbase := v, pbase := 0, limit := 0, len := len, r := false, w := false, nol1 := false, sysAtomic := false }

/-- A stale register named as a base is walked again and bound (R53). -/
def State.rebind (s : State) (a : Spec) : State :=
  match a with
  | .t n => match s.w.t.find n.toNat with
    | some t => if t.state = .stale then s.mapWarp fun w => { w with t := w.t.put n.toNat (s.bindReg t.vbase t.len) } else s
    | none => s
  | _ => s

/-- The base a specifier names: an unbound register is base 0 (R53). -/
def Warp.gbase (w : Warp) (a : Spec) : GBase :=
  match a with
  | .t n => match w.t.find n.toNat with
    | some t => if t.state = .bound then .treg t else .virt 0
    | none => .virt 0
  | .s _ => .virt (w.sPair a)
  | _ => .virt 0

/-- A lane's index: a V or S register as signed 32 bits, or 0 (R79). -/
def Warp.memIndex (w : Warp) (b : Spec) (l : Nat) : Int :=
  match b with
  | .v _ | .s _ => (w.read32 b l 1).toInt
  | _ => 0

/-- A lane's signed offset: index × 2^SCL + OFS. -/
def Warp.memOfs (w : Warp) (b : Spec) (scl : BitVec 2) (ofs : Int) (l : Nat) : Int :=
  w.memIndex b l * ((2 ^ scl.toNat : Nat) : Int) + ofs

/-! ### The pieces of an element (R164) -/

/-- The largest aligned piece at an address, of at most `n` bytes. -/
def pieceAt (a n : Nat) : Nat :=
  if 16 ≤ n && a % 16 = 0 then 16 else if 8 ≤ n && a % 8 = 0 then 8
  else if 4 ≤ n && a % 4 = 0 then 4 else if 2 ≤ n && a % 2 = 0 then 2 else 1

/-- An element of `n` bytes at `a` cut into its largest aligned pieces, with their places in it; `fuel` at most. -/
def splitAligned : Nat → Nat → Nat → Nat → List (Nat × Nat)
  | 0, _, _, _ => []
  | fuel + 1, a, n, k =>
    if n = 0 then []
    else
      let p := pieceAt a n
      (k, p) :: splitAligned fuel (a + p) (n - p) (k + p)

/-- A piece of a lane's access before translation: its offset from the base modulo 2^64. `gone` pieces of poisoned
lanes are checked and not performed (R44); `lanes` are those it acts for, 0 for the one lane alone. -/
structure Want where
  lane : Nat
  off : Nat
  size : Nat
  byteOfs : Nat
  act : Act
  gone : Bool
  lanes : Lanes := 0

/-- The part of a data value at a place in the element. -/
def dataPart (data k n : Nat) : Nat := data / 2 ^ (8 * k) % 2 ^ (8 * n)

/-- The pieces of an element of `n` bytes at a base and offset. -/
def wants (base : GBase) (lane off n : Nat) (gone : Bool) (act : Nat → Nat → Act) : List Want :=
  (splitAligned 17 ((base.va + off) % 2 ^ 64) n 0).map fun p =>
    { lane := lane, off := (off + p.1) % 2 ^ 64, size := p.2, byteOfs := p.1, act := act p.1 p.2, gone := gone }

/-! ### Translation and its faults (R53, R160, R332, R342, R346) -/

/-- Where an access goes and what the page allows. -/
structure Hit where
  pa : Nat
  r : Bool
  w : Bool
  nol1 : Bool
  sysAtomic : Bool

/-- The translation of an offset from a base by core `g` (R53). -/
def State.hit (s : State) (g c : Nat) (base : GBase) (off : Nat) : Option Hit :=
  let walk := (s.translate g c ((base.va + off) % 2 ^ 64)).map fun x =>
    ({ pa := x.pa, r := x.canRead, w := x.canWrite, nol1 := x.noL1, sysAtomic := x.sysAtomic } : Hit)
  match base with
  | .treg t => if off < t.limit then some { pa := t.pbase + off, r := t.r, w := t.w, nol1 := t.nol1, sysAtomic := t.sysAtomic } else walk
  | .virt _ => walk

/-- The code and DETAIL0 of the fault an access meets; `kind` is 0 for a read, 1 a write, 2 an atomic. -/
def State.accessFault (s : State) (c task va kind : Nat) (h : Option Hit) : Option (Nat × Nat) :=
  match h with
  | none => some (0x20, kind)
  | some x =>
    let k := s.d.ctx c
    if !(if kind = 0 then x.r else if kind = 1 then x.w else x.r && x.w) then some (0x21, kind)
    else if kind ≠ 0 && k.hostBarred va x.pa then some (0x21, kind)
    else if kind ≠ 0 && k.needsPage task va && k.freePage.isNone then some (0x20, 3)
    else none

/-- A fault a lane met. -/
structure Miss where
  lane : Nat
  va : Nat
  code : Nat
  d0 : Nat

/-- What a word's accesses come to: the state after copies for revisions, the pieces, and the lanes' faults. -/
structure Plan where
  state : State
  pieces : List Piece
  misses : List Miss

/-- An atomic or addition is one step where the location is in device memory, or is shared with the host as SYSATOMIC
at system scope (R269). -/
def Act.setWhole (a : Act) (whole : Bool) : Act :=
  match a with
  | .red f d _ => .red f d whole
  | .atom o d c _ => .atom o d c whole
  | x => x

/-- One piece translated, its page for a revision's copy taken (R344). -/
def Plan.add (base : GBase) (ca sys : Bool) (kind : Nat) (x : Plan) (q : Want) : Plan :=
  let s := x.state
  let va := (base.va + q.off) % 2 ^ 64
  let h := s.hit s.w.core s.w.ctx base q.off
  let blank : Piece := { lane := q.lane, va := va, place := .phys 0, size := if q.gone then 0 else q.size, byteOfs := q.byteOfs, act := q.act, poisonMark := false, covers := false, l1 := false, ok := false, lanes := q.lanes }
  match s.accessFault s.w.ctx s.w.task va kind h, h with
  | none, some t =>
    if q.gone then x
    else
      let s1 := if kind = 0 then s else (s.cow s.w.ctx s.w.task va t.pa).getD s
      let p := { blank with
        place := .phys t.pa, ok := true, l1 := ca && !t.nol1 && kind = 0
        act := q.act.setWhole (isDevice t.pa || (sys && t.sysAtomic)) }
      { x with state := s1, pieces := x.pieces ++ [p] }
  | some e, _ =>
    { x with
      pieces := x.pieces ++ [blank]
      misses := x.misses ++ ((lanesOf blank.who).filter fun l => x.misses.all fun m => m.lane ≠ l).map fun l =>
        { lane := l, va := va, code := e.1, d0 := e.2 } }
  | none, none => x

/-- Whether two pieces touch one byte of virtual memory. -/
def Piece.vaMeets (p q : Piece) : Bool := p.va < q.va + q.size && q.va < p.va + p.size

/-- The lanes left unfinished: those that faulted, and for writes each lane whose bytes a lower unfinished lane also
writes (R165, R335). -/
def unfinished (write : Bool) (ps : List Piece) (bad : List Nat) : List Nat :=
  ps.foldl (fun acc p =>
    if acc.contains p.lane then acc
    else if write && ps.any (fun q => acc.contains q.lane && q.lane < p.lane && q.vaMeets p) then acc ++ [p.lane]
    else acc) bad

/-- The pieces with those of unfinished lanes held back, every lane of a release where one is (R335), and the lines one
word covers named (R165, R393). -/
def Plan.settled (x : Plan) (kind : Nat) (rls : Bool) : List Piece :=
  let held := if rls && !x.misses.isEmpty then x.pieces.map Piece.lane
    else unfinished (kind ≠ 0) x.pieces (x.misses.map Miss.lane)
  let ps := x.pieces.map fun p => if held.contains p.lane then { p with ok := false } else p
  if kind ≠ 1 then ps
  else
    let lineOf := fun (p : Piece) => match p.place with
      | .phys a => a / 64
      | .core _ _ => 0
    let covered := fun (l : Nat) =>
      let mine := ps.filter fun p => p.ok && lineOf p = l
      64 ≤ (mine.map Piece.size).foldl (· + ·) 0 &&
      (List.range 64).all fun k => mine.any fun p => (match p.place with
        | .phys a => a ≤ l * 64 + k && l * 64 + k < a + p.size
        | .core _ _ => false)
    let full := ((ps.map lineOf).eraseDups).filter covered
    ps.map fun p => if p.ok && full.contains (lineOf p) then { p with covers := true } else p

/-! ### Putting an operation in flight (R54, R55) -/

/-- An operation of the issuing warp's word. -/
def State.opOf (s : State) (i : Instr) (cls : CounterClass) : MemOp :=
  { id := 0, uid := s.w.uid, ctx := s.w.ctx, core := s.w.core, task := s.w.task, cls := cls, counted := true,
    isWrite := false, isAtomic := false, scratch := false, pieces := [], buf := [], marked := [], detected := 0, tile := s.w.tilecoord,
    dreg := 0, nreg := 0, ext := [], seqAt := 0, ovf := none, rls := false, after := [], word := i, pc := s.w.pc }

/-- What an access of the issuing warp waits for (R175, R167; DEDUCED, log entry 54). -/
def State.memAfter (s : State) (write rls : Bool) : List Dep :=
  s.w.acqAfter ++ (if write then s.w.relAfter else []) ++ (if rls then s.writesOf s.w.uid else [])

/-- The fault of the lowest lane among those met, whose code decides, and the lanes that met its code (R251). -/
def lowMiss (ms : List Miss) : Option (Miss × Lanes) :=
  ms.head?.map fun m =>
    let low := ms.foldl (fun (b : Miss) x => if x.lane < b.lane then x else b) m
    (low, maskOf fun l => ms.any fun x => x.lane = l && x.code = low.code)

/-- The park of a word at its issue, where lanes met translation faults (R251, R335). -/
def State.parkMisses (s : State) (ms : List Miss) : State :=
  match lowMiss ms with
  | none => s
  | some (m, lanes) => (s.countMiss s.w.ctx m.d0).parkTransl m.code lanes m.va m.d0

/-- The word of a warp just parked counted, to be counted down when it begins again (R55). -/
def State.holdCount (s : State) (k : Option CounterClass) : State :=
  match k with
  | some c => s.mapWarp fun w => { w.countUp c with heldCount := some c }
  | none => s

/-- A word that begins again counted down. -/
def Warp.releaseCount (w : Warp) : Warp :=
  match w.heldCount with
  | some c => { w.countDown c with heldCount := none }
  | none => w

/-- An operation in flight with the pieces given; none leaves nothing outstanding. -/
def State.launchOp (s : State) (o : MemOp) (ps : List Piece) : State :=
  if ps.isEmpty then s
  else
    let n := s.fresh
    let s1 : State := { n.2 with d := { n.2.d with ops := n.2.d.ops ++ [{ o with id := n.1, pieces := ps }] } }
    s1.mapWarp fun w => if o.counted then w.countUp o.cls else w

/-- The word issued: its operation in flight, the warp at its next word, parked there where lanes faulted (R335). -/
def Plan.issue (x : Plan) (i : Instr) (kind : Nat) (o : MemOp) : State :=
  ((x.state.launchOp o (x.settled kind o.rls)).parkMisses x.misses).advance i

/-- The stall of a word whose counter stands at 255 (R54). -/
def State.counted (s : State) (k : CounterClass) (f : State) : State :=
  if s.w.counter k = 255 then s.mapWarp fun w => { w with status := .counterStall k } else f

/-- The plan of the word's global accesses. -/
def State.plan (s : State) (base : GBase) (ca sys : Bool) (kind : Nat) (ws : List Want) : Plan :=
  ws.foldl (Plan.add base ca sys kind) { state := s, pieces := [], misses := [] }

/-! ### Checks of active lanes (R160, R251) -/

/-- A program fault where a check fails in any lane of a mask: the lowest one's address and detail (R251; DEDUCED, log entries 60 and 68). -/
def State.guardLanes (s : State) (code : Nat) (bad : Lanes) (addr : Nat → Nat) (d0 : Nat → Word) (k : State) : State :=
  if bad = 0 then k
  else s.raise { code := code, lanes := bad, address := addr (lowLane bad), d0 := d0 (lowLane bad) }

/-- The lanes of a mask for which a check fails. -/
def badLanes (act : Lanes) (f : Nat → Bool) : Lanes := maskOf fun l => act.getLsbD l && f l

/-- The checks of global addresses: alignment to `align` (1: none), then the range (R160, R164; DEDUCED, log entry 68).
The address of an element is that of its first byte: one that begins below 2^57 and runs past it meets 0x20 there
(DEDUCED, log entry 85). -/
def State.guardGlobal (s : State) (act : Lanes) (align : Nat) (va : Nat → Nat) (k : State) : State :=
  s.guardLanes 0x07 (badLanes act fun l => va l % align ≠ 0) va (fun _ => 0)
    (s.guardLanes 0x0D (badLanes act fun l => 2 ^ 57 ≤ va l) va (fun _ => 0) k)

/-- The record of elements suppressed at a sink (R44). -/
def State.sinkNote (s : State) (lanes : Lanes) (va : Nat → Nat) : State :=
  if lanes = 0 then s else s.noteWarp { s.w.faultRec 0x18 3 lanes with address := va (lowLane lanes) }

/-! ### Elements (R80, R168) -/

/-- The bytes of an element size code. -/
def eszBytes (e : BitVec 3) : Nat :=
  match e.toNat with
  | 0 | 1 => 1
  | 2 | 3 => 2
  | 5 => 8
  | 6 => 16
  | _ => 4

/-- How a load of an element size code fills its registers. -/
def eszExt (e : BitVec 3) : LoadExt :=
  match e.toNat with
  | 1 => .sign 1
  | 3 => .sign 2
  | _ => .zero

/-- The registers of an element size code. -/
def eszWords (e : BitVec 3) : Nat := if e = 5 then 2 else if e = 6 then 4 else 1

/-- A register's number. -/
def regNum : Spec → Nat
  | .v n | .s n => n.toNat
  | _ => 0

/-- The data a lane stores: the words of D and those after it. -/
def Warp.storeWords (w : Warp) (d : Spec) (n l : Nat) : Nat := ofWords ((List.range n).map fun k => w.read32 (d.plus k) l 3)

/-- The pieces of a narrow element: one, cut where it leaves its block of `cut` bytes: a 64-byte line for a load (R164),
4 KiB, the unit of translation, for a store, whose two pieces are one update (R168). -/
def narrowWants (cut : Nat) (base : GBase) (lane off n : Nat) (gone : Bool) (act : Nat → Nat → Act) : List Want :=
  if n = 2 && (base.va + off) % cut = cut - 1 then
    [{ lane := lane, off := off, size := 1, byteOfs := 0, act := act 0 1, gone := gone },
      { lane := lane, off := (off + 1) % 2 ^ 64, size := 1, byteOfs := 1, act := act 1 1, gone := gone }]
  else [{ lane := lane, off := off, size := n, byteOfs := 0, act := act 0 n, gone := gone }]

/-! ### LD, ST, LDX, STX (R166-R168) -/

/-- A lane's byte offset from the base: under `.NFn` the place of its element. -/
def State.lanePlace (s : State) (x : MemW) (l : Nat) : Int × Nat × Nat × Nat :=
  let o := s.w.memOfs x.b x.scl x.ofs.toInt l
  if x.esz = 7 then (nfmt (s.fdWord x.scope.toNat)).elemAt o else (o, eszBytes x.esz, 0, 0)

/-- The lanes' wants of a load. -/
def State.loadWants (s : State) (x : MemW) (base : GBase) (off : Nat → Nat) (l : Nat) : List Want :=
  let n := (s.lanePlace x l).2.1
  (if x.esz = 7 then narrowWants 64 else wants) base l (off l) n false fun _ _ => .load

/-- The lanes' wants of a store. -/
def State.storeWants (s : State) (x : MemW) (base : GBase) (off : Nat → Nat) (l : Nat) : List Want :=
  let p := s.lanePlace x l
  let gone := s.w.poisoned.getLsbD l
  if x.esz = 7 then
    let f := nfmt (s.fdWord x.scope.toNat)
    let code := (s.w.read32 x.d l 3).toNat % 2 ^ f.width * 2 ^ p.2.2.1
    let mask := (2 ^ p.2.2.2 - 1) * 2 ^ p.2.2.1
    narrowWants 4096 base l (off l) p.2.1 gone fun k n => .bits (dataPart code k n) (dataPart mask k n)
  else
    let data := s.w.storeWords x.d (eszWords x.esz) l
    wants base l (off l) p.2.1 gone fun k n => .store (dataPart data k n)

/-- The extension of a lane's loaded element (DEDUCED, log entry 55). -/
def State.loadExt (s : State) (x : MemW) (l : Nat) : LoadExt :=
  if x.esz = 7 then
    let f := nfmt (s.fdWord x.scope.toNat)
    .code f.width (s.lanePlace x l).2.2.1 f.specialCode
  else eszExt x.esz

/-- A load's operation. -/
def State.loadOp (s : State) (i : Instr) (x : MemW) (act : Lanes) : MemOp :=
  { s.opOf i .ld with
    dreg := regNum x.d, nreg := if x.esz = 7 then 1 else eszWords x.esz
    ext := (lanesOf act).map fun l => (l, s.loadExt x l)
    after := s.memAfter false false }

/-- A store's operation. -/
def State.storeOp (s : State) (i : Instr) (rls : Bool) : MemOp :=
  { s.opOf i .st with isWrite := true, rls := rls, after := s.memAfter true rls }

/-- A global load: `off` gives each lane's offset from the base. -/
def State.globalLoad (s : State) (i : Instr) (x : MemW) (base : GBase) (off : Nat → Nat) : State :=
  let act := s.w.active x.g
  s.counted .ld (s.guardGlobal act 1 (fun l => (base.va + off l) % 2 ^ 64)
    ((s.plan base (x.cp = 1) false 0 ((lanesOf act).flatMap (s.loadWants x base off))).issue i 0 (s.loadOp i x act)))

/-- A global store. -/
def State.globalStore (s : State) (i : Instr) (x : MemW) (base : GBase) (off : Nat → Nat) : State :=
  let act := s.w.active x.g
  let va := fun l => (base.va + off l) % 2 ^ 64
  s.counted .st (s.guardGlobal act 1 va
    (((s.sinkNote (act &&& s.w.poisoned) va).plan base false false 1
      ((lanesOf act).flatMap (s.storeWants x base off))).issue i 1 (s.storeOp i x.ctl.rls)))

/-- A lane's offset of `LD` and `ST`. -/
def State.ldOff (s : State) (x : MemW) (l : Nat) : Nat := wrapInt 64 (s.lanePlace x l).1

/-- A lane's address of `LDX` and `STX`: its 64-bit pair and OFS. -/
def State.ldxOff (s : State) (x : MemW) (l : Nat) : Nat := wrapInt 64 (((s.w.src .u64 x.b l 1 : Nat) : Int) + x.ofs.toInt)

/-- `LD` (R167). -/
def execLd (x : MemW) (s : State) : Host.Outcome State Fault Refusal :=
  s.checked (.ld x) fun t0 => let t := t0.rebind x.a; t.globalLoad (.ld x) x (t.w.gbase x.a) (t.ldOff x)

/-- `ST` (R167). -/
def execSt (x : MemW) (s : State) : Host.Outcome State Fault Refusal :=
  s.checked (.st x) fun t0 => let t := t0.rebind x.a; t.globalStore (.st x) x (t.w.gbase x.a) (t.ldOff x)

/-- `LDX` (R167). -/
def execLdx (x : MemW) (s : State) : Host.Outcome State Fault Refusal :=
  s.checked (.ldx x) fun t => t.globalLoad (.ldx x) x (.virt 0) (t.ldxOff x)

/-- `STX` (R167). -/
def execStx (x : MemW) (s : State) : Host.Outcome State Fault Refusal :=
  s.checked (.stx x) fun t => t.globalStore (.stx x) x (.virt 0) (t.ldxOff x)

/-! ### Core memory: LDS, STS, LDF, STF (R120, R161, R162) -/

/-- The pieces of a lane's element in core memory. -/
def corePieces (g byte lane n : Nat) (mark : Bool) (act : Nat → Nat → Act) : List Piece :=
  (splitAligned 17 byte n 0).map fun p =>
    { lane := lane, va := 0, place := .core g (byte + p.1), size := p.2, byteOfs := p.1, act := act p.1 p.2,
      poisonMark := mark, covers := false, l1 := false, ok := true }

/-- A load of core memory: `at_` gives each lane's core and byte. -/
def State.coreLoad (s : State) (i : Instr) (x : MemW) (act : Lanes) (at_ : Nat → Nat × Nat) : State :=
  let ps := (lanesOf act).flatMap fun l => corePieces (at_ l).1 (at_ l).2 l (eszBytes x.esz) false fun _ _ => .load
  (s.launchOp { s.loadOp i x act with scratch := true } ps).advance i

/-- A store to core memory: a poisoned lane's words take a mark (R43). -/
def State.coreStore (s : State) (i : Instr) (x : MemW) (act : Lanes) (at_ : Nat → Nat × Nat) : State :=
  let ps := (lanesOf act).flatMap fun l =>
    let data := s.w.storeWords x.d (eszWords x.esz) l
    corePieces (at_ l).1 (at_ l).2 l (eszBytes x.esz) (s.w.poisoned.getLsbD l) fun k n => .store (dataPart data k n)
  (s.launchOp { s.storeOp i x.ctl.rls with scratch := true } ps).advance i

/-- The gang window of a lane's frame on the issuing core (R162, R276). -/
def State.gangOf (s : State) (l : Nat) : Option Window :=
  (s.d.share s.w.ctx s.w.core).windows.find? fun x => x.frames.contains (s.w.core, s.w.frame.getD l 0)

/-- The window of a gang on a member core. -/
def State.memberWindow (s : State) (x : Window) (g : Nat) : Option Window :=
  (s.d.share s.w.ctx g).windows.find? fun y => y.gen = x.gen && y.retire = x.retire && y.retireCore = x.retireCore

/-- A lane's own-scratch offset (R161). -/
def State.ownOfs (s : State) (x : MemW) (l : Nat) : Int :=
  (((if x.a.isS then (s.w.read32 x.a 0).toNat else 0 : Nat)) : Int) + s.w.memOfs x.b x.scl x.ofs.toInt l

/-- A lane's remote pointer and the byte offset it gives (R162). -/
def State.remotePtr (s : State) (x : MemW) (l : Nat) : Nat := (s.w.read32 x.b l 1).toNat
def State.remoteOfs (s : State) (x : MemW) (l : Nat) : Int :=
  ((bitsOf (s.remotePtr x l) 20 0 + (if x.a.isS then (s.w.read32 x.a 0).toNat else 0) : Nat) : Int) + x.ofs.toInt

/-- The member core a lane's pointer names, where the pointer is good (R162). -/
def State.remoteCore (s : State) (x : MemW) (l : Nat) : Option (Window × Nat) :=
  let p := s.remotePtr x l
  match s.gangOf l with
  | none => none
  | some win =>
    if bitOf p 31 || bitsOf p 27 21 ≠ win.gen then none
    else (win.cores[bitsOf p 30 28]?).map fun g => (win, g)

/-- Whether a core lies within a latency class of the issuing one (R162). -/
def State.inClass (s : State) (cp : BitVec 2) (g : Nat) : Bool :=
  match cp.toNat with
  | 0 => g == s.w.core
  | 1 => g / 32 == s.w.core / 32
  | _ => true

/-- A scratch word over its active lanes, own or remote, after the checks of R161 and R162. Each check of R162 is made in
every active lane before the next one, as R251 orders an instruction's checks (DEDUCED, log entry 85). -/
def State.scratchWord (s : State) (x : MemW) (k : Lanes → (Nat → Nat × Nat) → State) : State :=
  let act := s.w.active x.g
  let c := s.d.ctx s.w.ctx
  let n := eszBytes x.esz
  if x.sub = 0 then
    let bad := badLanes act fun l => s.ownOfs x l < 0 || ((c.scratchBytes : Nat) : Int) < s.ownOfs x l + ((n : Nat) : Int)
    s.guardLanes 0x0A bad (fun _ => 0) (fun l => BitVec.ofInt 32 (s.ownOfs x l))
      (k act fun l => (s.w.core, c.scratchAt + (s.ownOfs x l).toNat))
  else
    let ptr := fun l => BitVec.ofNat 32 (s.remotePtr x l)
    let size := fun l => ((s.remoteCore x l).map fun p => p.1.size).getD 0
    let core := fun l => ((s.remoteCore x l).map Prod.snd).getD 0
    let base := fun l => (((s.remoteCore x l).bind fun p => s.memberWindow p.1 p.2).map Window.base).getD 0
    s.guardLanes 0x0B (badLanes act fun l => (s.remoteCore x l).isNone) (fun _ => 0) ptr
      (s.guardLanes 0x0A (badLanes act fun l => s.remoteOfs x l < 0 || ((size l : Nat) : Int) < s.remoteOfs x l + ((n : Nat) : Int))
        (fun _ => 0) (fun l => BitVec.ofInt 32 (s.remoteOfs x l))
        (s.guardLanes 0x0C (badLanes act fun l => !s.inClass x.cp (core l)) (fun _ => 0) ptr
          (k act fun l => (core l, c.scratchAt + base l + (s.remoteOfs x l).toNat))))

/-- `LDS` (R167). -/
def execLds (x : MemW) (s : State) : Host.Outcome State Fault Refusal :=
  s.checked (.lds x) fun t => t.counted .ld (t.scratchWord x (t.coreLoad (.lds x) x))

/-- `STS` (R167). -/
def execSts (x : MemW) (s : State) : Host.Outcome State Fault Refusal :=
  s.checked (.sts x) fun t => t.counted .st (t.scratchWord x (t.coreStore (.sts x) x))

/-- The words of the frame a lane's instance is on (R227). -/
def State.frameSize (s : State) (l : Nat) : Nat :=
  (((s.d.share s.w.ctx s.w.core).frames.find (s.w.frame.getD l 0)).map fun f => f.size * 16).getD 0

/-- A frame word over its active lanes: every word inside the frame, else fault 0x11 (R120). -/
def State.frameWord (s : State) (x : MemW) (k : Lanes → (Nat → Nat × Nat) → State) : State :=
  let act := s.w.active x.g
  let ofs := fun l => s.w.memOfs x.b x.scl x.ofs.toInt l
  let bad := badLanes act fun l => ofs l < 0 || ((s.frameSize l : Nat) : Int) < ofs l + ((eszWords x.esz : Nat) : Int)
  s.guardLanes 0x11 bad (fun _ => 0) (fun _ => 0) (k act fun l => (s.w.core, (s.w.frame.getD l 0 + (ofs l).toNat) * 4))

/-- `LDF` (R120). -/
def execLdf (x : MemW) (s : State) : Host.Outcome State Fault Refusal :=
  s.checked (.ldf x) fun t => t.counted .ld (t.frameWord x (t.coreLoad (.ldf x) x))

/-- `STF` (R120). -/
def execStf (x : MemW) (s : State) : Host.Outcome State Fault Refusal :=
  s.checked (.stf x) fun t => t.counted .st (t.frameWord x (t.coreStore (.stf x) x))

/-! ### STRED, ATOM, RED (R169-R171) -/

/-- The offset of a lane of an MA word. -/
def State.maOff (s : State) (x : MaW) (l : Nat) : Nat := wrapInt 64 (s.w.memOfs x.b x.scl x.ofs.toInt l)

/-- The type a data operand of an MA word is read in. -/
def maTy (x : MaW) : Ty := if x.esz = 5 then .u64 else .u32

/-- The lanes of a mask grouped by address: each address with its lanes in increasing order. -/
def groupLanes (addr : Nat → Nat) : List Nat → List (Nat × List Nat)
  | [] => []
  | l :: ls =>
    let rest := groupLanes addr ls
    match rest.find? fun g => g.1 = addr l with
    | some g => (addr l, l :: g.2) :: rest.filter fun h => h.1 ≠ addr l
    | none => (addr l, [l]) :: rest

/-- The wants of a reduction store: one addition for each address, of the values of its lanes, and the poisoned lanes' checks. -/
def State.stredWants (s : State) (x : MaW) (act : Lanes) : List Want :=
  let n := eszBytes x.esz
  let flt := x.sub = 1
  let val := fun l => s.w.src (maTy x) x.c l 2 % 2 ^ (8 * n)
  let live := lanesOf (act &&& ~~~ s.w.poisoned)
  let groups := (groupLanes (s.maOff x) live).map fun g =>
    ({ lane := g.2.headD 0, off := g.1, size := n, byteOfs := 0, act := .red flt (g.2.map val) true, gone := false
       lanes := maskOf fun l => g.2.contains l } : Want)
  let gone := (lanesOf (act &&& s.w.poisoned)).map fun l =>
    ({ lane := l, off := s.maOff x l, size := n, byteOfs := 0, act := .load, gone := true } : Want)
  groups ++ gone

/-- `STRED` (R169). -/
def State.stredStep (s : State) (x : MaW) : State :=
  let act := s.w.active x.g
  let base := s.w.gbase x.a
  let va := fun l => (base.va + s.maOff x l) % 2 ^ 64
  s.counted .st (s.guardGlobal act (eszBytes x.esz) va
    (((s.sinkNote (act &&& s.w.poisoned) va).plan base false (x.scope = 5) 2 (s.stredWants x act)).issue (.stred x) 2
      (s.storeOp (.stred x) x.ctl.rls)))

/-- `STRED` (R169). -/
def execStred (x : MaW) (s : State) : Host.Outcome State Fault Refusal :=
  s.checked (.stred x) fun t => (t.rebind x.a).stredStep x

/-- An atomic word: `dst` says whether the old value is wanted (R170, R171). -/
def State.atomStep (s : State) (i : Instr) (x : MaW) (dst : Bool) : State :=
  let act := s.w.active x.g
  let base := s.w.gbase x.a
  let n := eszBytes x.esz
  let va := fun l => (base.va + s.maOff x l) % 2 ^ 64
  let val := fun (c : Spec) (k l : Nat) => s.w.src (maTy x) c l k % 2 ^ (8 * n)
  let want := fun l =>
    ({ lane := l, off := s.maOff x l, size := n, byteOfs := 0, act := .atom x.op (val x.c 2 l) (if x.op = 9 then val x.c2 3 l else 0) true, gone := s.w.poisoned.getLsbD l } : Want)
  let o := { s.storeOp i x.ctl.rls with
    cls := if dst then .ld else .st, isAtomic := true
    dreg := regNum x.d, nreg := if dst then eszWords x.esz else 0 }
  s.counted o.cls (s.guardGlobal act n va
    (((s.sinkNote (act &&& s.w.poisoned) va).plan base false (x.scope = 5) 2 ((lanesOf act).map want)).issue i 2 o))

/-- `ATOM` (R171). -/
def execAtom (x : MaW) (s : State) : Host.Outcome State Fault Refusal :=
  s.checked (.atom x) fun t => (t.rebind x.a).atomStep (.atom x) x x.d.isV

/-- `RED` (R170). -/
def execRed (x : MaW) (s : State) : Host.Outcome State Fault Refusal :=
  s.checked (.red x) fun t => (t.rebind x.a).atomStep (.red x) x false

/-! ### FENCE, CINV, CFLUSH, PREF (R175-R177) -/

/-- The outstanding operations a fence orders, loop nests with them (TLC): whole, or by filled lane under `.LANE` (R175; DEDUCED, log entry 54). -/
def State.fenceDeps (s : State) (lane : Bool) (only : MemOp → Bool) : List Dep :=
  let mine := s.d.ops.filter fun o => o.uid = s.w.uid && only o
  let nests := s.d.loops.filter fun o => o.uid = s.w.uid
  if lane then
    (mine.flatMap fun o => (if o.pieces.any (fun p => p.act.isWide) then lanesOf s.w.filled
      else (o.pieces.map Piece.lane).eraseDups).map fun l => { op := o.id, lane := l }) ++
    (nests.flatMap fun o => (lanesOf o.filled).map fun l => { op := o.id, lane := l })
  else (mine.map fun o => { op := o.id, lane := 32 }) ++ (nests.map fun o => { op := o.id, lane := 32 })

/-- `FENCE` (R175): later words of the warp wait for the operations outstanding here. -/
def execFence (x : SysW) (s : State) : Host.Outcome State Fault Refusal :=
  s.checked (.fence x) fun t =>
    let lane := x.mod = 0
    let keep := fun (ds : List Dep) => ds.filter fun d => !t.depDone d
    let rel := if x.fn.getLsbD 0 then t.fenceDeps lane (fun _ => true) else []
    let acq := if x.fn.getLsbD 1 then t.fenceDeps lane (fun o => o.cls = .ld || o.isAtomic) else []
    (t.mapWarp fun w => { w with relAfter := keep w.relAfter ++ rel, acqAfter := keep w.acqAfter ++ acq }).advance (.fence x)

/-- `CINV.L1` (R176): every line leaves the core's L1; the warp stalls until its acquire fences hold (DEDUCED, log entry 57). -/
def execCinvL1 (x : SysW) (s : State) : Host.Outcome State Fault Refusal :=
  s.checked (.cinvL1 x) fun t =>
    if t.depsDone t.w.acqAfter then (t.mapCore t.w.core fun c => { c with l1 := [] }).advance (.cinvL1 x) else t

/-- The lines of a range that translate, each a piece (R176). -/
def State.linePieces (s : State) (start len : Nat) (act : Act) : List Piece :=
  if len = 0 then []
  else
    let lines := (List.range ((start + len - 1) / 64 - start / 64 + 1)).map fun k => (start / 64 + k) * 64
    lines.filterMap fun va => (s.translate s.w.core s.w.ctx va).map fun x =>
      { lane := 0, va := va, place := .phys x.pa, size := 64, byteOfs := 0, act := act, poisonMark := false, covers := false, l1 := false, ok := true }

/-- A cache operation over a range, counted in STC. -/
def State.rangeWord (s : State) (i : Instr) (x : SysW) (act : Act) : State :=
  s.counted .st ((s.launchOp { s.opOf i .st with after := s.memAfter false false }
    (s.linePieces (s.w.sPair x.a) (s.w.read32 x.b 0 1).toNat act)).advance i)

/-- `CINV.L2` (R176). -/
def execCinvL2 (x : SysW) (s : State) : Host.Outcome State Fault Refusal :=
  s.checked (.cinvL2 x) fun t => t.rangeWord (.cinvL2 x) x .inval

/-- `CFLUSH.L2` (R176). -/
def execCflush (x : SysW) (s : State) : Host.Outcome State Fault Refusal :=
  s.checked (.cflush x) fun t => t.rangeWord (.cflush x) x .flush

/-- The line of a prefetch under `.CA` brought into the core's L1, where its address is good and its page may be read
and held there (R177, R267). -/
def State.prefLane (s : State) (base : GBase) (off : Nat) : State :=
  let va := (base.va + off) % 2 ^ 64
  if 2 ^ 57 ≤ va then s
  else match s.hit s.w.core s.w.ctx base off with
    | some h => if h.r && !h.nol1 then (s.loadL1 s.w.core (s.locate s.w.ctx s.w.task va h.pa) 1).2.2 else s
    | none => s

/-- `PREF` (R177): no architectural effect but the lines that `.CA` leaves in the L1, taken at issue (DEDUCED, log entry
80); the home L2's are nothing a program sees. -/
def execPref (x : MemW) (s : State) : Host.Outcome State Fault Refusal :=
  s.checked (.pref x) fun t0 =>
    let t := t0.rebind x.a
    (if x.cp = 1 then (lanesOf (t.w.active x.g)).foldl (fun u l => u.prefLane (t.w.gbase x.a) (t.ldOff x l)) t else t).advance (.pref x)

/-! ### BIND, UNBIND (R178) -/

/-- The number of a T register. -/
def tNum : Spec → Nat
  | .t n => n.toNat
  | _ => 0

/-- `BIND` (R178). -/
def execBind (x : SysW) (s : State) : Host.Outcome State Fault Refusal :=
  s.checked (.bind x) fun t =>
    (t.mapWarp fun w => { w with t := w.t.put (tNum x.d) (t.bindReg (w.sPair x.a) (w.read32 x.b 0 1).toNat) }).advance (.bind x)

/-- `UNBIND` (R178). -/
def execUnbind (x : SysW) (s : State) : Host.Outcome State Fault Refusal :=
  s.wordOn (.unbind x) fun w => { w with t := w.t.del (tNum x.d) }

/-! ### WAIT and the counters' stalls (R54, R55, R181) -/

/-- Whether a warp's counters are at or below limits. -/
def Warp.within (w : Warp) (ld st cp tl : Nat) : Bool := w.ldc ≤ ld && w.stc ≤ st && w.cpc ≤ cp && w.tlc ≤ tl

/-- A wait that is over: with ld 0 every load has delivered, and no early read remains (R55). -/
def State.endWait (s : State) (x : SysJ) : State :=
  (s.mapWarp fun w => { w with status := .running, inflight := if x.imm.toNat % 256 = 0 then [] else w.inflight }).advance (.wait x)

/-- The limits of a `WAIT`. -/
def SysJ.limit (x : SysJ) (k : Nat) : Nat := bitsOf x.imm.toNat (8 * k + 7) (8 * k)

/-- `WAIT` (R181). -/
def execWait (x : SysJ) (s : State) : Host.Outcome State Fault Refusal :=
  s.checked (.wait x) fun t =>
    if t.w.within (SysJ.limit x 0) (SysJ.limit x 1) (SysJ.limit x 2) (SysJ.limit x 3) then t.endWait x
    else t.mapWarp fun w => { w with status := .waitLimits x }

/-- WAIT_RELEASE: the counters have fallen to the limits (R181). -/
def execWaitRelease (uid : Nat) (s : State) : Host.Outcome State Fault Refusal :=
  match s.warp uid with
  | some w => match w.status with
    | .waitLimits x =>
      if w.within (SysJ.limit x 0) (SysJ.limit x 1) (SysJ.limit x 2) (SysJ.limit x 3) && s.warpOn w then
        .next ((s.focus uid).endWait x)
      else .next s
    | _ => .next s
  | none => .next s

/-- COUNTER_STALL_RELEASE: the counter has fallen, and the warp may issue its word again (R54). -/
def execCounterStallRelease (uid : Nat) (s : State) : Host.Outcome State Fault Refusal :=
  match s.warp uid with
  | some w => match w.status with
    | .counterStall k => if w.counter k < 255 then .next (s.mapUid uid fun v => { v with status := .running }) else .next s
    | _ => .next s
  | none => .next s

/-! ### Resuming a parked memory word (R335, R337) -/

/-- One unfinished piece translated again, as a plain address. -/
def Plan.again (kind : Nat) (sys : Bool) (x : Plan) (p : Piece) : Plan :=
  if p.ok then { x with pieces := x.pieces ++ [p] }
  else
    let q := x.state.plan (.virt 0) p.l1 sys kind
      [{ lane := p.lane, off := p.va, size := p.size, byteOfs := p.byteOfs, act := p.act, gone := p.size = 0, lanes := p.lanes }]
    { state := q.state, pieces := x.pieces ++ q.pieces,
      misses := x.misses ++ q.misses.filter fun m => x.misses.all fun n => n.lane ≠ m.lane }

/-- An operation of the issuing warp with its unfinished lanes walked again, and the faults that they meet (R337). -/
def State.walkAgain (s : State) (o : MemOp) : State × List Miss :=
  let sys := match o.word with
    | .atom x | .red x | .stred x => x.scope = 5
    | _ => false
  let x := o.pieces.foldl (Plan.again (accessKind o.word) sys) { state := s, pieces := [], misses := [] }
  (x.state.putOp { o with pieces := x.settled (accessKind o.word) o.rls, parked := none }, x.misses)

/-- A word that parked after its issue walked again: performed later, or parked anew with a new record (R337). -/
def State.replayOp (s : State) (o : MemOp) : State :=
  let x := (s.focus o.uid).walkAgain o
  (match x.1.op o.id, lowMiss x.2 with
  | some k, some (m, lanes) => x.1.parkOp k lanes m.code m.va m.d0
  | _, _ => x.1).backTo s.w

/-- The unfinished lanes of a word that parked at its issue walked again: performed later, or parked anew with a new record
(R337). -/
def State.replay (s : State) (uid : Nat) : State :=
  let s1 := (s.focus uid).mapWarp fun w => { w.releaseCount with status := .running }
  match s1.d.ops.find? fun o => o.uid = uid && o.parked.isNone && o.pieces.any fun p => !p.ok with
  | none => s1
  | some o =>
    let x := s1.walkAgain o
    let s2 := x.1
    if x.2.isEmpty then
      (match o.ovf with
      | some (lanes, need, cap) => s2.raise { code := 0x14, lanes := lanes, d0 := need, d1 := cap }
      | none => s2)
    else
      let held := s2.mapWarp fun w => { w with pc := o.pc }
      (held.parkMisses x.2).mapWarp fun w => { w with pc := s1.w.pc }

end Sys2Proof.Machine
end

