-- ==== Sys2Proof/Machine/Power.lean ====
section
/-! DEFINITION. The power admission governor of a die: requests for leave, grants and windows (R18, R405, R406). -/

namespace Sys2Proof.Machine

/-- A request placed at the tail of the issuing die's queue. -/
def State.askLeave (s : State) (kind c g id weight : Nat) : State :=
  s.mapDie (g / 32) fun x =>
    { x with reqs := x.reqs ++ [{ kind := kind, ctx := c, core := g, id := id, weight := weight, since := (s.d.core g).clk }] }

/-- A waiting request withdrawn (R18). -/
def State.withdrawLeave (s : State) (kind c g id : Nat) : State :=
  s.mapDie (g / 32) fun x =>
    { x with reqs := x.reqs.filter fun r => !(r.kind = kind && r.ctx = c && r.core = g && r.id = id) }

/-- Leave given to the operation that asked. -/
def State.giveLeave (s : State) (r : LeaveReq) : State :=
  match r.kind with
  | 0 => s.mapShare r.ctx r.core fun x =>
      { x with mx := { x.mx with issued := x.mx.issued.map fun m => if m.id = r.id then { m with leave := 2 } else m } }
  | 1 => { s with d := { s.d with loops := s.d.loops.map fun o => if o.id = r.id then { o with leave := 2 } else o } }
  | _ => s.mapShare r.ctx r.core fun x =>
      if r.id = 0 then { x with copyA := x.copyA.map fun k => { k with leave := 2 } }
      else { x with copyB := x.copyB.map fun k => { k with leave := 2 } }

/-- The clock of a die's governor: its core 0's (DESIGN CHOICE, log entry 12). -/
def State.governorClk (s : State) (die : Nat) : Nat := (s.d.core (die * 32)).clk

/-- POWER_GRANT: the head of the queue is granted where budget and ramp allow, in the window that the governor's clock is in
(R405). -/
def execPowerGrant (die : Nat) (s : State) : Host.Outcome State Fault Refusal :=
  let x := s.d.die die
  match x.reqs with
  | [] => .next s
  | r :: rs =>
    let clk := s.governorClk die
    if x.use + r.weight ≤ x.budget && x.window < x.ramp && x.winClk ≤ clk && clk < x.winClk + 1024 then
      let y := { x with
        reqs := rs, use := x.use + r.weight, grants := (x.grants + 1) % 2 ^ 64, window := x.window + 1
        stall := satNat 64 (x.stall + ((s.d.core r.core).clk - r.since)) }
      .next (({ s with d := s.d.setDie die y } : State).giveLeave r)
    else .next s

/-- RAMP_WINDOW: a window of 1,024 clocks has ended; the next one starts without a gap (R405; DESIGN CHOICE, log entry 12). -/
def execRampWindow (die : Nat) (s : State) : Host.Outcome State Fault Refusal :=
  let x := s.d.die die
  if x.winClk + 1024 ≤ s.governorClk die then
    .next (s.mapDie die fun y => { y with window := 0, winClk := y.winClk + 1024 })
  else .next s

end Sys2Proof.Machine
end

