-- ==== Sys2Proof/Machine/Matrix.lean ====
section
/-! DEFINITION. The matrix engine: formats, `MFMT`, the issue of `MLDW`, `MSWAP`, `MSTREAM`, `MDRAIN` and `MZERO`, and
the engine's steps (R40, R192-R208, R324). -/

namespace Sys2Proof.Machine

/-! ### Formats (R196, R199) -/

/-- The depth class of a format: the bits of its elements in the streams (R196). -/
def MFormat.cls : MFormat → Nat
  | .fd w _ => if (nfmt w).width ≤ 4 then 4 else 8
  | _ => 16

/-- The K depth of a format (R196). -/
def MFormat.depth (f : MFormat) : Nat := if f.cls = 4 then 512 else if f.cls = 8 then 256 else 128

/-- The block size of a format, 0 for none (R199). -/
def MFormat.block : MFormat → Nat
  | .fd w _ => (nfmt w).bsize
  | _ => 0

/-- Whether a format is of integer style. -/
def MFormat.isInt : MFormat → Bool
  | .fd w _ => (nfmt w).style == .int
  | _ => false

/-- The number a code of a format holds; bits above its width are ignored (R38). -/
def MFormat.num (f : MFormat) (code : Nat) : FV :=
  match f with
  | .fd w _ => ((nfmt w).read (code % 2 ^ (nfmt w).width)).1
  | .bf16 => fmtB16.read false code
  | .f16 => fmt16.read false code

/-- The value of a scale code under a format (R33). -/
def MFormat.scaleOf (f : MFormat) (code : Nat) : FV :=
  match f with
  | .fd w _ => (nfmt w).skind.value code
  | _ => .fin false 1 0

/-- Whether two formats may meet (R199). -/
def MFormat.fits (a b : MFormat) : Bool := a.cls == b.cls && a.isInt == b.isInt && a.block == b.block

/-- Entries of a weight tile's stream: 256 and one scale word for each block (R197). -/
def MFormat.tile (f : MFormat) : Nat := 256 + (if f.block = 0 then 0 else f.depth / f.block)

/-- Entries of an activation row (R198). -/
def MFormat.rowEntries (f : MFormat) : Nat := if f.block = 0 then 2 else 3

/-- Data entries between two scale words (R197). -/
def MFormat.blockEntries (f : MFormat) : Nat := if f.cls = 4 then f.block / 2 else f.block

/-! ### Issue (R193, R194, R324) -/

/-- An instruction issued to the engine; one that reads scratch waits for the accesses that happen before it (R175, R193). -/
def State.issueMx (s : State) (i : Instr) (kind : MKind) (ev : Bool) (evid : Nat) (reads : Bool) : State :=
  let n := s.fresh
  let w := s.w
  let x := (s.d.share w.ctx w.core).mx
  let m : MInstr :=
    { id := n.1, uid := w.uid, task := w.task, kind := kind, ev := ev, evid := evid % 256, act := x.act, wgt := x.wgt
      fmode := w.fmode, srseed := w.srseed, tag := w.tag.getD 0 0, begun := false, leave := 0, done := 0, finished := false
      poison := false, suppressed := [], parked := none, after := if reads then s.writesOf w.uid ++ w.acqAfter else [] }
  (n.2.mapMx w.ctx w.core fun y => { y.take with issued := y.issued ++ [m] }).advance i

/-- A count, row or offset operand: lane 0's value (R194); `k` is its place among the word's operands (R55). -/
def Warp.mxVal (w : Warp) (x : Spec) (k : Nat) : Nat := (w.read32 x 0 k).toNat

/-- The loaded weight formats of ACTIVE and SHADOW after the instructions issued (R194). -/
def Matrix.projected (x : Matrix) : Option MFormat × Option MFormat :=
  let of := fun (p : Plane) => if p.loaded then some p.fmt else none
  x.issued.foldl (fun (a : Option MFormat × Option MFormat) m =>
    if m.finished then a
    else match m.kind with
      | .mldw _ _ => (a.1, some m.wgt)
      | .mswap => (a.2, a.1)
      | _ => a) (of x.active, of x.shadow)

/-- The checks of rows, alignment and scratch range, in the order of R200. -/
def State.guardMx (s : State) (rowsBad misaligned scratchBad far : Bool) (ofs : Nat) (k : State) : State :=
  if rowsBad then s.raiseAll 0x0E
  else if misaligned then s.raiseAll 0x07
  else if scratchBad then s.raiseAll 0x0A (BitVec.ofNat 32 ofs)
  else if far then s.raiseAll 0x0D
  else k

/-- Whether a row range breaks R200. -/
def rowsBad (n first : Nat) : Bool := n = 0 || 512 < n || 512 < first + n

/-- The FD index a format fault names: the activation's descriptor, else the weight's. -/
def mfmtIndex (mod : BitVec 8) : Word := BitVec.ofNat 32 (if mod.toNat / 16 < 8 then mod.toNat / 16 else mod.toNat % 8)

/-- The FD index that a fault of two installed formats names: the activation's, else the weight's (R250). -/
def fdIndex (a b : MFormat) : Word :=
  match a, b with
  | .fd _ n, _ => BitVec.ofNat 32 n
  | _, .fd _ n => BitVec.ofNat 32 n
  | _, _ => 0

/-- The format a code of `MFMT` names (R199). -/
def State.mfmtOf (s : State) (code : Nat) : MFormat := if code < 8 then .fd (s.fdWord code) code else if code = 8 then .bf16 else .f16

/-- `MFMT` (R199). -/
def State.mfmtStep (s : State) (x : SysW) : State :=
  let a := s.mfmtOf (x.mod.toNat / 16)
  let b := s.mfmtOf (x.mod.toNat % 16)
  s.matrixWord false
    (if a.fits b then (s.mapMx s.w.ctx s.w.core fun y => { y.take with act := a, wgt := b }).advance (.mfmt x)
     else s.raiseAll 0x06 (mfmtIndex x.mod))

/-- `MFMT` (R199). -/
def execMfmt (x : SysW) (s : State) : Host.Outcome State Fault Refusal := s.checked (.mfmt x) fun t => t.mfmtStep x

/-- `MLDW` (R200, R201). -/
def State.mldwStep (s : State) (x : SysC) : State :=
  let sc := x.fn.getLsbD 0
  let ofs := if sc then s.w.mxVal x.a 0 else 0
  let size := 128 * (s.d.share s.w.ctx s.w.core).mx.wgt.tile
  s.matrixWord true
    (s.guardMx false (sc && ofs % 128 ≠ 0) (sc && (s.d.ctx s.w.ctx).scratchBytes < ofs + size) false ofs
      (s.issueMx (.mldw x) (.mldw sc ofs) (x.fn.getLsbD 1) (s.w.mxVal x.d 3) sc))

/-- `MLDW` (R201). -/
def execMldw (x : SysC) (s : State) : Host.Outcome State Fault Refusal := s.checked (.mldw x) fun t => t.mldwStep x

/-- `MSWAP` (R202). -/
def execMswap (x : SysW) (s : State) : Host.Outcome State Fault Refusal :=
  s.checked (.mswap x) fun t => t.matrixWord true (t.issueMx (.mswap x) .mswap false 0 false)

/-- `MSTREAM` (R200, R203). -/
def State.mstreamStep (s : State) (x : SysC) : State :=
  let sc := x.fn.getLsbD 1
  let n := s.w.mxVal x.a 0
  let first := s.w.mxVal x.b 1
  let ofs := if sc then s.w.mxVal x.c 2 else 0
  let mx := (s.d.share s.w.ctx s.w.core).mx
  let size := 128 * mx.act.rowEntries * n
  let go := s.issueMx (.mstream x) (.mstream (x.fn.getLsbD 0) sc (x.fn.getLsbD 3) n first ofs) (x.fn.getLsbD 2) (s.w.mxVal x.d 3) sc
  s.matrixWord true
    (s.guardMx (rowsBad n first) (sc && ofs % 128 ≠ 0) (sc && (s.d.ctx s.w.ctx).scratchBytes < ofs + size) false ofs
      (match mx.projected.1 with
        | none => s.raiseAll 0x0E
        | some f => if mx.act.fits f then go else s.raiseAll 0x06 (fdIndex mx.act f)))

/-- `MSTREAM` (R203). -/
def execMstream (x : SysC) (s : State) : Host.Outcome State Fault Refusal := s.checked (.mstream x) fun t => t.mstreamStep x

/-- The bytes of a drained row (R204). -/
def drainSize (ot : Nat) (fd : Word) : Nat :=
  if ot = 0 then 512 else if ot = 3 then (if (nfmt fd).width ≤ 4 then 64 else 128) else 256

/-- Whether a descriptor may be drained into (R204). -/
def drainFd (fd : Word) : Bool := ((nfmt fd).width = 8 || (nfmt fd).width ≤ 4) && (nfmt fd).skind = .none

/-- The rounding code in MOD [55:53] of a drain. -/
def drainRnd (mod : BitVec 8) : Rnd :=
  match mod.toNat / 32 with
  | 0 => .rne
  | 1 => .rtz
  | 2 => .rup
  | 3 => .rdn
  | 4 => .rna
  | 5 => .sr
  | _ => .dyn

/-- `MDRAIN` (R200, R204). -/
def State.mdrainStep (s : State) (x : SysC) : State :=
  let n := s.w.mxVal x.a 0
  let first := s.w.mxVal x.b 1
  let dest := x.fn.toNat / 2 % 4
  let ot := x.mod2.toNat / 16
  let k := x.mod2.toNat / 2 % 8
  let fd := s.fdWord k
  let size := drainSize ot fd * n
  let addr := if dest = 1 then s.w.mxVal x.c 2 else if dest = 2 then s.w.sPair x.c else 0
  let kind := MKind.mdrain (x.fn.getLsbD 0) dest n first addr (rndOf s.w.fmode (drainRnd x.mod)) ot fd (x.mod2.getLsbD 0)
  s.matrixWord true
    (s.guardMx (rowsBad n first) (dest ≠ 0 && addr % 64 ≠ 0) (dest = 1 && (s.d.ctx s.w.ctx).scratchBytes < addr + size)
      (dest = 2 && 2 ^ 57 < addr + size) addr
      (if ot = 3 && !drainFd fd then s.raiseAll 0x06 (BitVec.ofNat 32 k)
       else s.issueMx (.mdrain x) kind (x.fn.getLsbD 3) (s.w.mxVal x.d 3) false))

/-- `MDRAIN` (R204). -/
def execMdrain (x : SysC) (s : State) : Host.Outcome State Fault Refusal := s.checked (.mdrain x) fun t => t.mdrainStep x

/-- `MZERO` (R205). -/
def State.mzeroStep (s : State) (x : SysW) : State :=
  let all := x.fn.getLsbD 1
  let n := if all then 512 else s.w.mxVal x.a 0
  let first := if all then 0 else s.w.mxVal x.b 1
  s.matrixWord true
    (s.guardMx (rowsBad n first) false false false 0
      (s.issueMx (.mzero x) (.mzero (x.fn.getLsbD 0) n first) false 0 false))

/-- `MZERO` (R205). -/
def execMzero (x : SysW) (s : State) : Host.Outcome State Fault Refusal := s.checked (.mzero x) fun t => t.mzeroStep x

/-- MATRIX_ISSUE_RELEASE: a matrix word's stall has cleared, and the warp may issue it again (R193, R324). -/
def execMatrixIssueRelease (uid : Nat) (s : State) : Host.Outcome State Fault Refusal :=
  match s.warp uid with
  | some w =>
    if w.status = .matrixStall && !s.matrixStalls w.ctx w.core true then
      .next (s.mapUid uid fun v => { v with status := .running })
    else .next s
  | none => .next s

/-! ### The engine (R193) -/

/-- The context that retakes the free engine of a core after its restore (R326). -/
def State.engineDue (s : State) (g : Nat) : Option Nat :=
  if (s.engineOwner g).isSome then none
  else (s.d.shares.find? fun p => p.1 % 256 = g && p.2.mx.due && p.2.slot.isSome && !p.2.saved).map fun p => p.1 / 256

/-- Whether a context's share of a core lets its engine work: ACTIVE, or IDLE with instructions still issued, and not halted
(R325; DEDUCED, log entry 91). -/
def State.engineOn (s : State) (c g : Nat) : Bool :=
  s.mayRun c g || ((s.d.ctx c).state = .idle && !(s.d.share c g).halted && !(s.d.core g).offline)

/-- Whether a finished instruction's event lacks room in QCE: the engine then waits (R206). -/
def State.eventStuck (s : State) (c g : Nat) : Bool :=
  match (s.d.share c g).mx.issued with
  | m :: _ => m.finished && m.ev && (s.d.share c g).room .qce = 0
  | [] => false

/-- Whether the engine may move for a context: it runs, none of its instructions is parked (R204), and no event waits for
room (R206). -/
def State.engineRuns (s : State) (c g : Nat) : Bool :=
  s.engineOn c g && !s.eventStuck c g && (s.d.share c g).mx.issued.all fun m => m.parked.isNone

/-- The accumulator an instruction touches. -/
def MKind.accum : MKind → Option Bool
  | .mstream a _ _ _ _ _ => some a
  | .mdrain a _ _ _ _ _ _ _ _ => some a
  | .mzero a _ _ => some a
  | _ => none

def MKind.isLoad : MKind → Bool
  | .mldw _ _ => true
  | _ => false
def MKind.isSwap : MKind → Bool
  | .mswap => true
  | _ => false
def MKind.isStream : MKind → Bool
  | .mstream _ _ _ _ _ _ => true
  | _ => false
def MKind.isDrain : MKind → Bool
  | .mdrain _ _ _ _ _ _ _ _ _ => true
  | _ => false

/-- Whether an instruction waits in engine order for an earlier one that is not finished (R201-R204; DEDUCED, log entry 59). -/
def MKind.waitsFor (k e : MKind) : Bool :=
  match k with
  | .mldw _ _ => e.isLoad || e.isSwap
  | .mswap => e.isLoad || e.isStream || e.isSwap
  | .mstream a _ _ _ _ _ => e.isSwap || e.isStream || e.accum == some a
  | .mdrain a _ _ _ _ _ _ _ _ => e.accum == some a
  | .mzero a _ _ => e.accum == some a

/-- The first instruction that may begin: none of those before it holds it back, and only a drain begins before others have
(R193, R204; DEDUCED, log entry 59). -/
def nextBegin (ready : MInstr → Bool) : List MInstr → List MInstr → Option MInstr
  | _, [] => none
  | before, m :: ms =>
    if !m.begun && ready m && (m.kind.isDrain || before.all MInstr.begun) &&
        before.all fun e => e.finished || !m.kind.waitsFor e.kind then some m
    else nextBegin ready (before ++ [m]) ms

/-- An issued instruction replaced. -/
def Matrix.setInstr (x : Matrix) (m : MInstr) : Matrix :=
  { x with issued := x.issued.map fun k => if k.id = m.id then m else k }

/-- Instructions at the head that have finished and raise no event, removed: they have completed (R193). -/
def dropDone : List MInstr → List MInstr
  | [] => []
  | m :: ms => if m.finished && !m.ev then dropDone ms else m :: ms

/-- The matrix state with its completed instructions removed. -/
def Matrix.settle (x : Matrix) : Matrix := { x with issued := dropDone x.issued }

/-- An accumulator. -/
def Matrix.acc (x : Matrix) (a : Bool) : Accum := if a then x.ac1 else x.ac0

/-- An accumulator replaced. -/
def Matrix.setAcc (x : Matrix) (a : Bool) (y : Accum) : Matrix := if a then { x with ac1 := y } else { x with ac0 := y }

/-- Rows cleared with their marks (R205). -/
def Accum.clear (x : Accum) (first n : Nat) : Accum :=
  let out := fun (r : Nat) => r < first || first + n ≤ r
  { rows := x.rows.filter fun p => out p.1, mark := x.mark.filter out, err := x.err.filter out }

/-- What beginning an instruction does at once (R202, R205). -/
def Matrix.begin_ (x : Matrix) (m : MInstr) : Matrix :=
  match m.kind with
  | .mswap => ({ x with active := x.shadow, shadow := x.active }.setInstr { m with begun := true, finished := true }).settle
  | .mzero a n first => ((x.setAcc a ((x.acc a).clear first n)).setInstr { m with begun := true, finished := true }).settle
  | .mldw _ _ =>
    { x with shadow := { loaded := false, fmt := m.wgt, data := [], scale := [], poison := false } }.setInstr { m with begun := true }
  | _ => x.setInstr { m with begun := true }

/-- MATRIX_INSTRUCTION_BEGIN: an issued instruction begins, once what it waits for in engine order is finished and it has
leave (R193, R203); or a restored context retakes the free engine (R326). -/
def execMatrixInstructionBegin (core : Nat) (s : State) : Host.Outcome State Fault Refusal :=
  match s.engineOwner core with
  | none => match s.engineDue core with
    | none => .next s
    | some c => .next (s.mapMx c core Matrix.take)
  | some c =>
    if !s.engineRuns c core then .next s else
    match nextBegin (fun m => s.depsDone m.after && (m.leave = 0 || m.leave = 2)) [] (s.d.share c core).mx.issued with
    | none => .next s
    | some m =>
      if m.kind.heavy && m.leave = 0 then
        .next ((s.mapMx c core fun x => x.setInstr { m with leave := 1 }).askLeave 0 c core m.id 4)
      else .next (s.mapMx c core fun x => x.begin_ m)

/-! ### Entries (R196-R198) -/

/-- A stream entry: 128 bytes, whether it is marked, and the structure that a record names where an error set the mark, 0 where
none did (R392). -/
structure MEntry where
  bytes : List Byte
  bad : Bool
  code : Nat

/-- The entry a queue entry carries. -/
def QEntry.asEntry (e : QEntry) : MEntry := { bytes := e.data.flatMap fun w => bytesLE 4 w.toNat, bad := e.poison, code := e.err }

/-- The entry at a scratch offset. -/
def State.scratchEntry (s : State) (c g ofs : Nat) : MEntry :=
  let x := s.d.share c g
  let b := (s.d.ctx c).scratchAt + ofs
  { bytes := x.coreBytes b 128, bad := x.coreBad b 128, code := if x.coreErr b 128 then 0x04 else 0 }

/-- The ready entries at the head of a queue, `n` at most. -/
def State.readyHead (s : State) (c g : Nat) : Nat → List QEntry → List QEntry
  | 0, _ => []
  | _, [] => []
  | n + 1, e :: es => if s.entryReady c g e then e :: s.readyHead c g n es else []

/-- Entry `e` of a weight stream placed in a plane (R196, R197). -/
def Plane.take (x : Plane) (e : Nat) (y : MEntry) : Plane :=
  let per := x.fmt.blockEntries
  let x1 := { x with poison := x.poison || y.bad }
  if x.fmt.block = 0 then { x1 with data := x1.data.put e y.bytes }
  else if e % (per + 1) = 0 then { x1 with scale := x1.scale.put (e / (per + 1)) y.bytes }
  else { x1 with data := x1.data.put (e / (per + 1) * per + (e % (per + 1) - 1)) y.bytes }

/-- The structure that a matrix instruction's record names, of those whose errors it meets in one step; 0 for none (R392). -/
def metCode (codes : List Nat) : Nat := (codes.find? fun k => k ≠ 0).getD 0

/-- The record of code 0x30 of a matrix instruction that meets an error: one for each instruction (R251, R392). -/
def State.engineMark (s : State) (c g : Nat) (m : MInstr) (code : Nat) : State :=
  if code = 0 || m.noted then s
  else s.noteFor m.uid m.id { FaultRec.engine 0x30 4 c g with d0 := BitVec.ofNat 32 code }

/-- An instruction after a step in which it met an error of that structure. -/
def MInstr.noting (m : MInstr) (code : Nat) : MInstr := { m with noted := m.noted || code ≠ 0 }

/-- Entries of a weight stream taken into SHADOW; the load finishes with the last (R201). -/
def Matrix.takeWeights (x : Matrix) (m : MInstr) (es : List MEntry) : Matrix :=
  let p := (es.zipIdx).foldl (fun (y : Plane) e => y.take (m.done + e.2) e.1) x.shadow
  let done := m.done + es.length
  let fin := decide (m.wgt.tile ≤ done)
  let x1 := { x with shadow := { p with loaded := fin } }
  (x1.setInstr { m with done := done, finished := fin, poison := p.poison }).settle

/-- MLDW_COMPLETION: the load in hand takes its entries; with the last, SHADOW is loaded (R201). From QMW the entries
present are taken, and the load completes when all have come (R208). -/
def execMldwCompletion (core : Nat) (s : State) : Host.Outcome State Fault Refusal :=
  match s.engineOwner core with
  | none => .next s
  | some c =>
    let x := s.d.share c core
    match x.mx.issued.find? fun m => m.begun && !m.finished && m.kind.isLoad with
    | none => .next s
    | some m =>
      if !s.engineRuns c core then .next s
      else
        let left := m.wgt.tile - m.done
        match m.kind with
        | .mldw true ofs =>
          let es := (List.range left).map fun k => s.scratchEntry c core (ofs + 128 * (m.done + k))
          let code := metCode (es.map MEntry.code)
          .next ((s.mapMx c core fun y => y.takeWeights (m.noting code) es).engineMark c core m code)
        | _ =>
          let es := s.readyHead c core left (x.queue .qmw)
          let code := metCode (es.map QEntry.err)
          .next ((s.mapShare c core fun y =>
            { y.setQueue .qmw ((y.queue .qmw).drop es.length) with
              mx := y.mx.takeWeights (m.noting code) (es.map QEntry.asEntry) }).engineMark c core m code)

/-! ### Streams (R40, R203) -/

/-- Two bytes of a list as a number. -/
def half (bs : List Byte) (k : Nat) : Nat := (bs.getD k 0).toNat + 256 * (bs.getD (k + 1) 0).toNat

/-- Weight element (k, j) of a plane (R196). -/
def Plane.code (x : Plane) (k j : Nat) : Nat :=
  let entry := fun e => x.data.getD e []
  match x.fmt.cls with
  | 16 => half (entry (2 * k + j / 64)) (2 * (j % 64))
  | 8 => ((entry k).getD j 0).toNat
  | _ => ((entry (k / 2)).getD j 0).toNat / (if k % 2 = 0 then 1 else 16) % 16

/-- Element `i` of an activation row's 256 data bytes (R198). -/
def rowCode (cls : Nat) (bs : List Byte) (i : Nat) : Nat :=
  match cls with
  | 16 => half bs (2 * i)
  | 8 => (bs.getD i 0).toNat
  | _ => (bs.getD (i / 2) 0).toNat / (if i % 2 = 0 then 1 else 16) % 16

/-- The exact sum of a block's products (R40). -/
def blockSum (f : Nat → FV × FV) : List Nat → FV
  | [] => .fin false 0 0
  | k :: ks => ks.foldl (fun acc i => acc.add .rne ((f i).1.mul (f i).2)) ((f k).1.mul (f k).2)

/-- One accumulator element after a row (R40): the blocks in increasing K, each entering with one rounding. -/
def streamElem (act : MFormat) (p : Plane) (scale data : List Byte) (old : Word) (j : Nat) : Word :=
  let bs := if act.block = 0 then 32 else act.block
  let codes := fun i => (act.num (rowCode act.cls data i), p.fmt.num (p.code i j))
  let step := fun (acc : Word) (b : Nat) =>
    let sum := blockSum codes ((List.range bs).map fun k => b * bs + k)
    let sa := if act.block = 0 then .fin false 1 0 else act.scaleOf (scale.getD b 0).toNat
    let sw := if p.fmt.block = 0 then .fin false 1 0 else p.fmt.scaleOf ((p.scale.getD b []).getD j 0).toNat
    BitVec.ofNat 32 (fmt32.roundFV .rne false 0 ((fmt32.read false acc.toNat).add .rne ((sum.mul sa).mul sw)))
  (List.range (act.depth / bs)).foldl step old

/-- Row `g` of an accumulator. -/
def Accum.row (x : Accum) (g : Nat) : List Word := x.rows.getD g (List.replicate 128 0)

/-- A row written with its mark. -/
def Accum.setRow (x : Accum) (g : Nat) (ws : List Word) (bad : Bool) : Accum :=
  { rows := x.rows.put g ws, mark := if bad then (if x.mark.contains g then x.mark else g :: x.mark) else x.mark.filter fun r => r ≠ g
    err := x.err.filter fun r => r ≠ g }

/-- The structure that a record of a row's read names where an error set its mark (R392). -/
def Accum.rowCode (x : Accum) (g : Nat) : Nat := if x.err.contains g then 0x0C else 0

/-- A row streamed from its entries (R203): the matrix state after it, and whether the row is marked. -/
def Matrix.streamRow (x : Matrix) (m : MInstr) (a z : Bool) (g : Nat) (es : List MEntry) : Matrix × Bool :=
  let scaled := m.act.block ≠ 0
  let scale := if scaled then (es.getD 0 { bytes := [], bad := false, code := 0 }).bytes else []
  let data := ((if scaled then es.drop 1 else es).map MEntry.bytes).flatten
  let acc := x.acc a
  let old := if z then List.replicate 128 0 else acc.row g
  let new := (List.range 128).map fun j => streamElem m.act x.active scale data (old.getD j 0) j
  let nan := fmodeNanp m.fmode && new.any fun v => fmt32.isNaN v.toNat
  let bad := (!z && acc.mark.contains g) || es.any MEntry.bad || x.active.poison || nan
  (x.setAcc a (acc.setRow g new bad), bad)

/-- The structure of the error that a streamed row meets: its entries', the weight plane's, or that of the row it adds to (R392). -/
def Matrix.streamCode (x : Matrix) (a z : Bool) (g : Nat) (es : List MEntry) : Nat :=
  metCode (es.map MEntry.code ++ [if x.active.err then 0x0C else 0, if z then 0 else (x.acc a).rowCode g])

/-- A stream after one more row; its leave is returned with the last (R405). -/
def State.afterRow (s : State) (c g : Nat) (m : MInstr) (n : Nat) (bad : Bool) : State :=
  let fin := decide (n ≤ m.done + 1)
  let s1 := s.mapMx c g fun x => (x.setInstr { m with done := m.done + 1, finished := fin, poison := m.poison || bad }).settle
  if fin && m.kind.heavy then s1.returnLeave g 4 else s1

/-- MSTREAM_ROW: the stream in hand takes one activation row into its accumulator row (R203). -/
def execMstreamRow (core : Nat) (s : State) : Host.Outcome State Fault Refusal :=
  match s.engineOwner core with
  | none => .next s
  | some c =>
    let x := s.d.share c core
    match x.mx.issued.find? fun m => m.begun && !m.finished && m.kind.isStream with
    | none => .next s
    | some m => match m.kind with
      | .mstream a sc z n first ofs =>
        if !s.engineRuns c core || (m.kind.heavy && m.leave ≠ 2) then .next s
        else
          let per := m.act.rowEntries
          if sc then
            let es := (List.range per).map fun k => s.scratchEntry c core (ofs + 128 * (per * m.done + k))
            let r := x.mx.streamRow m a z (first + m.done) es
            let code := x.mx.streamCode a z (first + m.done) es
            .next (((s.mapMx c core fun _ => r.1).afterRow c core (m.noting code) n r.2).engineMark c core m code)
          else
            let es := s.readyHead c core per (x.queue .qma)
            if es.length < per then .next s
            else
              let r := x.mx.streamRow m a z (first + m.done) (es.map QEntry.asEntry)
              let code := x.mx.streamCode a z (first + m.done) (es.map QEntry.asEntry)
              .next (((s.mapShare c core fun y =>
                { y.setQueue .qma ((y.queue .qma).drop per) with mx := r.1 }).afterRow c core (m.noting code) n r.2).engineMark c core m code)
      | _ => .next s

/-! ### Drains (R204) -/

/-- One drained element: its code and whether the conversion marks the row (R204). -/
def drainElem (m : MInstr) (ot : Nat) (fd : Word) (rnd : Rnd) (g j : Nat) (v : Word) : Nat × Bool :=
  let q := srQ m.srseed m.tag 0 (g * 128 + j)
  let x := fmt32.read false v.toNat
  if ot = 3 then
    let r := (nfmt fd).write rnd (fmodeWx m.fmode) (fmodeSat m.fmode) q x
    (r.code, r.poison || (fmodeNanp m.fmode && r.isNaN))
  else
    let f := if ot = 0 then fmt32 else if ot = 1 then fmtB16 else fmt16
    (f.roundFV rnd (fmodeFtz m.fmode) q x, fmodeNanp m.fmode && x.isNaN)

/-- Whether a row of an accumulator is drained with a mark: its own, or one of its conversions' (R204). -/
def Accum.drainsBad (x : Accum) (m : MInstr) (ot : Nat) (fd : Word) (rnd : Rnd) (row : Nat) : Bool :=
  x.mark.contains row || (x.row row).zipIdx.any fun v => (drainElem m ot fd rnd row v.2 v.1).2

/-- Whether an issued drain to global memory is sure to write the record of a suppressed row that it has not written yet: a row
has been suppressed, or one that it still has to drain is marked and nothing before it touches its accumulator (R44, R204). -/
def Matrix.recordDue (x : Matrix) (m : MInstr) : Bool :=
  match m.kind with
  | .mdrain a 2 n first _ rnd ot fd _ =>
    !m.finished && (!m.suppressed.isEmpty ||
      (((x.issued.takeWhile fun e => e.id ≠ m.id).all fun e => e.finished || e.kind.accum != some a) &&
        (List.range n).any fun k => m.done ≤ k && (x.acc a).drainsBad m ot fd rnd (first + k)))
  | _ => false

/-- The bytes of a drained row. -/
def drainBytes (ot : Nat) (fd : Word) (codes : List Nat) : List Byte :=
  if ot = 0 then codes.flatMap (bytesLE 4)
  else if ot = 3 then
    (if (nfmt fd).width ≤ 4 then (List.range 64).map fun k => BitVec.ofNat 8 (codes.getD (2 * k) 0 % 16 + codes.getD (2 * k + 1) 0 % 16 * 16)
     else codes.map fun k => BitVec.ofNat 8 k)
  else codes.flatMap (bytesLE 2)

/-- A row's entries for QMO, padded with zeros (R204). -/
def rowQEntries (bs : List Byte) (bad : Bool) : List QEntry :=
  let words := (List.range ((bs.length + 3) / 4)).map fun k => BitVec.ofNat 32 (ofBytesLE ((bs.drop (4 * k)).take 4))
  (List.range ((bs.length + 127) / 128)).map fun e =>
    { QEntry.blank with data := (List.range 32).map fun k => words.getD (32 * e + k) 0, poison := bad }

/-- Entries the engine places in a queue, named afresh. -/
def State.enginePush (s : State) (c g : Nat) (q : Queue) : List QEntry → State
  | [] => s
  | e :: es =>
    let n := s.fresh
    (n.2.mapShare c g fun x => x.setQueue q (x.queue q ++ [{ e with id := n.1 }])).enginePush c g q es

/-- A range cut at the 4 KiB boundaries of its addresses. -/
def cut4K : Nat → Nat → Nat → List (Nat × Nat)
  | 0, _, _ => []
  | fuel + 1, va, n =>
    if n = 0 then []
    else
      let k := Nat.min n (4096 - va % 4096)
      (va, k) :: cut4K fuel (va + k) (n - k)

/-- The first fault of an engine's write of a range (R332, R344). -/
def State.engineFault (s : State) (c g task va n kind : Nat) : Option (Nat × Nat × Nat) :=
  (cut4K (n / 4096 + 2) va n).findSome? fun p =>
    (s.accessFault c task p.1 kind (s.hit g c (.virt p.1) 0)).map fun e => (e.1, p.1, e.2)

/-- An engine's write of a range that has no fault; none while a page is lacking. No device access falls between the read and
the write of an atomic on host memory (R269; DEDUCED, log entry 56). -/
def State.engineWrite (s : State) (c g task va : Nat) (bs : List Byte) : Option State :=
  (cut4K (bs.length / 4096 + 2) va bs.length).foldl (fun (t : Option State) p => t.bind fun u =>
    match u.hit g c (.virt p.1) 0 with
    | some h => (u.settle (u.locate c task p.1 h.pa) p.2).writeAt c g task p.1 h.pa ((bs.drop (p.1 - va)).take p.2)
    | none => none) (some s)

/-- The record of a drain's suppressed rows (R44, R204). -/
def State.drainRecord (s : State) (c g uid id addr size first : Nat) (rows : List Nat) : State :=
  match rows with
  | [] => s
  | r :: _ =>
    s.noteFor uid id { FaultRec.engine 0x18 3 c g with
      address := (addr + (r - first) * size) % 2 ^ 64, d0 := BitVec.ofNat 32 r
      d1 := BitVec.ofNat 32 (rows.getLastD r), d2 := BitVec.ofNat 32 rows.length }

/-- A drain after one more row: the row cleared under `.ZR`, the record with the last (R204). -/
def State.afterDrain (s : State) (c g : Nat) (m : MInstr) (a : Bool) (n first row addr size : Nat) (zr bad sup : Bool) : State :=
  let fin := decide (n ≤ m.done + 1)
  let rows := if sup then m.suppressed ++ [row] else m.suppressed
  let m1 := { m with done := m.done + 1, finished := fin, poison := m.poison || bad, suppressed := rows }
  let s1 := s.mapMx c g fun x => ((if zr then x.setAcc a ((x.acc a).clear row 1) else x).setInstr m1).settle
  if fin then s1.drainRecord c g m.uid m.id addr size first rows else s1

/-- A drain parked with its engine at a row that met a fault (R204); one whose second page is lacking too (R346). -/
def State.parkDrain (s : State) (c g : Nat) (m : MInstr) (e : Nat × Nat × Nat) : State :=
  ((s.countMiss c e.2.2).parkEngine 5 0 c g e.1 e.2.1 e.2.2).1.mapMx c g fun x => x.setInstr { m with parked := some 0 }

/-- Whether a drain's next row has room where it goes. -/
def Share.drainRoom (x : Share) (m : MInstr) : Bool :=
  match m.kind with
  | .mdrain _ 0 _ _ _ _ ot fd _ => decide ((drainSize ot fd + 127) / 128 ≤ x.room .qmo)
  | _ => true

/-- One row of a drain (R204). -/
def State.drainRow (s : State) (c g : Nat) (m : MInstr) (a : Bool) (dest n first addr : Nat) (rnd : Rnd) (ot : Nat)
    (fd : Word) (zr : Bool) : State :=
  let acc := (s.d.share c g).mx.acc a
  let row := first + m.done
  let es := (acc.row row).zipIdx.map fun v => drainElem m ot fd rnd row v.2 v.1
  let bad := acc.drainsBad m ot fd rnd row
  let bs := drainBytes ot fd (es.map Prod.fst)
  let size := drainSize ot fd
  let at_ := addr + m.done * size
  let code := acc.rowCode row
  let fin := fun (t : State) (sup : Bool) =>
    (t.engineMark c g m code).afterDrain c g (m.noting code) a n first row addr size zr bad sup
  match dest with
  | 0 =>
    let qs := rowQEntries bs bad
    if (s.d.share c g).room .qmo < qs.length then s else fin (s.enginePush c g .qmo qs) false
  | 1 => fin (s.mapShare c g fun x => x.putCore ((s.d.ctx c).scratchAt + at_) bad bs) false
  | _ =>
    if bad then fin s true
    else match s.engineFault c g m.task at_ size 1 with
      | some e => s.parkDrain c g m e
      | none => match s.engineWrite c g m.task at_ bs with
        | none => s.parkDrain c g m (0x20, (at_ / 4096 + 1) * 4096, 3)
        | some t => fin t false

/-- MDRAIN_ROW: the first drain in hand whose row has room converts and writes it, or parks the engine (R204). -/
def execMdrainRow (core : Nat) (s : State) : Host.Outcome State Fault Refusal :=
  match s.engineOwner core with
  | none => .next s
  | some c => match (s.d.share c core).mx.issued.find? fun m => m.begun && !m.finished && m.kind.isDrain && (s.d.share c core).drainRoom m with
    | none => .next s
    | some m => match m.kind with
      | .mdrain a dest n first addr rnd ot fd zr =>
        if s.engineRuns c core then .next (s.drainRow c core m a dest n first addr rnd ot fd zr) else .next s
      | _ => .next s

/-! ### Events (R206) -/

/-- SOURCE and count of a matrix event (R206). -/
def MInstr.source (m : MInstr) : Nat × Nat :=
  match m.kind with
  | .mldw _ _ => (3, m.done)
  | .mstream _ _ _ _ _ _ => (4, m.done)
  | _ => (5, m.done)

/-- MATRIX_EVENT: the finished instruction at the head places its event in QCE where there is room (R206). -/
def execMatrixEvent (core : Nat) (s : State) : Host.Outcome State Fault Refusal :=
  match s.engineOwner core with
  | none => .next s
  | some c => match (s.d.share c core).mx.issued with
    | [] => .next s
    | m :: ms =>
      if m.finished && m.ev && 0 < (s.d.share c core).room .qce && s.engineOn c core then
        let status := if m.suppressed.isEmpty then 0 else 2
        let ws := [m.evid, m.source.1 + status * 256, m.source.2, if m.poison then 1 else 0].map (BitVec.ofNat 32)
        .next ((s.mapMx c core fun x => { x with issued := dropDone ms }).enginePush c core .qce
          [{ QEntry.blank with data := ws ++ List.replicate 28 0 }])
      else .next s

end Sys2Proof.Machine
end

