-- ==== Sys2Proof/Machine/Stream.lean ====
section
/-! DEFINITION. Zero-removed streams: `LDZ` and `STZ` (R172-R174). The header is read, and positions are reserved, at
issue; the pairs are accesses in flight. -/

namespace Sys2Proof.Machine

/-- A stream header read out (R172). -/
structure StreamHdr where
  buf : Nat
  capacity : Nat
  needed : Nat
  written : Nat
  ok : Bool

/-- The header in 32 bytes, as a number. -/
def streamHdr (h : Nat) : StreamHdr :=
  { buf := bitsOf h 63 0, capacity := bitsOf h 95 64, needed := bitsOf h 127 96, written := bitsOf h 159 128
    ok := bitsOf h 191 161 = 0 && bitsOf h 255 192 = 0 && bitsOf h 63 0 % 8 = 0 }

/-- Whether an operation of the issuing warp that touches a place is outstanding. -/
def State.warpMeets (s : State) (at_ : Place) (n : Nat) : Bool :=
  s.d.ops.any (fun q => q.uid = s.w.uid && q.pieces.any fun r => (s.placeOf q r).meets r.size at_ n) ||
  s.d.loops.any (fun q => q.uid = s.w.uid && (lanesOf q.filled).any fun l => s.loopMeets q l at_ n)

/-- A number read by the issuing warp's task as a `.CG` load would (R274, R343). -/
def State.taskNat (s : State) (va n : Nat) : Nat :=
  match s.translate s.w.core s.w.ctx va with
  | some x => s.mem.nat (s.locate s.w.ctx s.w.task va x.pa) n
  | none => 0

/-- Whether a read of the issuing warp's task meets an error mark. -/
def State.taskMarked (s : State) (va n : Nat) : Bool :=
  match s.translate s.w.core s.w.ctx va with
  | some x => s.mem.marked (s.locate s.w.ctx s.w.task va x.pa) n
  | none => false

/-- Whether a read of the issuing warp's task must wait: its acquire fences, or its own accesses to the range (R175,
R259). -/
def State.readWaits (s : State) (va n : Nat) : Bool :=
  !s.depsDone s.w.acqAfter ||
  (List.range (n / 4)).any fun k => match s.translate s.w.core s.w.ctx (va + 4 * k) with
    | some x => s.warpMeets (.phys (s.locate s.w.ctx s.w.task (va + 4 * k) x.pa)) 4
    | none => false

/-- The structure that a record of a mark which the issuing word's task meets at an address names (R392). -/
def State.taskCode (s : State) (va : Nat) : Nat :=
  match s.translate s.w.core s.w.ctx va with
  | some x => s.mem.errCode (s.locate s.w.ctx s.w.task va x.pa) 1
  | none => 0

/-- The mark of the line at an address met by the issuing word's task (R392). -/
def State.taskMeets (s : State) (va : Nat) : State :=
  match s.translate s.w.core s.w.ctx va with
  | some x => s.meetMark (s.locate s.w.ctx s.w.task va x.pa) 1
  | none => s

/-- A record of code 0x30 for lanes of the issuing word that read marked data at issue (R392). -/
def State.markNote (s : State) (lanes : Lanes) (va code : Nat) : State :=
  s.noteWarp { s.w.faultRec 0x30 4 lanes with address := va, d0 := BitVec.ofNat 32 code }

/-- A register of a lane written by an operation that completes at issue. -/
def State.deliverNow (s : State) (lanes : List Nat) (r n : Nat) (f : Nat → Nat) : State :=
  s.mapWarp fun w => lanes.foldl (fun v l => Warp.deliver n v r l (f l)) w

/-! ### LDZ (R174) -/

/-- The two halves of a pair read by a lane. -/
def pairLoads (l va : Nat) : List Want :=
  [{ lane := l, off := va, size := 4, byteOfs := 0, act := .load, gone := false },
    { lane := l, off := (va + 4) % 2 ^ 64, size := 4, byteOfs := 4, act := .load, gone := false }]

/-- `LDZ` once its header has been read. -/
def State.ldzRead (s : State) (x : MemW) (act : Lanes) (hva : Nat) (g : Got) : State :=
  let h := streamHdr g.val
  let k := fun l => (s.w.read32 x.b l 1).toNat
  let va := fun l => (h.buf + 8 * k l) % 2 ^ 64
  let live := (lanesOf act).filter fun l => k l < h.written
  if !h.ok then s.raise { code := 0x15, lanes := act, address := hva }
  else
    s.guardLanes 0x0D (badLanes act fun l => k l < h.written && 2 ^ 57 ≤ va l) va (fun _ => 0)
      (let s1 := if g.bad then (g.state.taskMeets hva).mapWarp fun w => w.poison act else g.state
       let none_ := (lanesOf act).filter fun l => h.written ≤ k l
       let s2 := s1.deliverNow none_ (regNum x.d) 2 fun _ => 0xFFFFFFFF00000000
       let s3 := if g.bad && live.isEmpty then s2.markNote act hva g.code else s2
       let o := { s.opOf (.ldz x) .ld with
         dreg := regNum x.d, nreg := 2, after := s.memAfter false false
         marked := if g.bad then (lanesOf act).map fun l => (l, hva) else [], detected := g.code }
       (s3.plan (.virt 0) (x.cp = 1) false 0 (live.flatMap fun l => pairLoads l (va l))).issue (.ldz x) 0 o)

/-- `LDZ`: it waits for the warp's acquire fences and for its own accesses to the header; a header that does not
translate parks the warp at the word. -/
def State.ldzStep (s : State) (x : MemW) : State :=
  let act := s.w.active x.g
  let base := s.w.gbase x.a
  let off := wrapInt 64 x.ofs.toInt
  let hva := (base.va + off) % 2 ^ 64
  if act = 0 then s.advance (.ldz x)
  else s.counted .ld (s.guardGlobal act 32 (fun _ => hva)
    (match s.hit s.w.core s.w.ctx base off with
    | none => (s.parkTransl 0x20 act hva 0).holdCount (some .ld)
    | some t =>
      let at_ := Place.phys (s.locate s.w.ctx s.w.task hva t.pa)
      if !t.r then (s.parkTransl 0x21 act hva 0).holdCount (some .ld)
      else if !s.depsDone s.w.acqAfter || s.warpMeets at_ 32 then s
      else s.ldzRead x act hva (s.readPlace s.w.ctx s.w.core (x.cp = 1 && !t.nol1) at_ 32)))

/-- `LDZ` (R174). -/
def execLdz (x : MemW) (s : State) : Host.Outcome State Fault Refusal :=
  s.checked (.ldz x) fun t => (t.rebind x.a).ldzStep x

/-! ### STZ (R173) -/

/-- The lanes an `STZ` keeps: active, with a value that is not removed. -/
def State.stzKeeps (s : State) (x : MemW) (act : Lanes) : Lanes :=
  maskOf fun l => act.getLsbD l &&
    (if x.sub = 1 then (s.w.read32 x.d l 3).toNat % 2 ^ 31 ≠ 0 else s.w.read32 x.d l 3 ≠ 0)

/-- A header after a reservation of `m` positions (DEDUCED, log entry 69). -/
def StreamHdr.reserve (h : StreamHdr) (m : Nat) : Nat :=
  let needed := satNat 32 (h.needed + m)
  needed + Nat.min needed h.capacity * 2 ^ 32

/-- The two halves of a pair a lane writes. -/
def State.pairStores (s : State) (x : MemW) (l va : Nat) : List Want :=
  [{ lane := l, off := va, size := 4, byteOfs := 0, act := .store (s.w.read32 x.d l 3).toNat, gone := false },
    { lane := l, off := (va + 4) % 2 ^ 64, size := 4, byteOfs := 4, act := .store (s.w.read32 x.d.next l 3).toNat, gone := false }]

/-- The reservation's write of NEEDED, WRITTEN and STATUS, as one indivisible step (R173; DEDUCED, log entry 69). -/
def State.stzReserve (s : State) (hva pa m : Nat) (h : StreamHdr) : Option State :=
  s.modifyAt s.w.ctx s.w.task hva pa 32 fun a t =>
    let status := if h.capacity < satNat 32 (h.needed + m) then t.mem.nat (a + 20) 4 ||| 1 else t.mem.nat (a + 20) 4
    t.modifyBytes s.w.core (a + 12) (bytesLE 8 (h.reserve m) ++ bytesLE 4 status)

/-- `STZ` with its reservation made: the pairs in flight, and fault 0x14 after them where one has no place. -/
def State.stzWrite (s : State) (x : MemW) (q : List Nat) (h : StreamHdr) : State :=
  let needed := satNat 32 (h.needed + q.length)
  let placed := q.zipIdx.filter fun p => h.needed + p.2 < h.capacity
  let lost := maskOf fun l => q.zipIdx.any fun p => p.1 = l && h.capacity ≤ h.needed + p.2
  let spills := lost ≠ 0 && fmodeZovf s.w.fmode
  let plan := s.plan (.virt 0) false false 1 (placed.flatMap fun p => s.pairStores x p.1 ((h.buf + 8 * (h.needed + p.2)) % 2 ^ 64))
  let need := BitVec.ofNat 32 needed
  let cap := BitVec.ofNat 32 h.capacity
  let o := { s.storeOp (.stz x) false with ovf := if spills && !plan.misses.isEmpty then some (lost, need, cap) else none }
  if spills && plan.misses.isEmpty then
    (plan.state.launchOp o (plan.settled 1 false)).raise { code := 0x14, lanes := lost, d0 := need, d1 := cap }
  else plan.issue (.stz x) 1 o

/-- `STZ` with its header read. -/
def State.stzRead (s : State) (x : MemW) (act : Lanes) (hva pa : Nat) (g : Got) : State :=
  let h := streamHdr g.val
  let keeps := s.stzKeeps x act
  let q := lanesOf (keeps &&& ~~~ s.w.poisoned)
  let pairVa := fun j => (h.buf + 8 * (h.needed + j)) % 2 ^ 64
  let far := q.zipIdx.filter fun p => h.needed + p.2 < h.capacity && 2 ^ 57 ≤ pairVa p.2
  if !h.ok then s.raise { code := 0x15, lanes := act, address := hva }
  else if far ≠ [] then
    s.raise { code := 0x0D, lanes := maskOf fun l => far.any fun p => p.1 = l, address := pairVa (far.headD (0, 0)).2 }
  else
    let s1 := s.sinkNote (keeps &&& s.w.poisoned) fun _ => hva
    let s2 := if g.code = 0 then s1 else (s1.markNote act hva g.code).taskMeets hva
    if q.isEmpty then s2.advance (.stz x)
    else match s2.stzReserve hva pa q.length h with
      | none => s
      | some t => t.stzWrite x q h

/-- `STZ`: it waits for the warp's fences and for its own accesses to the header. -/
def State.stzStep (s : State) (x : MemW) : State :=
  let act := s.w.active x.g
  let base := s.w.gbase x.a
  let off := wrapInt 64 (s.w.memOfs x.b x.scl x.ofs.toInt 0)
  let hva := (base.va + off) % 2 ^ 64
  if act = 0 then s.advance (.stz x)
  else s.counted .st (s.guardGlobal act 32 (fun _ => hva)
    (let h := s.hit s.w.core s.w.ctx base off
     match s.accessFault s.w.ctx s.w.task hva 2 h, h with
    | some e, _ => ((s.countMiss s.w.ctx e.2).parkTransl e.1 act hva e.2).holdCount (some .st)
    | none, none => s
    | none, some t =>
      let at_ := Place.phys (s.locate s.w.ctx s.w.task hva t.pa)
      if !s.depsDone (s.w.acqAfter ++ s.w.relAfter) || s.warpMeets at_ 32 then s
      else
        let u := s.settle (s.locate s.w.ctx s.w.task hva t.pa) 32
        u.stzRead x act hva t.pa (u.readPlace s.w.ctx s.w.core false at_ 32)))

/-- `STZ` (R173). -/
def execStz (x : MemW) (s : State) : Host.Outcome State Fault Refusal :=
  s.checked (.stz x) fun t => (t.rebind x.a).stzStep x

end Sys2Proof.Machine
end

