-- ==== Sys2Proof/Machine/Frames.lean ====
section
/-! DEFINITION. Block headers, context slots, the placement of frames, frame identifiers and the spawn queue's entries
(R91-R93, R104, R227, R244, R245, R280, R281, R315, R397, R420). -/

namespace Sys2Proof.Machine

/-! ### Block headers (R91-R93, R104) -/

/-- The header of eight words; `fsize` counts granules (R91). -/
def Header.ofWords (ws : List Word) : Header :=
  let w := fun k => (ws.getD k 0).toNat
  { bnum := bitsOf (w 0) 31 16, clen := bitsOf (w 0) 15 8, seq := bitOf (w 0) 7, xl := bitOf (w 0) 6, mig := bitOf (w 0) 5
    vregs := bitsOf (w 1) 31 26, sregs := bitsOf (w 1) 25 20, bin := bitsOf (w 1) 19 13, gather := bitsOf (w 1) 11 0
    inputs := bitsOf (w 2) 31 20, ctrofs := bitsOf (w 2) 19 8, fsize := bitsOf (w 2) 7 0 + 1
    slot0 := bitsOf (w 3) 31 24, slotn := bitsOf (w 3) 23 16
    succ := [ws.getD 4 0, ws.getD 5 0, ws.getD 6 0, ws.getD 7 0]
    reserved := bitsOf (w 0) 4 0 ≠ 0 || bitOf (w 1) 12 || bitsOf (w 3) 15 0 ≠ 0 }

/-- The fields of a successor entry (R92). -/
structure Succ where
  kind : Nat
  place : Nat
  cclass : Nat
  slot : Nat
  target : Nat
deriving DecidableEq, Repr

/-- A successor entry read (R92). -/
def Succ.of (w : Word) : Succ :=
  { kind := bitsOf w.toNat 31 29, place := bitsOf w.toNat 28 27, cclass := bitsOf w.toNat 26 24
    slot := bitsOf w.toNat 23 16, target := bitsOf w.toNat 15 0 }

/-- Whether a successor entry is well formed and names a block of the task (R92, R93). -/
def succOk (nblk : Nat) (w : Word) : Bool :=
  let e := Succ.of w
  if e.kind = 0 then w == 0
  else e.kind ≠ 7 && e.place ≠ 3 && (e.place = 0 || e.kind = 2 || e.kind = 5 || e.kind = 6) && (e.kind = 6 || decide (e.target < nblk))

/-- What R93 finds in a header: no fault, or its code. -/
def Header.fault (h : Header) (nblk : Nat) : Option Nat :=
  if 32 < h.vregs || 32 < h.sregs then some 0x03
  else if !h.reserved && 1 ≤ h.clen && h.clen ≤ 128 && h.inputs ≠ 0 && h.ctrofs < h.fsize * 16 && h.slot0 + h.slotn ≤ 256 &&
      h.slot0 + h.slotn ≤ h.fsize * 16 && (h.ctrofs < h.slot0 || h.slot0 + h.slotn ≤ h.ctrofs) && h.succ.all (succOk nblk) then
    none
  else some 0x01

/-- A successor entry of a header. -/
def Header.entry (h : Header) (k : Nat) : Succ := Succ.of (h.succ.getD k 0)

/-- The address and header of a block of a task; none where the task has no such block, or the block table or header
does not translate readable (R104, R226, R420). -/
def State.blockAt (s : State) (c task blk : Nat) : Option (Nat × Header) :=
  match (s.d.ctx c).tasks.find task with
  | none => none
  | some t =>
    let e := t.btab + 16 * blk
    if t.nblk ≤ blk || !s.rangeOk c false 2 e 4 then none
    else
      let h := t.code + s.natVirt c e 4
      if s.rangeOk c false 2 h 32 then
        some (h, Header.ofWords ((List.range 8).map fun k => BitVec.ofNat 32 (s.natVirt c (h + 4 * k) 4)))
      else none

/-! ### Context slots (R236, R315) -/

/-- Whether a share holds anything that keeps a slot (R315); a warp's frames stay while it is resident (R112). -/
def Share.busy (x : Share) : Bool :=
  !x.frames.isEmpty || x.vbins.any (fun p => !p.2.isEmpty) || x.sbins.any (fun p => !p.2.isEmpty) ||
  x.queues.any (fun p => !p.2.isEmpty) || x.park.any (fun p => p.2.used) || x.mx.owned || !x.mx.issued.isEmpty ||
  x.copyA.isSome || x.copyB.isSome || !x.ranges.isEmpty || !x.windows.isEmpty

/-- Whether a share holds a slot now (R315): one with nothing left in it has given its slot up. -/
def Share.holds (x : Share) : Bool := x.slot.isSome && !x.saved && x.busy

/-- The shares that hold a slot of a core. -/
def Dev.holders (d : Dev) (g : Nat) : List (Nat × Share) := d.shares.filter fun p => p.1 % 256 = g && p.2.holds

/-- The cores an entry may go to now. One that a hash has placed lists the cores in the order of R281, and goes to the
first that is online. -/
def Dev.goesTo (d : Dev) (e : SpawnEnt) : List Nat :=
  if (d.ctx e.ctx).det && decide (1 < e.cores.length) then (e.cores.find? fun g => !(d.core g).offline).toList else e.cores

/-- Whether a frame of a context waits for a slot of a core, where it holds none (R315, R323). -/
def Dev.spawnWaits (d : Dev) (c g : Nat) : Bool :=
  !(d.share c g).holds && (d.ctx c).state == .active && !(d.ctx c).swapout &&
    d.dies.any fun p => p.2.spawn.any fun e => e.ctx = c && d.goesTo e == [g]

/-- Whether a context waits for a core: a saved share, or a frame (R323; DEDUCED, log entry 24). -/
def Dev.waitsFor (d : Dev) (c g : Nat) : Bool := ((d.ctx c).state == .active && (d.share c g).saved) || d.spawnWaits c g

/-- Whether a core keeps its freed slot for another context (R323; DEDUCED, log entry 24). -/
def Dev.keptFor (d : Dev) (c g : Nat) : Bool :=
  match (d.core g).grant with
  | some k => k ≠ c && d.waitsFor k g
  | none => false

/-- The lowest slot of a core that is free, where the context's granules of core memory are free too (R315). -/
def Dev.freeSlot (d : Dev) (c g : Nat) : Option Nat :=
  let hs := d.holders g
  let used := (hs.map fun p => (d.ctx (p.1 / 256)).frameg + (d.ctx (p.1 / 256)).scrg).foldl (· + ·) 0
  if used + (d.ctx c).frameg + (d.ctx c).scrg ≤ 32 then (List.range 8).find? fun k => hs.all fun p => p.2.slot ≠ some k else none

/-- Whether a context holds a slot on a core, or could take one (R315). -/
def Dev.slotReady (d : Dev) (c g : Nat) : Bool :=
  let x := d.share c g
  !x.saved && (x.holds || (!d.keptFor c g && !(d.ctx c).swapout && (d.freeSlot c g).isSome))

/-! ### Page heat (R338) -/

/-- The size code of a heat record. -/
def heatSize (shift : Nat) : Nat := if shift = 30 then 2 else if shift = 21 then 1 else 0

/-- A heat record appended to a context's buffer; dropped where its place does not translate (R338; DEDUCED, log entry 41). -/
def State.heatRecord (s : State) (c g page shift : Nat) (elements stalls : Word) : State :=
  let k := s.d.ctx c
  if k.heatbuf = 0 || k.heatn = 0 then s
  else
    let va := k.heatbuf + 16 * (k.heatpos % (k.heatn * 256))
    let head := page * 65536 / 2 ^ shift * 2 ^ shift + heatSize shift
    match s.engineAddr c va true with
    | none => s
    | some pa =>
      (s.putMem pa (bytesLE 8 head ++ bytesLE 4 elements.toNat ++ bytesLE 4 stalls.toNat)).mapCtx c fun y =>
        { y with heatpos := (y.heatpos + 1) % (y.heatn * 256) }

/-- The heat of the pages of some translations recorded, as they leave a TLB (R338; DEDUCED, log entry 41). -/
def State.pagesLeave (s : State) (c g : Nat) (es : Map TlbEnt) : State :=
  if (s.d.ctx c).heatbuf = 0 then s
  else ((es.map fun e => (e.1 * 65536 / 2 ^ e.2.shift * 2 ^ e.2.shift / 65536, e.2.shift)).eraseDups).foldl (fun t p =>
    let v := Config.heatCount t.d.free
    t.tick.heatRecord c g p.1 p.2 (v.setWidth 32) ((v >>> 32).setWidth 32)) s

/-- The translations that a core holds for a context dropped, each page's heat recorded (R333, R338). -/
def State.dropTlb (s : State) (c g : Nat) : State :=
  let t := s.pagesLeave c g (s.d.tlb.getD (g * 64 + c) [])
  { t with d := { t.d with tlb := t.d.tlb.del (g * 64 + c) } }

/-- The slot of a context on a core, taken where it holds none: core memory is clear, and the selection and the park
table's generations stay (R153, R336; DESIGN CHOICE, log entry 2); no translation is left from a slot held before (R333). -/
def State.takeSlot (s : State) (c g : Nat) : State :=
  let x := s.d.share c g
  if x.holds then s
  else
    let t := s.dropTlb c g
    { t with d := t.d.setShare c g { Share.empty with
        slot := s.d.freeSlot c g, slotSince := (s.d.core g).clk, sel := x.sel, park := x.park } }

/-- A wait for a core begun (R323). -/
def State.startWait (s : State) (c g : Nat) : State :=
  if s.d.waitsFor c g || (s.d.share c g).holds then s
  else s.mapShare c g fun x => { x with waitSince := (s.d.core g).clk, waitQuanta := 0 }

/-! ### Identifiers (R280) -/

/-- The identifier of the frame created from a lane on a frame, at an ordinal (R280). -/
def fidChild (hi lo : Word) (ord : Nat) : Word × Word :=
  let l := hash32 (lo ^^^ hash32 (BitVec.ofNat 32 ord))
  (hash32 (hi ^^^ l), l)

/-- The identifier of the `k`-th frame of the host launch before which `n` were made (R280). -/
def fidRoot (n k : Nat) : Word × Word :=
  let l := hash32 (BitVec.ofNat 32 n ^^^ hash32 (BitVec.ofNat 32 k))
  (hash32 l, l)

/-- An identifier as one number, hi first (R281). -/
def fidNum (hi lo : Word) : Nat := hi.toNat * 2 ^ 32 + lo.toNat

/-- The frame of a share, or an empty one. -/
def Share.frameAt (x : Share) (ofs : Nat) : Frame := (x.frames.find ofs).getD (Frame.fresh .released 0 0 0 0)

/-- `n` spawn ordinals of a frame taken: its identifier and the first of them (R280). -/
def State.takeOrd (s : State) (c g ofs n : Nat) : (Word × Word × Nat) × State :=
  let f := (s.d.share c g).frameAt ofs
  ((f.fidHi, f.fidLo, f.ord),
    s.mapShare c g fun x => match x.frames.find ofs with
      | some y => { x with frames := x.frames.put ofs { y with ord := y.ord + n } }
      | none => x)

/-! ### Placement (R244, R281) -/

/-- The dies other than the issuing one, in the order of R244. -/
def dieOrder (d : Nat) : List Nat :=
  let col := d % 4
  let at_ := fun (k : Nat) => (if k ≤ col then [col - k] else []) ++ (if col + k < 4 then [col + k] else [])
  ((d + 4) % 8) :: ([1, 2, 3].flatMap at_).flatMap fun c => [c, c + 4]

/-- The cores of a die. -/
def coresOf (die : Nat) : List Nat := (List.range 32).map fun k => die * 32 + k

/-- The offset at which a frame of `n` granules fits on a core now; none where it does not (R227, R315, R397). -/
def Dev.fitsOn (d : Dev) (c n g : Nat) : Option Nat :=
  if (d.core g).offline || !d.slotReady c g then none else d.placeFor c g n

/-- The free frame words of a context on a core. -/
def Dev.freeWords (d : Dev) (c g : Nat) : Nat :=
  (d.ctx c).frameWords - ((d.share c g).frames.map fun p => p.2.size * 16).foldl (· + ·) 0

/-- The core of a list with the most free frame words among those where the frame fits; the first on a tie (R244). -/
def Dev.roomiest (d : Dev) (c n : Nat) (cores : List Nat) : Option Nat :=
  (cores.filter fun g => (d.fitsOn c n g).isSome).foldl (fun b g => match b with
    | none => some g
    | some h => if d.freeWords c h < d.freeWords c g then some g else b) none

/-- The `m` cores from `first` on, in increasing number from the `k`-th and wrapping (R281). -/
def coresFrom (first m k : Nat) : List Nat := (List.range m).map fun j => first + (k + j) % m

/-- The cores a hash chooses for a frame placed with `.ANY` under DET = 1: the first that is online takes it (R281). -/
def hashCores (g : Nat) (mig : Bool) (blk : Nat) (tag : Word) : List Nat :=
  let h := (hash32 (BitVec.ofNat 32 (blk * 65536) ^^^ BitVec.ofNat 32 (bitsOf tag.toNat 19 5))).toNat
  if mig then coresFrom 0 256 (h % 256) else coresFrom (g / 32 * 32) 32 (h % 32)

/-- The cores a placement may use: `place` is 0 for the core `g`, 1 for the core `at_`, 2 for any (R111, R244, R281). -/
def Dev.placeCores (d : Dev) (c g place at_ : Nat) (mig : Bool) (blk : Nat) (tag : Word) : List Nat :=
  if place = 0 then [g]
  else if place = 1 then [at_]
  else if (d.ctx c).det then hashCores g mig blk tag
  else if mig then List.range 256
  else coresOf (g / 32)

/-- The core of a list where a frame goes now (R244). -/
def Dev.pickCore (d : Dev) (c g n : Nat) (cores : List Nat) : Option Nat :=
  match cores with
  | [h] => if (d.fitsOn c n h).isSome then some h else none
  | _ =>
    if cores.contains g && (d.fitsOn c n g).isSome then some g
    else match d.roomiest c n ((coresOf (g / 32)).filter fun h => h ≠ g && cores.contains h) with
      | some h => some h
      | none => (dieOrder (g / 32)).findSome? fun k => d.roomiest c n ((coresOf k).filter fun h => cores.contains h)

/-- A token directed at a frame (R225; DEDUCED, log entry 72). -/
def Token.toFrame (t : Token) (g ofs : Nat) : Token :=
  { t with
    w0 := (t.w0 &&& 0xFFE00FFF#32) ||| BitVec.ofNat 32 (g / 32 % 8 * 2 ^ 12 + g % 32 * 2 ^ 15)
    w1 := (t.w1 &&& 0xFFF80000#32) ||| BitVec.ofNat 32 (ofs % 2 ^ 19) }

/-- Tokens sent in order from a unit. -/
def State.sendAll (s : State) (sender : Nat) (toks : List Token) : State := toks.foldl (fun t k => t.sendTok k sender []) s

/-- A frame allocated on a core at an offset, taking the context's slot there. -/
def State.allocAt (s : State) (c g ofs : Nat) (f : Frame) : State := (s.takeSlot c g).mapShare c g fun x => x.newFrame ofs f

/-- A new live frame on a core where it fits, with its tokens on their way (R227, R245). -/
def State.placeOn (s : State) (e : SpawnEnt) (g : Nat) : State :=
  match s.d.fitsOn e.ctx e.granules g with
  | none => s
  | some ofs =>
    (s.allocAt e.ctx g ofs (Frame.fresh .live e.task e.granules e.fidHi e.fidLo)).sendAll e.sender
      (e.toks.map fun t => Token.toFrame t g ofs)

/-- Entries of a context's collision ring in use: collided tokens, and what the spawn queues placed there (R235, R245). -/
def Dev.collUsed (d : Dev) (c : Nat) : Nat :=
  (d.ctx c).collided.length + (d.dies.map fun p =>
    (p.2.spawn.filter fun e => e.ctx = c && e.ring = 1).length + (p.2.gangs.filter fun e => e.ctx = c && e.ring = 1).length).foldl (· + ·) 0

/-- Whether something is held for a context's collision ring: a token, or an entry of a spawn queue (R235, R245). -/
def Dev.collHeld (d : Dev) (c : Nat) : Bool :=
  !(d.ctx c).heldColl.isEmpty || d.dies.any fun p => p.2.spawn.any (fun e => e.ctx = c && e.ring = 2) || p.2.gangs.any fun e => e.ctx = c && e.ring = 2

/-- The sequence numbers of the entries in a context's collision ring (R235, R245). -/
def Dev.collSeqs (d : Dev) (c : Nat) : List Nat :=
  (d.ctx c).collided.map Collided.seqno ++ d.dies.flatMap fun p =>
    (p.2.spawn.filter fun e => e.ctx = c && e.ring = 1).map SpawnEnt.ringSeq ++ (p.2.gangs.filter fun e => e.ctx = c && e.ring = 1).map GangEnt.ringSeq

/-- The first sequence number from `n` on whose place in a ring, the number mod the capacity, holds no entry: entries leave a
ring in any order (R235, R327, R329; DEDUCED, log entry 87). `fuel` is the number of entries. -/
def freeSeq (cap : Nat) (used : List Nat) : Nat → Nat → Nat
  | 0, n => n
  | fuel + 1, n => if used.any fun k => k % cap = n % cap then freeSeq cap used fuel (n + 1) else n

/-- The sequence number of the next entry of a context's collision ring (R235). -/
def Dev.nextColl (d : Dev) (c : Nat) : Nat :=
  let used := d.collSeqs c
  freeSeq (2 ^ (d.ctx c).clog) used used.length (d.ctx c).collSeq

/-- An entry made in a context's collision ring, at its sequence number mod the capacity; where the ring is full, or does
not translate, none is made and the context is suspended, a full ring with one record (R235, R329; DEDUCED, log entry
87). -/
def State.enterColl (s : State) (c : Nat) (full : FaultRec) (bytes : Nat → List Byte) : Bool × State :=
  let x := s.d.ctx c
  let cap := 2 ^ x.clog
  let n := s.d.nextColl c
  if cap ≤ s.d.collUsed c then
    (false, if s.d.collHeld c then s.suspend c else (s.suspend c).note { full with d0 := BitVec.ofNat 32 cap, d1 := 0 })
  else match s.engineAddr c (x.cring + 32 * (n % cap)) true with
    | none => (false, s.suspend c)
    | some pa => (true, (s.putMem pa (bytes n)).mapCtx c fun y => { y with collSeq := n + 1 })

/-- The ring entry of a frame or gang in a spawn queue: the spec lays out a token's only (R235, R245; DESIGN CHOICE, log
entry 87). -/
def spawnEntry (seqno n : Nat) : List Byte := (List.range 20).map (Config.spawnRingByte seqno) ++ bytesLE 4 n ++ bytesLE 8 0

/-- Where a new entry of a spawn queue goes: the die's 1,024 places, else the context's collision ring (R245). -/
def State.queuePlace (s : State) (die c blk seqno : Nat) : Nat × State :=
  let x := s.d.die die
  if (x.spawn.filter fun e => e.ring = 0).length + (x.gangs.filter fun e => e.ring = 0).length < 1024 then (0, s)
  else
    let r := s.enterColl c { FaultRec.engine 0x1A 2 c (die * 32) with blk := blk } (spawnEntry seqno)
    (if r.1 then 1 else 2, r.2)

/-- A placement on a core that is offline: it is dropped, counted and recorded by its die (R226, R397). -/
def State.dropEnt (s : State) (g : Nat) (e : SpawnEnt) : State :=
  s.dropTok (e.toks.headD { w0 := 0, w1 := 0, w2 := BitVec.ofNat 32 (e.blk + e.ctx * 65536), w3 := 0, w4 := 0 }) 6 (g / 32 * 32)

/-- A frame in the spawn queue of its issuing core's die (R245). -/
def State.queueEnt (s : State) (g : Nat) (e : SpawnEnt) : State :=
  let n := (match s.d.goesTo e with
    | [h] => s.startWait e.ctx h
    | _ => s).fresh
  let q := n.2.queuePlace (g / 32) e.ctx e.blk n.1
  q.2.mapDie (g / 32) fun x => { x with spawn := x.spawn ++ [{ e with seqno := n.1, ring := q.1, ringSeq := n.2.d.nextColl e.ctx }] }

/-- A new live frame in a share that is saved, while a SWAPOUT of its context is under way: its tokens go to the spill ring
(R328, R339). -/
def State.placeSaved (s : State) (e : SpawnEnt) (g : Nat) : Option State :=
  if (s.d.ctx e.ctx).swapout && (s.d.share e.ctx g).saved then
    (s.d.placeFor e.ctx g e.granules).map fun ofs =>
      (s.mapShare e.ctx g fun x => x.newFrame ofs (Frame.fresh .live e.task e.granules e.fidHi e.fidLo)).sendAll e.sender
        (e.toks.map fun t => Token.toFrame t g ofs)
  else none

/-- A frame to be placed from core `g`: at once, or in the spawn queue of the core's die (R244, R245); a placement on
one core that is offline is dropped (R397). -/
def State.placeEnt (s : State) (g : Nat) (e : SpawnEnt) : State :=
  if (match e.cores with
      | [h] => (s.d.core h).offline
      | _ => false) then s.dropEnt g e
  else match s.d.pickCore e.ctx g e.granules (s.d.goesTo e) with
    | some h => s.placeOn e h
    | none => match (s.d.goesTo e).findSome? (s.placeSaved e) with
      | some t => t
      | none => s.queueEnt g e

/-- What a clause spawns: the task that owns the frame, the core it issues from, the block, the placement, the tag that
may choose the core, the identifier, the tokens, and the unit they leave from. -/
structure Spawn where
  ctx : Nat
  task : Nat
  core : Nat
  blk : Nat
  place : Nat
  at_ : Nat
  tag : Word
  fid : Word × Word
  toks : List Token
  sender : Nat
  /-- As in `SpawnEnt`. -/
  first : Bool := false

/-- Tokens dropped, each counted and recorded (R226). -/
def State.dropAll (s : State) (reason g : Nat) (toks : List Token) : State := toks.foldl (fun t k => t.dropTok k reason g) s

/-- The frame of a block whose header is at hand placed with its tokens. -/
def State.spawnWith (s : State) (x : Spawn) (h : Header) : State :=
  s.placeEnt x.core
    { ctx := x.ctx, task := x.task, blk := x.blk, granules := h.fsize
      cores := s.d.placeCores x.ctx x.core x.place x.at_ h.mig x.blk x.tag
      fidHi := x.fid.1, fidLo := x.fid.2, toks := x.toks, seqno := 0, sender := x.sender, ring := 0, first := x.first }

/-- A task that never was, with its revision (R420): its context becomes IDLE where it had no other (R312). -/
def State.voidTask (s : State) (c i : Nat) : State :=
  s.mapCtx c fun x =>
    let ts := x.tasks.del i
    let idle := ts.isEmpty && x.state == .active
    { x with tasks := ts, revs := x.revs.del i, state := if idle then .idle else x.state, swapout := x.swapout && !idle }

/-- A placement whose header cannot be read: no frame, no child and no task, and its tokens are dropped (R420). -/
def State.voidPlace (s : State) (c task core : Nat) (first : Bool) (toks : List Token) : State :=
  let t := s.dropAll 3 core toks
  if first then t.voidTask c task else t

/-- A frame of a block spawned: nothing of it where the header cannot be read (R420). -/
def State.spawn (s : State) (x : Spawn) : State :=
  match s.blockAt x.ctx x.task x.blk with
  | none => s.voidPlace x.ctx x.task x.core x.first x.toks
  | some h => s.spawnWith x h.2

/-! ### The spawn queue (R245, R281) -/

/-- The identifier of a gang's frame: its retire join first, then its threads (R280). -/
def GangEnt.fid (e : GangEnt) (k : Nat) : Word × Word :=
  if e.host then fidRoot e.fidHi.toNat k else fidChild e.fidHi e.fidLo (e.ord + k)

/-- The identifier a gang is served by: that of its first frame (R281). -/
def GangEnt.fidKey (e : GangEnt) : Nat := fidNum (e.fid 0).1 (e.fid 0).2

/-- The entries of a context in a die's spawn queue, frames and gangs: number and identifier. -/
def Dev.entriesOf (d : Dev) (die c : Nat) : List (Nat × Nat) :=
  (((d.die die).spawn.filter fun e => e.ctx = c).map fun e => (e.seqno, fidNum e.fidHi e.fidLo)) ++
    ((d.die die).gangs.filter fun e => e.ctx = c).map fun e => (e.seqno, e.fidKey)

/-- The place in the service of a die's queue of the entry of context `c`, number `n` and identifier `i` (R245, R281): its age;
under DET = 1 the context's entries share out the ages they have by identifier, then by age (DEDUCED, log entry 96). -/
def Dev.servedAt (d : Dev) (die c n i : Nat) : Nat :=
  if (d.ctx c).det then
    let mine := d.entriesOf die c
    let rank := (mine.filter fun e => e.2 < i || (e.2 = i && e.1 < n)).length
    ((mine.map Prod.fst).find? fun m => (mine.filter fun e => e.1 < m).length = rank).getD n
  else n

/-- Whether an entry of a die's queue is served before another: the older, or within a context under DET = 1 that of the lower
identifier (R245, R281). -/
def Dev.goesFirst (d : Dev) (die c n i c' n' i' : Nat) : Bool := decide (d.servedAt die c n i < d.servedAt die c' n' i')

/-- The first of two waiting frames of a die to be served (R245, R281). -/
def Dev.earlier (d : Dev) (die : Nat) (a b : SpawnEnt) : SpawnEnt :=
  if d.goesFirst die b.ctx b.seqno (fidNum b.fidHi b.fidLo) a.ctx a.seqno (fidNum a.fidHi a.fidLo) then b else a

/-- The frame of a die's queue that a core's space goes to next, gangs apart (R245). -/
def Dev.nextFrame (d : Dev) (die g : Nat) : Option SpawnEnt :=
  ((d.die die).spawn.filter fun e =>
      (d.goesTo e).contains g && (d.ctx e.ctx).state == .active && (d.fitsOn e.ctx e.granules g).isSome).foldl
    (fun b e => match b with
      | none => some e
      | some x => some (d.earlier die x e)) none

/-- The lowest free run of `n` bytes of scratch between the windows of a share. -/
def windowRun (n top : Nat) : Nat → Nat → List Window → Option Nat
  | 0, _, _ => none
  | fuel + 1, start, ws =>
    if top < start + n then none
    else match ws.find? fun w => w.base < start + n && start < w.base + w.size with
      | some w => windowRun n top fuel (w.base + w.size) ws
      | none => some start

/-- A directory with `k` more frames of `n` granules; none where one does not fit. -/
def framesIn (n top : Nat) : Nat → Map Frame → Option (Map Frame)
  | 0, m => some m
  | k + 1, m => match freeRun n top 0 m with
    | none => none
    | some o => framesIn n top k (m.put (o * 16) (Frame.fresh .live 0 n 0 0))

/-- Whether a core has room for a member of a gang, behind a frame of `join` granules where it is not 0 (R276). -/
def Dev.memberFits (d : Dev) (e : GangEnt) (join g : Nat) : Bool :=
  let x := if (d.share e.ctx g).holds then d.share e.ctx g else Share.empty
  let top := (d.ctx e.ctx).frameWords / 16
  !(d.core g).offline && d.slotReady e.ctx g &&
  (((if join = 0 then some x.frames else framesIn join top 1 x.frames).bind (framesIn e.granules top (e.gsize / e.gcores))).isSome) &&
  (windowRun (e.gwin * 65536) (d.ctx e.ctx).scratchBytes 32 0 x.windows).isSome

/-- A set of cores that is free for a gang, the lowest whose first has room for the retire join (R276). -/
def State.gangCores (s : State) (die : Nat) (e : GangEnt) : Option (List Nat) :=
  let cs := (if e.mig then List.range 256 else coresOf die).filter (s.d.memberFits e 0)
  match s.blockAt e.ctx e.task e.retire with
  | none => none
  | some h => (cs.find? fun g => s.d.memberFits e h.2.fsize g && decide (e.gcores ≤ (cs.filter fun k => g ≤ k).length)).map fun g =>
    (cs.filter fun k => g ≤ k).take e.gcores

/-- Whether a page that a gang's placement lacked may be there by now (R346). -/
def GangEnt.mayWrite (e : GangEnt) (c : Ctx) : Bool :=
  if e.held = 0x20 then c.freePage.isSome else if e.held = 0x21 then c.revs.isEmpty else true

/-- Whether some set of cores is free for a gang (R276). -/
def State.gangReady (s : State) (die : Nat) (e : GangEnt) : Bool :=
  (s.d.ctx e.ctx).state == .active && e.mayWrite (s.d.ctx e.ctx) && (s.gangCores die e).isSome

/-- Whether a gang that could be placed, and may use the core, is served before an entry (R245, R276). -/
def State.gangBefore (s : State) (die g c n i : Nat) : Bool :=
  (s.d.die die).gangs.any fun e => (e.mig || g / 32 = die) && s.d.goesFirst die e.ctx e.seqno e.fidKey c n i && s.gangReady die e

/-- The frame of a die's queue that a core's space goes to next (R245). -/
def State.nextSpawn (s : State) (die g : Nat) : Option SpawnEnt :=
  match s.d.nextFrame die g with
  | none => none
  | some e => if s.gangBefore die g e.ctx e.seqno (fidNum e.fidHi e.fidLo) then none else some e

/-- An entry of a die's queue placed on a core, where its header can still be read (R420). -/
def State.serve (s : State) (die : Nat) (e : SpawnEnt) (g : Nat) : State :=
  if (s.blockAt e.ctx e.task e.blk).isSome then s.placeOn e g else s.voidPlace e.ctx e.task (die * 32) e.first e.toks

/-- Entries placed on a core until none fits; `fuel` at most. -/
def State.fillCore (s : State) (die g : Nat) : Nat → State
  | 0 => s
  | fuel + 1 => match s.nextSpawn die g with
    | none => s
    | some e =>
      ((s.mapDie die fun x => { x with spawn := x.spawn.filter fun y => y.seqno ≠ e.seqno }).serve die e g).fillCore die g fuel

/-- SPAWN_QUEUE_PLACEMENT: space is free on a core, and the queue places every entry that may go there and fits, oldest
first (R245). -/
def execSpawnQueuePlacement (die core : Nat) (s : State) : Host.Outcome State Fault Refusal :=
  .next (s.fillCore die core ((s.d.die die).spawn.length))

/-- RANGE_SPAWN: the range generator spawns the next index of a RANGE, with its token (R111). -/
def execRangeSpawn (ctx core : Nat) (s : State) : Host.Outcome State Fault Refusal :=
  match (s.d.share ctx core).ranges with
  | [] => .next s
  | r :: rs =>
    if !s.mayRun ctx core then .next s
    else
      let last := r.count ≤ r.next + 1
      let tag := r.tag + BitVec.ofNat 32 r.next
      let tok := mkToken s.d.devnum core r.cclass 0 r.slot { poison := r.poison, last := last } ctx r.blk tag (r.first + BitVec.ofNat 32 r.next)
      let s1 := s.mapShare ctx core fun x => { x with ranges := if last then rs else { r with next := r.next + 1 } :: rs }
      .next (s1.spawn { ctx := ctx, task := r.task, core := core, blk := r.blk, place := 0, at_ := core, tag := tag, fid := fidChild r.fidHi r.fidLo (r.ord + r.next), toks := [tok], sender := core })

end Sys2Proof.Machine
end

