-- ==== Sys2Proof/Machine/Match.lean ====
section
/-! DEFINITION. The matching unit: arrivals, collisions, joins, tag mixes, descriptors and the pool, the spill ring, and
the messages `ARM` and `FFREE` (R118, R119, R226-R237, R271-R273, R277, R328, R329). -/

namespace Sys2Proof.Machine

/-! ### Words of a frame (R228, R229) -/

/-- A word of core memory of a share. -/
def Share.word (x : Share) (k : Nat) : Word := x.words.getD k 0

/-- A word written by the matching unit; `mark` is its poison mark (R228). -/
def Share.putWord (x : Share) (k : Nat) (v : Word) (mark : Bool) : Share :=
  { x with words := Map.putC 0 x.words k v, marks := if mark then x.marks.put k false else x.marks.del k }

/-- A counter word written; its mark stays (R229). -/
def Share.putCtr (x : Share) (k : Nat) (v : Word) : Share := { x with words := Map.putC 0 x.words k v }

/-- The arrival counter word (R229). -/
def ctrWord (tagmix seen : Bool) (tag18 rem : Nat) : Word :=
  BitVec.ofNat 32 (rem % 4096 + tag18 % 2 ^ 18 * 4096 + (if seen then 2 ^ 30 else 0) + (if tagmix then 2 ^ 31 else 0))

def ctrRem (w : Word) : Nat := bitsOf w.toNat 11 0
def ctrTag (w : Word) : Nat := bitsOf w.toNat 29 12
def ctrSeen (w : Word) : Bool := w.getLsbD 30
def ctrMix (w : Word) : Bool := w.getLsbD 31

/-- The arrivals a counter still needs; 0 arms it from the header (R229). -/
def ctrLeft (w : Word) (inputs : Nat) : Nat := if ctrRem w = 0 then inputs else ctrRem w

/-- The arrivals needed after one more: a header of no inputs leaves the field all ones (R229, R230). -/
def ctrDown (left : Nat) : Nat := (left + 4095) % 4096

/-- A frame of a share replaced. -/
def Share.setFrame (x : Share) (ofs : Nat) (f : Frame) : Share := { x with frames := x.frames.put ofs f }

/-! ### The rings (R235, R329) -/

/-- The words of a ring entry: a token's five, and three more. -/
def ringEntry (t : Token) (a b c : Word) : List Byte :=
  [t.w0, t.w1, t.w2, t.w3, t.w4, a, b, c].flatMap fun w => bytesLE 4 w.toNat

/-- A token record whose DETAIL0 alone is used. -/
def ringRec (t : Token) (code cap g : Nat) : FaultRec := { tokRec t code cap g with d1 := 0 }

/-- An item entered in its context's spill ring; held, with the context suspended, where the ring is full or does not
translate (R329). Entry `n` lies at n mod the capacity. -/
def State.spillItem (s : State) (g : Nat) (item : Item) (circuit : Nat) : State :=
  let c := item.tok.ctx
  let x := s.d.ctx c
  let cap := 2 ^ x.slog
  let n := freeSeq cap (x.spill.map Spilled.seqno) x.spill.length x.spillSeq
  let e : Spilled := { seqno := n, circuit := circuit, item := item }
  let hold := fun (t : State) => (t.mapCtx c fun y => { y with heldSpill := y.heldSpill ++ [e] }).suspend c
  if cap ≤ x.spill.length then (if x.heldSpill.isEmpty then (hold s).note (ringRec item.tok 0x1C cap g) else hold s)
  else if !x.heldSpill.isEmpty then hold s
  else match s.engineAddr c (x.sring + 32 * (n % cap)) true with
    | none => hold s
    | some pa =>
      let w6 := BitVec.ofNat 32 (item.kind + item.ctr * 65536)
      (s.putMem pa (ringEntry item.tok (BitVec.ofNat 32 n) w6 0)).mapCtx c fun y => { y with spill := y.spill ++ [e], spillSeq := n + 1 }

/-- A token entered in the collision ring, or kept at its place there (R234, R235, R237). -/
def State.collide (s : State) (c g : Nat) (t : Token) (circuit : Nat) (parked : Bool) (again : Option Nat) : State :=
  match again with
  | some n => s.mapCtx c fun y => { y with
      collided := y.collided.map fun e => if e.seqno = n then { e with ready := false, parked := parked, hit := e.hit || !parked } else e }
  | none =>
    let e : Collided := { seqno := s.d.nextColl c, core := g, tok := t, parked := parked, hit := !parked, circuit := circuit, ready := false }
    let r := s.enterColl c (tokRec t 0x1A 0 g) fun n => ringEntry t (BitVec.ofNat 32 n) 0 0
    r.2.mapCtx c fun y => if r.1 then { y with collided := y.collided ++ [e] } else { y with heldColl := y.heldColl ++ [e] }

/-- A retried token that has arrived: it leaves the ring, and those that an ORDERED one held back are retried next
(R234). -/
def State.leaveRing (s : State) (c : Nat) (t : Token) (circuit : Nat) (again : Option Nat) : State :=
  match again with
  | none => s
  | some n => s.mapCtx c fun y =>
    let rest := y.collided.filter fun e => e.seqno ≠ n
    { y with collided := if t.ordered then rest.map fun e => if e.tok.ofs = t.ofs && e.tok.dest = t.dest && e.circuit = circuit then { e with ready := true } else e else rest }

/-- The collided tokens of some slots of a frame made ready for their retry (R234). -/
def State.readyRetry (s : State) (c g ofs : Nat) (f : Collided → Bool) : State :=
  s.mapCtx c fun y => { y with collided := y.collided.map fun e => if e.core = g && e.tok.ofs = ofs && f e then { e with ready := true } else e }

/-- The input slots of a block that lie in a frame: how many words from SLOT0 on (R228). -/
def Share.slotsIn (x : Share) (ofs : Nat) (h : Header) : Nat := Nat.min h.slotn ((x.frameAt ofs).size * 16 - h.slot0)

/-- The presence bits of a block's input slots cleared in a frame, as when an instance fires (R228, R234). -/
def State.clearInputs (s : State) (c g ofs : Nat) (h : Header) : State :=
  (s.mapShare c g fun x => { x with pres := clearRange x.pres (ofs + h.slot0) (x.slotsIn ofs h) }).readyRetry c g ofs fun e =>
    !e.parked && h.slot0 ≤ e.tok.slot && e.tok.slot < h.slot0 + h.slotn

/-! ### Bins and the pool (R236, R237) -/

/-- Descriptors of the pool that a share uses. -/
def Share.descs (x : Share) : Nat :=
  (x.vbins.map fun p => p.2.length).foldl (· + ·) 0 + (x.sbins.map fun p => p.2.length).foldl (· + ·) 0

/-- Descriptors of a core's pool in use. -/
def Dev.poolUsed (d : Dev) (g : Nat) : Nat := ((d.holders g).map fun p => p.2.descs).foldl (· + ·) 0

/-- Whether the pool of a core has a free descriptor for a context: 512 are reserved to each slot in use, the rest of
8,192 are shared (R236). A slot taken while others use what is then reserved to it gets it as they give it back (DESIGN
CHOICE, log entry 98). -/
def Dev.poolFree (d : Dev) (c g : Nat) : Bool :=
  let hs := d.holders g
  let excess := (hs.map fun p => p.2.descs - 512).foldl (· + ·) 0
  d.poolUsed g < 8192 && ((d.share c g).descs < 512 || excess < 8192 - 512 * hs.length)

/-- Whether an instance is that of the retire join of a window's gang (R277). -/
def Window.retiredBy (w : Window) (g : Nat) (dsc : Desc) : Bool := w.retire = dsc.ofs && w.retireCore = g && w.retireBlk = dsc.blk

/-- The windows of the gang whose retire join's instance is enqueued, freed on every member core (R277). -/
def State.freeWindows (s : State) (c g : Nat) (dsc : Desc) : State :=
  { s with d := { s.d with shares := s.d.shares.map fun p =>
      if p.1 / 256 = c then (p.1, { p.2 with windows := p.2.windows.filter fun w => !w.retiredBy g dsc }) else p } }

/-- A descriptor entered in the bin of its block (R236). The windows of a gang whose retire join it is are freed (R277). -/
def State.binIn (s : State) (c g task : Nat) (h : Header) (dsc : Desc) : State :=
  let n := (if (s.d.share c g).windows.any fun w => w.retiredBy g dsc then s.freeWindows c g dsc else s).fresh
  let r : Ready := { desc := dsc, task := task, since := (s.d.core g).clk, seqno := n.1 }
  n.2.mapShare c g fun x =>
    if h.seq then { x with sbins := x.sbins.upd h.bin [] fun l => l ++ [r] } else { x with vbins := x.vbins.upd h.bin [] fun l => l ++ [r] }

/-- A complete instance enqueued, or parked in its frame's header where the pool has no descriptor (R236, R237). -/
def State.enqueue (s : State) (c g task : Nat) (h : Header) (dsc : Desc) : State :=
  if s.d.poolFree c g then s.binIn c g task h dsc
  else (s.mapShare c g fun x => x.setFrame dsc.ofs { x.frameAt dsc.ofs with park := some dsc }).happen g .parked

/-! ### An arrival (R230-R234, R272) -/

/-- The join logic's part of an arrival (R272). -/
def Frame.joinArrival (f : Frame) (t : Token) : Frame :=
  let a := bitsOf t.w3.toNat 31 20
  if a < f.jlow then { f with jlow := a, jpay := t.w4, jpz := t.poison } else f

/-- The join summary written, and the join fields reset (R272). -/
def Share.joinSummary (x : Share) (ofs ctr : Nat) (f : Frame) : Share :=
  let words := f.size * 16
  let x1 := if ctr + 1 < words then x.putWord (ofs + ctr + 1) (BitVec.ofNat 32 (f.jlow % 4096)) false else x
  let x2 := if ctr + 2 < words then x1.putWord (ofs + ctr + 2) f.jpay f.jpz else x1
  x2.setFrame ofs { f with jlow := 0xFFF, jpay := 0, jpz := false, ctl := f.ctl.filter fun k => k ≠ ctr }

/-- An instance completed by a token: the counter is idle again; a summary, a withheld instance, or a descriptor
(R230, R233, R272). -/
def State.complete (s : State) (c g : Nat) (t : Token) (h : Header) (tag18 : Nat) : State :=
  let x := s.d.share c g
  let f := x.frameAt t.ofs
  let s1 := if f.ctl.contains h.ctrofs then s.mapShare c g fun y => y.joinSummary t.ofs h.ctrofs f else s
  if f.mix.contains h.ctrofs then
    ((s1.mapShare c g fun y => y.setFrame t.ofs { y.frameAt t.ofs with mix := f.mix.filter fun k => k ≠ h.ctrofs }).clearInputs c g t.ofs h).note
      { tokRec t 0x1B 0 g with d0 := BitVec.ofNat 32 tag18, d1 := t.w3 }
  else s1.enqueue c g f.task h { tag := t.w3, blk := t.blk, ofs := t.ofs, last := t.last }

/-- A counted arrival: the counter of the block on the frame, the tag check and the completion (R230, R233). -/
def State.countArrival (s : State) (c g : Nat) (t : Token) (h : Header) : State :=
  let x := s.d.share c g
  let k := t.ofs + h.ctrofs
  let w := x.word k
  let tag := t.w3.toNat % 2 ^ 18
  let tag18 := if ctrSeen w then ctrTag w else tag
  let mixed := tag18 ≠ tag
  let det := (s.d.ctx c).det
  let f := x.frameAt t.ofs
  let f1 := if mixed && det && !f.mix.contains h.ctrofs then { f with mix := h.ctrofs :: f.mix } else f
  let f2 := if t.control && !f1.ctl.contains h.ctrofs then { f1 with ctl := h.ctrofs :: f1.ctl } else f1
  let left := ctrDown (ctrLeft w h.inputs)
  let s1 := s.mapShare c g fun y => y.setFrame t.ofs f2
  if left = 0 then
    (s1.mapShare c g fun y => y.putCtr k (ctrWord (ctrMix w || mixed) false 0 0)).complete c g t h tag18
  else s1.mapShare c g fun y => y.putCtr k (ctrWord (ctrMix w || mixed) true tag18 left)

/-- Whether a token must wait behind an ORDERED one of its circuit for the same frame that has collided, in the ring or held
for want of room there (R234, R235). -/
def Ctx.orderedWait (x : Ctx) (g : Nat) (t : Token) (circuit : Nat) (again : Option Nat) : Bool :=
  (x.collided.any fun e => e.tok.ordered && e.hit && e.core = g && e.tok.ofs = t.ofs && e.circuit = circuit && (match again with
    | some n => decide (e.seqno < n)
    | none => true)) ||
  again.isNone && x.heldColl.any fun e => e.tok.ordered && e.hit && e.core = g && e.tok.ofs = t.ofs && e.circuit = circuit

/-- The effect of a token that has passed its checks (R230). -/
def State.matchTok (s : State) (c g : Nat) (t : Token) (h : Header) (circuit : Nat) (again : Option Nat) : State :=
  let x := s.d.share c g
  let f := x.frameAt t.ofs
  let slot := t.ofs + t.slot
  let present := x.pres.getD slot false
  let counts := t.control || !present
  if (s.d.ctx c).orderedWait g t circuit again then s.collide c g t circuit false again
  else if f.park.isSome && counts && ctrLeft (x.word (t.ofs + h.ctrofs)) h.inputs = 1 then s.collide c g t circuit true again
  else if t.control then
    ((s.leaveRing c t circuit again).mapShare c g fun y => y.setFrame t.ofs (f.joinArrival t)).countArrival c g t h
  else if present then
    (if t.scale then (s.leaveRing c t circuit again).mapShare c g fun y => y.putWord slot t.w4 t.poison
     else s.collide c g t circuit false again)
  else
    ((s.leaveRing c t circuit again).mapShare c g fun y =>
      { y.putWord slot t.w4 t.poison with pres := y.pres.put slot true }).countArrival c g t h

/-- The checks of reasons 1 to 5, and the arrival (R226, R117). -/
def State.arriveTok (s : State) (c g : Nat) (t : Token) (circuit : Nat) : State :=
  let x := s.d.share c g
  if t.illFormed then s.dropTok t 1 g
  else match x.frames.find t.ofs with
    | none => s.dropTok t 2 g
    | some f =>
      if f.state = .released then s.dropTok t 2 g
      else if f.state = .pending then s.mapShare c g fun y => y.setFrame t.ofs { f with waiting := f.waiting ++ [(circuit, t)] }
      else match s.blockAt c f.task t.blk with
        | none => s.dropTok t 3 g
        | some h =>
          if !t.control && f.size * 16 ≤ t.slot then s.dropTok t 4 g
          else if f.size * 16 ≤ h.2.ctrofs then s.dropTok t 5 g
          else s.matchTok c g t h.2 circuit none

/-- A collided token tried again; its block's header may have become unreadable (R234, R226). -/
def State.retryTok (s : State) (c g : Nat) (e : Collided) : State :=
  match s.blockAt c ((s.d.share c g).frameAt e.tok.ofs).task e.tok.blk with
  | none => (s.leaveRing c e.tok e.circuit (some e.seqno)).dropTok e.tok 3 g
  | some h => s.matchTok c g e.tok h.2 e.circuit (some e.seqno)

/-- The retries that come before anything that reaches a core now; `fuel` at most (R234). -/
def State.retryReady (s : State) (c g : Nat) : Nat → State
  | 0 => s
  | fuel + 1 => match (s.d.ctx c).collided.find? fun e => e.core = g && e.ready with
    | none => s
    | some e => (s.retryTok c g e).retryReady c g fuel

/-- A token that arrives behind the retries then due (R234): each entry leaves the ring at most once, and makes each other
ready at most once. -/
def State.arriveBehind (s : State) (c g : Nat) (t : Token) (circuit : Nat) : State :=
  let n := (s.d.ctx c).collided.length + 1
  (s.retryReady c g (n * n)).arriveTok c g t circuit

/-! ### ARM and FFREE at a frame's core (R118, R119) -/

/-- `ARM` performed: REM takes the count, SEEN and TAG18 clear, TAGMIX stays (R119, R229; DEDUCED, log entry 73). -/
def Share.arm (x : Share) (ofs ctr : Nat) (count : Word) : Share :=
  let f := x.frameAt ofs
  (x.putCtr (ofs + ctr) (ctrWord (ctrMix (x.word (ofs + ctr))) false 0 count.toNat)).setFrame ofs
    { f with mix := f.mix.filter fun k => k ≠ ctr, ctl := f.ctl.filter fun k => k ≠ ctr }

/-- An `ARM` that reaches its frame's core (DEDUCED, log entry 73). -/
def State.armAt (s : State) (c g : Nat) (t : Token) (ctr : Nat) : State :=
  match (s.d.share c g).frames.find t.ofs with
  | none => s.dropTok t 2 g
  | some f =>
    if f.state = .released then s.dropTok t 2 g
    else if f.size * 16 ≤ ctr then s.dropTok t 5 g
    else s.mapShare c g fun x => x.arm t.ofs ctr t.w4

/-- A drop that is only counted (R118, R328; DEDUCED, log entry 62). -/
def State.countDrop (s : State) (c : Nat) : State := s.mapCtx c fun x => { x with dropcnt := satNat 32 (x.dropcnt + 1) }

/-- An `FFREE` that reaches its frame's core (DEDUCED, log entry 62). -/
def State.ffreeAt (s : State) (c g ofs : Nat) : State :=
  match (s.d.share c g).frames.find ofs with
  | some f => if f.state = .released then s.countDrop c else s.releaseFrame c g ofs
  | none => s.countDrop c

/-! ### Delivery (R226, R328) -/

/-- An item at its core: the spill ring, a drop, or its effect, as the destination's state says (R226, R328, R397). One for a
core whose entries in the spill ring are not yet replayed waits behind them (R327, R339). -/
def State.deliver (s : State) (item : Item) (circuit : Nat) : State :=
  let t := item.tok
  let c := t.ctx
  let g := t.dest
  let x := s.d.share c g
  let st := (s.d.ctx c).state
  if st = .free || st = .ending then s.countDrop c
  else if t.badCore then s.dropTok t 1 (bitsOf t.w0.toNat 14 12 * 32)
  else if (s.d.core g).offline then s.dropTok t 6 (issuingDie (circuit / 8) g)
  else if x.saved || (!x.holds && (st = .swapped || st = .suspended)) || (s.d.ctx c).spill.any (fun e => e.item.tok.dest = g) then
    s.spillItem g item circuit
  else match item.kind with
    | 0 => if x.holds then (s.happen g (.token c t.ofs (if t.control then 256 else t.slot))).arriveTok c g t circuit else s.dropTok t 2 g
    | 1 => s.armAt c g t item.ctr
    | _ => s.ffreeAt c g t.ofs

/-! ### Messages in flight (R116, R262) -/

/-- A message of a name. -/
def Dev.msg (d : Dev) (id : Nat) : Option Msg := d.net.find? fun m => m.id = id

/-- Whether two messages travel on one circuit (R262). -/
def Msg.sameCircuit (a b : Msg) : Bool :=
  a.sender = b.sender && a.dest = b.dest && a.cclass = b.cclass && a.item.tok.device = b.item.tok.device

/-- The number of a message's circuit at its receiver. -/
def Msg.circuit (m : Msg) : Nat := m.sender * 8 + m.cclass

/-- The circuits that come over device links are one for each class at a receiver (DEDUCED, log entry 13). -/
def linkCircuit (cclass : Nat) : Nat := linkSender * 8 + cclass

/-- Whether a message is the next of its circuit and visible there (R116, R262). -/
def Dev.mayArrive (d : Dev) (m : Msg) : Bool :=
  m.after.isEmpty && ((d.net.takeWhile fun k => k.id ≠ m.id).all fun k => !k.sameCircuit m)

/-- Whether a core has retries to make before it takes another item of a context (R234). -/
def Dev.mustRetry (d : Dev) (c g : Nat) : Bool :=
  (d.ctx c).state != .free && (d.ctx c).state != .ending && !(d.share c g).saved && ((d.ctx c).collided.any fun e => e.core = g && e.ready)

/-- Whether an item would have had to come before what has happened in this clock: a token before the cut of its context, a
release before a token for its frame (R248). -/
def Dev.tooLate (d : Dev) (item : Item) (g : Nat) : Bool :=
  let x := d.core g
  x.now.contains (.cut item.tok.ctx) || (item.kind = 2 && x.tokenNow item.tok.ctx item.tok.ofs)

/-- The device without a message. -/
def State.dropMsg (s : State) (id : Nat) : State := { s with d := { s.d with net := s.d.net.filter fun m => m.id ≠ id } }

/-- An item for another device handed to its path's link, or dropped where the path is down (R403, R404). -/
def State.leaveDevice (s : State) (m : Msg) : State :=
  let t := m.item.tok
  let g := if m.sender < 256 then m.sender else 0
  match (s.d.ctx t.ctx).paths.find t.device with
  | none => s.dropTok t 7 g
  | some l =>
    if s.d.linkUp l then
      { s with d := { s.d with linkOut := (l, m.item) :: s.d.linkOut } }
    else s.dropTok t 7 g

/-- A message of one kind that may arrive, taken. -/
def State.takeMsg (s : State) (id kind : Nat) : State :=
  match s.d.msg id with
  | none => s
  | some m =>
    if m.item.kind ≠ kind || !s.d.mayArrive m then s
    else if m.item.tok.device ≠ s.d.devnum then (s.dropMsg id).leaveDevice m
    else if s.d.mustRetry m.item.tok.ctx m.dest || s.d.tooLate m.item m.dest then s
    else (s.dropMsg id).deliver m.item m.circuit

/-- HELD_TOKEN_VISIBLE: the lane's earlier stores have been performed, and its token is on its circuit (R116). -/
def execHeldTokenVisible (msg : Nat) (s : State) : Host.Outcome State Fault Refusal :=
  match s.d.msg msg with
  | none => .next s
  | some m =>
    if s.depsDone m.after then
      .next { s with d := { s.d with net := s.d.net.map fun k => if k.id = msg then { k with after := [] } else k } }
    else .next s

/-- TOKEN_ARRIVAL: the matching unit takes a token (R226, R230; DEDUCED, log entry 13). -/
def execTokenArrival (src : Arrival) (s : State) : Host.Outcome State Fault Refusal :=
  match src with
  | .net id => .next (s.takeMsg id 0)
  | .link t =>
    if t.device ≠ s.d.devnum then .next (s.sendTok t linkSender [])
    else if s.d.mustRetry t.ctx t.dest || s.d.tooLate { kind := 0, tok := t, ctr := 0 } t.dest then .next s
    else .next (s.deliver { kind := 0, tok := t, ctr := 0 } (linkCircuit t.cclass))

/-- ARM_ARRIVAL: an `ARM` message is performed at its frame's core, in circuit order (R119). -/
def execArmArrival (msg : Nat) (s : State) : Host.Outcome State Fault Refusal := .next (s.takeMsg msg 1)

/-- FFREE_MESSAGE: a remote release reaches its core (R118). -/
def execFfreeMessage (msg : Nat) (s : State) : Host.Outcome State Fault Refusal := .next (s.takeMsg msg 2)

/-- COLLISION_RETRY: the first token of the ring that may be retried on a core is tried again (R234, R237). -/
def execCollisionRetry (ctx core : Nat) (s : State) : Host.Outcome State Fault Refusal :=
  if !s.d.mustRetry ctx core then .next s
  else match (s.d.ctx ctx).collided.find? fun e => e.core = core && e.ready with
    | none => .next s
    | some e => .next (s.retryTok ctx core e)

/-! ### The scanner (R237, R281) -/

/-- A parked descriptor that the scanner may serve: its context, its frame and its block's header. -/
structure Parked where
  ctx : Nat
  ofs : Nat
  frame : Frame
  dsc : Desc
  hdr : Header

/-- The parked descriptors of a context on a core whose block's header can be read (R237, R420). -/
def State.parkedOf (s : State) (c g : Nat) : List Parked :=
  (s.d.share c g).frames.filterMap fun p => p.2.park.bind fun dsc => (s.blockAt c p.2.task dsc.blk).map fun h =>
    { ctx := c, ofs := p.1, frame := p.2, dsc := dsc, hdr := h.2 }

/-- The parked descriptor of the lowest identifier (R281). -/
def lowestFid (ps : List Parked) : List Parked :=
  (ps.foldl (fun b p => match b with
    | none => some p
    | some q => if fidNum p.frame.fidHi p.frame.fidLo < fidNum q.frame.fidHi q.frame.fidLo then some p else some q) none).toList

/-- The parked descriptors the scanner of a core may serve now: those of contexts with a free descriptor; under DET = 1
only the one of the lowest identifier of its context (R237, R281). -/
def State.scanned (s : State) (g : Nat) : List Parked :=
  (s.d.holders g).flatMap fun p =>
    let c := p.1 / 256
    if s.d.poolFree c g then (if (s.d.ctx c).det then lowestFid (s.parkedOf c g) else s.parkedOf c g) else []

/-- A frame's place in a core's scan: by offset, and at one offset by context (R237). -/
def Parked.key (p : Parked) : Nat := p.ofs * 64 + p.ctx

/-- The one of some parked descriptors with the lowest place in the scan. -/
def lowestKey (ps : List Parked) : Option Parked :=
  ps.foldl (fun b p => match b with
    | none => some p
    | some q => if p.key < q.key then some p else some q) none

/-- The parked descriptor that the scanner of a core serves next: in increasing frame offset after the last it served,
then from the lowest again (R237; DEDUCED, log entry 87). -/
def State.scanNext (s : State) (g : Nat) : Option Parked :=
  match lowestKey ((s.scanned g).filter fun p => (s.d.core g).scan ≤ p.key) with
  | some p => some p
  | none => lowestKey (s.scanned g)

/-- PARKED_DESCRIPTOR_SCAN: a parked descriptor enters its bin, and what waited behind it is retried (R234, R237). One freed in
this clock is left to an instance that completes in it (R248). -/
def execParkedDescriptorScan (core : Nat) (s : State) : Host.Outcome State Fault Refusal :=
  match (if (s.d.core core).now.contains .freed then none else s.scanNext core) with
  | none => .next s
  | some p =>
    let s1 := (s.mapShare p.ctx core fun x => x.setFrame p.ofs { p.frame with park := none }).mapCore core fun x => { x with scan := p.key + 1 }
    .next ((s1.binIn p.ctx core p.frame.task p.hdr p.dsc).readyRetry p.ctx core p.ofs fun e => e.parked)

end Sys2Proof.Machine
end

