-- ==== Sys2Proof/Machine/Tasks.lean ====
section
/-! DEFINITION. Tasks: regions, launches by the host and by a TASK clause, gangs, and the completion of a task
(R216, R274-R276, R280, R316-R322, R340, R341). -/

namespace Sys2Proof.Machine

/-! ### The region table (R216, R340, R341) -/

/-- Whether two ranges share a byte. -/
def rangesMeet (a n b m : Nat) : Bool := a < b + m && b < a + n

/-- Whether a region that a revision holds stands in the way of a definition: its index or its range (R341). -/
def Ctx.heldBy (c : Ctx) (idx base len : Nat) : Bool :=
  c.revs.any fun p => p.2.regions.any fun r => r.1 = idx || rangesMeet r.2.base r.2.len base len

/-- Whether a definition breaks R216 or R341. -/
def Ctx.regionBad (c : Ctx) (idx base len : Nat) : Bool :=
  63 < idx || base % 65536 ≠ 0 || len = 0 || len % 65536 ≠ 0 || 2 ^ 57 < base + len ||
  c.regions.any (fun p => p.1 ≠ idx && rangesMeet p.2.base p.2.len base len) || c.heldBy idx base len

/-- A region defined: its counts start anew (R216, R352). -/
def Ctx.define (c : Ctx) (idx : Nat) (r : Region) : Ctx :=
  { c with regions := c.regions.put idx r, rootConf := c.rootConf.del idx, rootGran := c.rootGran.del idx }

/-- The bytes of a range of a context as a number; `a` is an offset in them. -/
def fieldOf (bs : List Byte) (a n : Nat) : Nat := ofBytesLE ((bs.drop a).take n)

/-- A region table entry applied; none where it is refused (R317, R340). -/
def Ctx.applyEntry (c : Ctx) (bs : List Byte) : Option Ctx :=
  let w := fieldOf bs 28 4
  let idx := bitsOf w 5 0
  let r : Region :=
    { base := fieldOf bs 0 8, len := fieldOf bs 8 8, ty := bitsOf w 11 8, merge := bitsOf w 15 12
      nlog := fieldOf bs 16 8, nlogn := fieldOf bs 24 4 }
  if bitsOf w 31 16 ≠ 0 || bitsOf w 7 6 ≠ 0 || r.nlog % 16 ≠ 0 || 7 < r.ty || 7 < r.merge || c.regionBad idx r.base r.len then none
  else some (c.define idx r)

/-! ### Task descriptors (R316, R317, R320) -/

/-- A task descriptor (R316). -/
structure TDesc where
  bytes : List Byte

/-- A field of a descriptor: `n` bytes at `a`, bits `h` to `l` of them. -/
def TDesc.bits (d : TDesc) (a n h l : Nat) : Nat := bitsOf (fieldOf d.bytes a n) h l

def TDesc.entry (d : TDesc) : Nat := d.bits 0 4 31 16
def TDesc.prio (d : TDesc) : Nat := d.bits 0 4 14 12
def TDesc.mode (d : TDesc) : Nat := d.bits 0 4 11 10
def TDesc.det (d : TDesc) : Bool := d.bits 0 4 9 9 = 1
def TDesc.debug (d : TDesc) : Bool := d.bits 0 4 8 8 = 1
def TDesc.hcore (d : TDesc) : Nat := d.bits 4 4 26 24 * 32 + d.bits 4 4 23 19
def TDesc.frameg (d : TDesc) : Nat := d.bits 4 4 18 13
def TDesc.scrg (d : TDesc) : Nat := d.bits 4 4 12 7
def TDesc.nreg (d : TDesc) : Nat := d.bits 4 4 6 0
def TDesc.code (d : TDesc) : Nat := fieldOf d.bytes 8 8
def TDesc.codeLen (d : TDesc) : Nat := fieldOf d.bytes 16 4
def TDesc.nblk (d : TDesc) : Nat := d.bits 20 4 15 0
def TDesc.nsuccx (d : TDesc) : Nat := d.bits 20 4 31 16
def TDesc.btab (d : TDesc) : Nat := fieldOf d.bytes 24 8
def TDesc.succx (d : TDesc) : Nat := fieldOf d.bytes 32 8
def TDesc.const (d : TDesc) : Nat := fieldOf d.bytes 40 8
def TDesc.constLen (d : TDesc) : Nat := d.bits 48 4 16 0
def TDesc.ninit (d : TDesc) : Nat := d.bits 52 4 7 0
def TDesc.regtab (d : TDesc) : Nat := fieldOf d.bytes 56 8
def TDesc.grouptab (d : TDesc) : Nat := fieldOf d.bytes 64 8
def TDesc.inittok (d : TDesc) : Nat := fieldOf d.bytes 72 8
def TDesc.recbuf (d : TDesc) : Nat := fieldOf d.bytes 80 8
def TDesc.reclim (d : TDesc) : Nat := fieldOf d.bytes 88 8
def TDesc.fmode (d : TDesc) : Word := BitVec.ofNat 32 (fieldOf d.bytes 96 4)
def TDesc.srseed (d : TDesc) : Word := BitVec.ofNat 32 (fieldOf d.bytes 100 4)
def TDesc.fd (d : TDesc) (n : Nat) : Word := BitVec.ofNat 32 (fieldOf d.bytes (104 + 4 * n) 4)
def TDesc.gsize (d : TDesc) : Nat := d.bits 136 4 12 0
def TDesc.gcores (d : TDesc) : Nat := d.bits 136 4 19 16
def TDesc.gwin (d : TDesc) : Nat := d.bits 136 4 24 20
def TDesc.gretire (d : TDesc) : Nat := d.bits 140 4 15 0
def TDesc.ggrp (d : TDesc) : Nat := d.bits 140 4 23 16
def TDesc.glist (d : TDesc) : Nat := fieldOf d.bytes 144 8
def TDesc.tbase (d : TDesc) : Word := BitVec.ofNat 32 (fieldOf d.bytes 152 4)
def TDesc.cblk (d : TDesc) : Nat := d.bits 156 4 15 0
def TDesc.crec (d : TDesc) : Nat := fieldOf d.bytes 160 8

/-- Whether a reserved field of a descriptor is not zero. -/
def TDesc.reserved (d : TDesc) : Bool :=
  d.bits 0 4 15 15 ≠ 0 || d.bits 4 4 31 27 ≠ 0 || d.bits 48 4 31 17 ≠ 0 || d.bits 52 4 31 8 ≠ 0 || d.bits 136 4 31 25 ≠ 0 ||
  d.bits 136 4 15 13 ≠ 0 || d.bits 140 4 31 24 ≠ 0 || d.bits 156 4 31 16 ≠ 0 || ((d.bytes.drop 168).any fun b => b != 0#8)

/-- The fields that status 2 rejects, but for the block table (R320). -/
def TDesc.invalid (d : TDesc) : Bool :=
  d.bits 0 4 7 0 ≠ 1 || d.reserved || d.mode = 3 || d.frameg < 4 || 32 < d.frameg + d.scrg || d.nblk ≤ d.entry || 64 < d.nreg ||
  65536 < d.constLen || d.code % 32 ≠ 0 || (d.gsize ≠ 0 && d.ninit ≠ 0)

/-- Whether a range translates readable through a context's tables. -/
def State.readable (s : State) (c va n : Nat) : Bool := s.rangeOk c false (n / 65536 + 2) va n

/-- Whether every object a descriptor names translates readable (R319). -/
def State.objectsOk (s : State) (c : Nat) (d : TDesc) : Bool :=
  s.readable c d.code d.codeLen && s.readable c d.btab (16 * d.nblk) && s.readable c d.succx (16 * d.nsuccx) &&
  s.readable c d.const d.constLen && s.readable c d.regtab (32 * d.nreg) && s.readable c d.inittok (16 * d.ninit) &&
  (d.grouptab = 0 || s.readable c d.grouptab 4096)

/-- Whether a block table entry breaks R104 or points beyond the code. -/
def State.blockBad (s : State) (c : Nat) (d : TDesc) (k : Nat) : Bool :=
  let e := s.readVirt c (d.btab + 16 * k) 16
  fieldOf e 12 4 ≠ 0 || fieldOf e 6 2 ≠ 0 || fieldOf e 4 2 ≠ k || fieldOf e 0 4 % 32 ≠ 0 || d.codeLen < fieldOf e 0 4 + 32

/-- Whether an initial token entry has a reserved bit set (R5, R318). -/
def State.initBad (s : State) (c : Nat) (d : TDesc) (k : Nat) : Bool :=
  let e := s.readVirt c (d.inittok + 16 * k) 16
  bitsOf (fieldOf e 0 4) 31 13 ≠ 0 || fieldOf e 12 4 ≠ 0

/-- Whether the gang fields break R275, or the context has no group table (R274): `scrg` and `grouptab` are the context's
(R320). -/
def TDesc.gangBad (d : TDesc) (scrg grouptab : Nat) : Bool :=
  d.gsize ≠ 0 && (d.gsize < 32 || 4096 < d.gsize || d.gcores = 0 || 8 < d.gcores || d.gsize % (32 * d.gcores) ≠ 0 || scrg < d.gwin ||
    d.nblk ≤ d.gretire || grouptab = 0)

/-- Whether a context field of a descriptor differs from the context's (R317). -/
def Ctx.differs (c : Ctx) (d : TDesc) : Bool :=
  c.det != d.det || c.mode ≠ d.mode || c.frameg ≠ d.frameg || c.scrg ≠ d.scrg || c.grouptab ≠ d.grouptab || c.recbuf ≠ d.recbuf || c.reclim ≠ d.reclim

/-- The region table after a descriptor's entries, applied in order; none where one is refused. -/
def State.applyRegions (s : State) (c : Nat) (d : TDesc) : Option Ctx :=
  (List.range d.nreg).foldl (fun (x : Option Ctx) k => x.bind fun y => y.applyEntry (s.readVirt c (d.regtab + 32 * k) 32)) (some (s.d.ctx c))

/-- FMODE as it is stored: bits of no field are zero, and RM codes 6 and 7 become 0 (R5, R24, R25). In a task descriptor too
they are dropped and not a reason to reject it (DEDUCED, log entry 95). -/
def fmodeStore (w : Word) : Word :=
  if 6 ≤ bitsOf w.toNat 9 7 then w &&& 0x0000FC00#32 else w &&& 0x0000FF80#32

/-- The context fields of the launch that leaves IDLE (R317). -/
def Ctx.begin (c : Ctx) (d : TDesc) : Ctx :=
  { c with
    state := .active, det := d.det, mode := d.mode, frameg := d.frameg, scrg := d.scrg, grouptab := d.grouptab
    recbuf := d.recbuf, reclim := d.reclim, recptr := d.recbuf, prio := d.prio, fmode := fmodeStore d.fmode, srseed := d.srseed
    fd := (List.range 8).map fun n => (n, if d.fd n = 0 then fdDefault else d.fd n) }

/-- Whether contexts may be configured and tasks launched in the boot state (R413). -/
def Dev.launchable (d : Dev) : Bool := d.bootState = 1 || d.bootState = 3 || d.bootState = 4

/-- What the checks of a launch find: a status, or the descriptor, the context after its regions and the task's index
(R319, R320; DEDUCED, log entry 75). -/
def State.checkLaunch (s : State) (c addr : Nat) : Nat ⊕ (TDesc × Ctx × Nat) :=
  let k := s.d.ctx c
  if k.state = .free || k.state = .ending || !s.d.launchable then .inl 8
  else if addr % 64 ≠ 0 then .inl 2
  else if !s.readable c addr 256 then .inl 1
  else
    let d : TDesc := { bytes := s.readVirt c addr 256 }
    if d.invalid then .inl 2
    else if !s.objectsOk c d then .inl 1
    else if (List.range d.nblk).any (s.blockBad c d) || (List.range d.ninit).any (s.initBad c d) then .inl 2
    else if (List.range 8).any fun n => d.fd n != 0 && !fdValid (d.fd n) then .inl 3
    else if (if k.state = .idle then d.gangBad d.scrg d.grouptab else d.gangBad k.scrg k.grouptab) then .inl 4
    else if k.state ≠ .idle && k.differs d then .inl 5
    else match s.applyRegions c d with
      | none => .inl 6
      | some k1 => match k.tasks.freeKey 256 0 with
        | none => .inl 7
        | some i => .inr (d, k1, i)

/-! ### Placing what a launch starts (R318, R319) -/

/-- Where a launch comes from: its core, its placement, FR and its tag, its clause's token, and the frame whose
ordinals its frames take; a host launch has none (R280, R319). -/
structure Source where
  core : Nat
  place : Nat
  at_ : Nat
  fr : Word
  frTag : Word
  clause : Option (Nat × Nat × Bool × Word)
  parent : Option (Nat × Nat × Word × Word × Nat)

/-- The flags of an initial token entry (R318). -/
def initFlags (w : Nat) : TokFlags :=
  { ordered := bitOf w 8, scale := bitOf w 9, control := bitOf w 10, last := bitOf w 11, poison := bitOf w 12 }

/-- The initial tokens of a launch, then its clause's (R318, R319; DEDUCED, log entry 74). -/
def State.firstToks (s : State) (c : Nat) (d : TDesc) (src : Source) : List Token :=
  ((List.range d.ninit).map fun k =>
    let e := s.readVirt c (d.inittok + 16 * k) 16
    mkToken s.d.devnum 0 0 0 (fieldOf e 0 4 % 256) (initFlags (fieldOf e 0 4)) c d.entry (BitVec.ofNat 32 (fieldOf e 4 4)) (BitVec.ofNat 32 (fieldOf e 8 4))) ++
  (match src.clause with
    | some (slot, cclass, poison, pl) => [mkToken s.d.devnum 0 cclass 0 slot { poison := poison } c d.entry src.frTag pl]
    | none => [])

/-- The identifier of the `k`-th frame that a launch creates (R280). -/
def State.launchFid (s : State) (c : Nat) (src : Source) (k : Nat) : Word × Word :=
  match src.parent with
  | some (_, _, hi, lo, ord) => fidChild hi lo (ord + k)
  | none => fidRoot (s.d.ctx c).hostLaunches k

/-- The task of a descriptor. -/
def TDesc.task (d : TDesc) (src : Source) : Task :=
  { code := d.code, codeLen := d.codeLen, btab := d.btab, nblk := d.nblk, succx := d.succx, nsuccx := d.nsuccx, const := d.const
    constLen := d.constLen, crec := d.crec, cblk := d.cblk, fr := src.fr, frTag := src.frTag, child := none
    depth := 0, forks := 0, debug := d.debug, done := false, doneSeq := 0 }

/-- A gang that waits for its cores (R275, R276). A gang of a clause takes an ordinal for each thread (R280). -/
def State.queueGang (s : State) (c i : Nat) (d : TDesc) (src : Source) : State :=
  match s.blockAt c i d.entry with
  | none => s
  | some h =>
    let n := s.fresh
    let id := match src.parent with
      | some (_, _, hi, lo, ord) => (hi, lo, ord)
      | none => (BitVec.ofNat 32 (s.d.ctx c).hostLaunches, 0, 0)
    let s1 := match src.parent with
      | some (g, ofs, _, _, _) => (n.2.takeOrd c g ofs d.gsize).2
      | none => n.2
    let q := s1.queuePlace (src.core / 32) c d.entry n.1
    q.2.mapDie (src.core / 32) fun x => { x with gangs := x.gangs ++ [{
      ctx := c, task := i, gsize := d.gsize, gcores := d.gcores, gwin := d.gwin, entry := d.entry, retire := d.gretire, ggrp := d.ggrp
      glist := d.glist, tbase := d.tbase, mig := h.2.mig, granules := h.2.fsize, fidHi := id.1, fidLo := id.2.1, ord := id.2.2
      host := src.parent.isNone, seqno := n.1, ring := q.1, ringSeq := s1.d.nextColl c }] }

/-- The matrix state at a context's launch (R192); what was issued before goes on, and an owned engine stays so (R324;
DEDUCED, log entry 91). -/
def Matrix.launched (x : Matrix) : Matrix := { Matrix.initial with issued := x.issued, owned := x.owned, due := x.due }

/-- A launch performed: its status, its task's index, and the state (R319, R320; DEDUCED, log entry 75). -/
def State.launch (s : State) (c addr : Nat) (src : Source) : Nat × Nat × State :=
  match s.checkLaunch c addr with
  | .inl status => (status, 0, s)
  | .inr (d, k1, i) =>
    let core := if src.parent.isNone then d.hcore else src.core
    let src1 := { src with core := core, at_ := if src.parent.isNone then core else src.at_ }
    let idle := (s.d.ctx c).state = .idle
    let k2 := if idle then k1.begin d else k1
    let s1 : State := { s with d := s.d.setCtx c { k2 with tasks := k2.tasks.put i (d.task src1) } }
    let s2 := (if idle then
        { s1 with d := { s1.d with shares := s1.d.shares.map fun p => if p.1 / 256 = c then (p.1, { p.2 with mx := p.2.mx.launched }) else p } }
      else s1).forgetCode c 0 0
    if d.gsize ≠ 0 then (0, i, s2.queueGang c i d src1)
    else
      (0, i, s2.spawn { ctx := c, task := i, core := core, blk := d.entry, place := src1.place, at_ := src1.at_, tag := src.frTag, fid := s.launchFid c src1 0, toks := s.firstToks c d src1, sender := managerSender, first := true })

/-! ### Host launches (R319, R320) -/

/-- LAUNCH: a host write of a descriptor's address (R319, R320). -/
def execLaunch (ctx : Nat) (addr : BitVec 64) (s : State) : Host.Outcome State Fault Refusal :=
  if s.d.hostDown || 64 ≤ ctx then .next s else
  let k := s.d.ctx ctx
  if k.state = .free || k.state = .ending || !s.d.launchable then .next (s.mapCtx ctx fun x => { x with lstat := 8, lidx := 0 })
  else if 16 ≤ k.launches.length then .next (s.mapCtx ctx fun x => { x with lstat := 9, lidx := 0 })
  else .next (s.mapCtx ctx fun x => { x with launches := x.launches ++ [addr.toNat] })

/-- LAUNCH_PROCESSING: the context manager takes the next launch of a context (R319); one of a context that is swapped
out or suspended waits. -/
def execLaunchProcessing (ctx : Nat) (s : State) : Host.Outcome State Fault Refusal :=
  let k := s.d.ctx ctx
  match k.launches with
  | [] => .next s
  | a :: rest =>
    if k.state = .swapped || k.state = .suspended then .next s
    else
      let s1 := s.mapCtx ctx fun x => { x with launches := rest }
      let r := s1.launch ctx a { core := 0, place := 0, at_ := 0, fr := nullHandle, frTag := 0, clause := none, parent := none }
      .next (r.2.2.mapCtx ctx fun x =>
        if r.1 = 0 then { x with lstat := 0, lidx := r.2.1, lcount := (x.lcount + 1) % 2 ^ 32, hostLaunches := x.hostLaunches + 1 }
        else { x with lstat := r.1, lidx := 0 })

/-! ### Gangs (R276) -/

/-- `k` frames of the threads of a member placed on its core, with their offsets; none where one does not fit. -/
def State.gangFrames (s : State) (c g task granules : Nat) (fid : Nat → Word × Word) (first : Nat) : Nat → Option (State × List Nat)
  | 0 => some (s, [])
  | k + 1 => match s.gangFrames c g task granules fid first k with
    | none => none
    | some (t, os) => match t.d.fitsOn c granules g with
      | none => none
      | some ofs =>
        let id := fid (first + k)
        some (t.allocAt c g ofs (Frame.fresh .live task granules id.1 id.2), os ++ [ofs])

/-- The retire join allocated on member 0's core and armed with the gang's size (R276). -/
def State.gangRetire (s : State) (e : GangEnt) (g : Nat) : Option (State × Nat) :=
  match s.blockAt e.ctx e.task e.retire with
  | none => none
  | some h => match s.d.fitsOn e.ctx h.2.fsize g with
    | none => none
    | some ofs =>
      let id := e.fid 0
      some ((s.allocAt e.ctx g ofs (Frame.fresh .live e.task h.2.fsize id.1 id.2)).mapShare e.ctx g fun x =>
        x.arm ofs h.2.ctrofs (BitVec.ofNat 32 e.gsize), ofs)

/-- One member's window and frames; the members so far have the thread frames listed. -/
def State.gangMember (s : State) (e : GangEnt) (gen retire g0 : Nat) (cores : List Nat) (m g : Nat) : Option (State × List (Nat × Nat)) :=
  let per := e.gsize / e.gcores
  match s.gangFrames e.ctx g e.task e.granules (fun t => e.fid (1 + t)) (m * per) per with
  | none => none
  | some (t, os) =>
    match windowRun (e.gwin * 65536) (t.d.ctx e.ctx).scratchBytes 32 0 (t.d.share e.ctx g).windows with
    | none => none
    | some base =>
      let win : Window := { base := base, gen := gen, member := m, cores := cores, retire := retire, retireCore := g0, retireBlk := e.retire, size := e.gwin * 65536, frames := os.map fun o => (g, o), task := e.task }
      some (t.mapShare e.ctx g fun x => { x with windows := x.windows ++ [win] }, os.map fun o => (g, o))

/-- Every member's window and frames, in member order (DEDUCED, log entry 74). -/
def State.gangMembers (s : State) (e : GangEnt) (gen retire g0 : Nat) (cores : List Nat) : List (Nat × Nat) → Option (State × List (Nat × Nat))
  | [] => some (s, [])
  | (m, g) :: rest => match s.gangMember e gen retire g0 cores m g with
    | none => none
    | some (t, fs) => (t.gangMembers e gen retire g0 cores rest).map fun r => (r.1, fs ++ r.2)

/-- Words written by a unit for a task at a virtual address; words that do not translate are not written. None where a write
is not possible now: then its address and the page it meets (R342, R346). -/
def State.unitWords (s : State) (c g task va : Nat) : List Word → State ⊕ (Nat × Nat)
  | [] => .inl s
  | w :: ws =>
    match s.engineAddr c va true with
    | none => s.unitWords c g task (va + 4) ws
    | some pa => match (s.settle pa 4).writeAt c g task va pa (bytesLE 4 w.toNat) with
      | some t => t.unitWords c g task (va + 4) ws
      | none => .inr (va, pa)

/-- The gang word of a thread of member `m` (R276). -/
def gangWord (m gen gcores : Nat) : Word := BitVec.ofNat 32 (m % 8 * 2 ^ 28 + gen % 128 * 2 ^ 21 + (gcores - 1) % 8 * 2 ^ 18)

/-- The three tokens of a thread (R276). -/
def State.threadToks (s : State) (e : GangEnt) (gen : Nat) (retire : Word) (per : Nat) (p : (Nat × Nat) × Nat) : List Token :=
  let t := p.2
  let tok := fun (slot : Nat) (v : Word) => mkToken s.d.devnum p.1.1 0 p.1.2 slot {} e.ctx e.entry (e.tbase + BitVec.ofNat 32 t) v
  [tok 0 (BitVec.ofNat 32 t), tok 1 (gangWord (t / per) gen e.gcores), tok 2 retire]

/-- Whether a set of cores may hold a gang: in increasing number, on the queue's die unless the entry block may leave
it (R276). -/
def GangEnt.coresOk (e : GangEnt) (die : Nat) (cores : List Nat) : Bool :=
  cores.length = e.gcores && (cores.zip (cores.drop 1)).all (fun p => p.1 < p.2) && cores.all fun g => g < 256 && (e.mig || g / 32 = die)

/-- A gang that a write of its placement keeps waiting: one record and one count in RPCNT for it, as for a write held in the
device; it stays in the spawn queue and reserves nothing (R276, R342, R346; DEDUCED, log entry 92). -/
def State.holdGang (s : State) (e : GangEnt) (va pa : Nat) : State :=
  let code := if (s.d.ctx e.ctx).hostBarred va pa then 0x21 else 0x20
  let d0 := if code = 0x20 then 3 else 1
  if e.held ≠ 0 then s
  else
    let t := (s.mapCtx e.ctx fun k => if d0 = 3 then { k with rpparked := satNat 16 (k.rpparked + 1) } else k).note
      { FaultRec.engine code 1 e.ctx 0 with address := va, d0 := BitVec.ofNat 32 d0 }
    { t with d := { t.d with dies := t.d.dies.map fun p => (p.1, { p.2 with
        gangs := p.2.gangs.map fun k => if k.seqno = e.seqno then { k with held := code } else k }) } }

/-- A gang placed on its cores, or kept waiting by a write; none where it does not fit (R276). -/
def State.placeGang (s : State) (e : GangEnt) (cores : List Nat) : Option State :=
  let g0 := cores.headD 0
  let gen := ((s.d.ctx e.ctx).ganggen + 1) % 128
  match (s.mapCtx e.ctx fun x => { x with ganggen := gen }).gangRetire e g0 with
  | none => none
  | some (s1, retire) => match s1.gangMembers e gen retire g0 cores (cores.zipIdx.map fun p => (p.2, p.1)) with
    | none => none
    | some (s2, fs) =>
      let ent := (s.d.ctx e.ctx).grouptab + 16 * e.ggrp
      match s2.unitWords e.ctx g0 e.task e.glist (fs.map fun p => handleOf p.1 p.2) with
      | .inr x => some (s.holdGang e x.1 x.2)
      | .inl s3 =>
        match s3.unitWords e.ctx g0 e.task ent [BitVec.ofNat 32 e.glist, BitVec.ofNat 32 (e.glist / 2 ^ 32), BitVec.ofNat 32 e.gsize] with
        | .inr x => some (s.holdGang e x.1 x.2)
        | .inl s4 =>
          let s5 := { s4 with d := { s4.d with dies := s4.d.dies.map fun p => (p.1, { p.2 with gangs := p.2.gangs.filter fun k => k.seqno ≠ e.seqno }) } }
          some (State.sendAll s5 managerSender (fs.zipIdx.flatMap (s.threadToks e gen (handleOf g0 retire) (e.gsize / e.gcores))))

/-- Whether a waiting gang is the next that its die's queue serves on some cores: no frame or gang that could be placed goes
before it (R245, R276, R281). -/
def State.gangNext (s : State) (die : Nat) (e : GangEnt) (cores : List Nat) : Bool :=
  ((s.d.die die).gangs.all fun k => !(s.d.goesFirst die k.ctx k.seqno k.fidKey e.ctx e.seqno e.fidKey && s.gangReady die k)) &&
  cores.all fun g => match s.d.nextFrame die g with
    | some k => !s.d.goesFirst die k.ctx k.seqno (fidNum k.fidHi k.fidLo) e.ctx e.seqno e.fidKey
    | none => true

/-- Whether the headers of a gang's blocks can be read (R420). -/
def State.gangHeaders (s : State) (e : GangEnt) : Bool :=
  (s.blockAt e.ctx e.task e.entry).isSome && (s.blockAt e.ctx e.task e.retire).isSome

/-- GANG_PLACEMENT: a set of cores is free, and a waiting gang whose turn it is goes there (R245, R276). One whose blocks'
headers cannot be read makes no frame and no task, and one drop with reason 3 stands for its tokens, which name frames that
there are not (R420; DESIGN CHOICE, log entry 97). -/
def execGangPlacement (die idx : Nat) (cores : List Nat) (s : State) : Host.Outcome State Fault Refusal :=
  match (s.d.die die).gangs[idx]? with
  | none => .next s
  | some e =>
    if (s.d.ctx e.ctx).state ≠ .active then .next s
    else if !s.gangHeaders e then
      .next ((s.mapDie die fun x => { x with gangs := x.gangs.filter fun k => k.seqno ≠ e.seqno }).voidPlace e.ctx e.task (die * 32) true
        [mkToken s.d.devnum (die * 32) 0 0 0 {} e.ctx e.entry e.tbase 0])
    else if !e.coresOk die cores || !s.gangNext die e cores then .next s
    else .next ((s.placeGang e cores).getD s)

/-! ### Completion (R17, R322, R348) -/

/-- Whether a child may be merged now: it has completed, and every child of its parent with a smaller ordinal has joined. -/
def Ctx.mayJoin (c : Ctx) (q : Nat) : Bool :=
  match c.tasks.find q with
  | none => false
  | some t => match t.child with
    | none => false
    | some k => t.done && c.tasks.all fun p => p.1 = q || (match p.2.child with
      | some j => j.parent ≠ k.parent || decide (k.ordinal ≤ j.ordinal)
      | none => true)

/-- Whether a task has a token on its way, in flight or in the spill ring (R322). -/
def Dev.tokensDue (d : Dev) (c task : Nat) : Bool :=
  let mine := fun (i : Item) => i.kind = 0 && i.tok.ctx = c && i.task = task
  (d.net.any fun m => mine m.item) || (d.ctx c).spill.any (fun e => mine e.item) || (d.ctx c).heldSpill.any fun e => mine e.item

/-- Whether an accepted engine command's completion token names one of a task's frames, or a write of a warp of the task is
not yet performed (R322). -/
def Dev.worksFor (d : Dev) (c task : Nat) : Bool :=
  (d.shares.any fun p => p.1 / 256 = c && (p.2.copyA.toList ++ p.2.copyB.toList).any fun k => k.entry.names = task) ||
  (d.dies.any fun p => p.2.encke.any fun k => k.ctx = c && k.entry.names = task) ||
  (d.ops.any fun o => o.ctx = c && o.task = task && o.isWrite) || d.loops.any fun o => o.ctx = c && o.task = task

/-- Whether a task has anything left: a frame, a token or frame that waits to be placed, a token on its way, a RANGE in hand,
a gang or its window, a child that has not joined, or an engine command of a frame of it (R322). -/
def Dev.taskBusy (d : Dev) (c task : Nat) : Bool :=
  d.tokensDue c task || d.worksFor c task ||
  (d.shares.any fun p => p.1 / 256 = c &&
    (p.2.frames.any (fun f => f.2.task = task && f.2.state != .released) || p.2.ranges.any (fun r => r.task = task) || p.2.windows.any fun w => w.task = task)) ||
  (d.dies.any fun p => p.2.spawn.any (fun e => e.ctx = c && e.task = task) || p.2.gangs.any fun e => e.ctx = c && e.task = task) ||
  ((d.ctx c).tasks.any fun p => match p.2.child with
    | some k => k.parent = task
    | none => false)

/-- The completion record of a task (R322); none while a page of the pool is lacking for it (R344, R346; DEDUCED, log entry
92). -/
def State.writeCrec (s : State) (c i : Nat) (t : Task) : Option State :=
  if t.crec = 0 then some s else s.writeFor c i t.crec (bytesLE 4 0 ++ bytesLE 4 i)

/-- The completion record and the completion token of a task (R321, R322). -/
def State.completeTask (s : State) (c i : Nat) (t : Task) : State :=
  let s2 := ((s.writeCrec c i t).getD s).mapCtx c fun x => { x with donecnt := (x.donecnt + 1) % 2 ^ 32 }
  if t.fr = nullHandle then s2
  else s2.sendTok (tokenTo s.d.devnum t.fr 0 0 { control := true } c t.cblk t.frTag 0) managerSender []

/-- A task index free again; with its last task a context becomes IDLE (R312, R322). -/
def State.endTask (s : State) (c i : Nat) : State :=
  s.mapCtx c fun x =>
    let ts := x.tasks.del i
    let idle := ts.isEmpty && x.state == .active
    { x with tasks := ts, state := if idle then .idle else x.state, swapout := x.swapout && !idle }

/-- TASK_COMPLETION: a task with nothing left completes (R322); a child then waits for its merge (R348). -/
def execTaskCompletion (ctx task : Nat) (s : State) : Host.Outcome State Fault Refusal :=
  match (s.d.ctx ctx).tasks.find task with
  | none => .next s
  | some t =>
    if t.done || (s.d.ctx ctx).state = .ending || s.d.taskBusy ctx task || (s.writeCrec ctx task t).isNone then .next s
    else match t.child with
      | some _ =>
        let n := (s.completeTask ctx task t).fresh
        .next (n.2.mapCtx ctx fun x => { x with tasks := x.tasks.put task { t with done := true, doneSeq := n.1 } })
      | none => .next ((s.completeTask ctx task t).endTask ctx task)

end Sys2Proof.Machine
end

