-- ==== Sys2Proof/Machine/Control.lean ====
section
/-! DEFINITION. Control flow: the terminators and their clauses, `SEND`, `SENDM`, `ARM`, `FALLOC`, `FFREE`, `BRK`, `ECALL`
and the end of a wait for the counters (R107-R119, R218, R221, R274, R280, R321, R347). -/

namespace Sys2Proof.Machine

/-! ### Waiting for the counters (R55, R110, R114, R221) -/

/-- Whether the four counters are zero. -/
def Warp.drained (w : Warp) : Bool := w.ldc = 0 && w.stc = 0 && w.cpc = 0 && w.tlc = 0

/-- Whether the records of a warp's words have been written, which come before what it sends at its end (R46): none waits,
and none of its drains is sure to write one. Drains are waited for in no other way: a stream before one may need what the
terminator's tokens start (R207; DEDUCED, log entry 105). -/
def State.recorded (s : State) (w : Warp) : Bool :=
  let x := (s.d.share w.ctx w.core).mx
  !s.recordsDue w && x.issued.all fun m => m.uid ≠ w.uid || !x.recordDue m

/-- Whether a word that waits for the counters may act: they are zero, the writes counted nowhere are performed too, which
the release of its tokens or its record covers (R110, R258), and at a terminator the warp's records are written. An `ENDR`
also lets the release of a frame go before a token for it, so it does not follow one in its clock (R248). -/
def State.mayAct (s : State) (w : Warp) (i : Instr) : Bool :=
  w.drained && s.d.ops.all (fun o => o.uid ≠ w.uid) &&
  (match i with
    | .endK _ => s.recorded w
    | .endR _ => s.recorded w && (lanesOf w.filled).all fun l => !(s.d.core w.core).tokenNow w.ctx (w.frame.getD l 0)
    | _ => true)

/-- The warp of a word that acts: its registers hold the results of what was in flight (R54, R110). -/
def Warp.settled (w : Warp) : Warp := { w with status := .running, inflight := [] }

/-- A word that waits until the counters are zero, then acts (DEDUCED, log entry 79). -/
def State.whenDrained (s : State) (i : Instr) (k : State → State) : State :=
  if s.mayAct s.w i then k (s.mapWarp Warp.settled)
  else s.mapWarp fun w => { w with status := .draining i }

/-! ### Clauses (R81, R110, R111) -/

/-- The lanes in which a clause is on. -/
def Warp.clauseOn (w : Warp) (c : Clause) : Lanes :=
  let p := w.pred (c.cpred.toNat % 8)
  w.filled &&& (if c.cpred.getLsbD 3 then ~~~ p else p)

/-- A clause register of a lane. -/
def Warp.clauseReg (w : Warp) (r : BitVec 6) (l : Nat) : Word := w.read32 (.v (r.setWidth 8)) l

/-- The clauses of a terminator with their successor entries. -/
def Warp.clauses (w : Warp) (x : EndW) : List (Clause × Succ) :=
  [(x.c0, w.hdr.entry 0), (x.c1, w.hdr.entry 1), (x.c2, w.hdr.entry 2), (x.c3, w.hdr.entry 3)]

/-- Whether a used clause names an entry of KIND none (R81). -/
def Warp.clauseMissing (w : Warp) (x : EndW) : Bool := (w.clauses x).any fun p => p.1.cpred ≠ 15 && p.2.kind = 0

/-- Whether a handle is well formed for the issuing context and not null (R107; DEDUCED, log entry 65). -/
def State.goodHandle (s : State) (h : Word) : Bool := h != nullHandle && (s.d.ctx s.w.ctx).wellFormed h

/-- The issuing warp's task. -/
def State.task (s : State) : Option Task := (s.d.ctx s.w.ctx).tasks.find s.w.task

/-- Whether a clause's registers pass their check in a lane (R111). -/
def State.clauseOk (s : State) (e : Succ) (fr pl : Word) : Bool :=
  match e.kind with
  | 1 | 4 | 5 => s.goodHandle fr
  | 2 => e.place ≠ 1 || decide (fr.toNat < 256)
  | 3 => decide (pl.toNat ≤ 65536)
  | 6 => (s.goodHandle fr || (fr == nullHandle && e.place ≠ 1)) && decide (e.target < (s.task.map Task.nsuccx).getD 0)
  | _ => true

/-- The lanes that fail the check of some clause. -/
def State.clauseFails (s : State) (x : EndW) : Lanes :=
  (s.w.clauses x).foldl (fun m p =>
    m ||| maskOf fun l => (s.w.clauseOn p.1).getLsbD l && !s.clauseOk p.2 (s.w.clauseReg p.1.fr l) (s.w.clauseReg p.1.pl l)) 0

/-- The core on which a clause of a placement puts its frame, where it names one (R111). -/
def placeAt (e : Succ) (fr : Word) : Nat := if e.kind = 2 then fr.toNat % 256 else handleCore fr

/-- A token of the issuing warp's lane `l`. -/
def State.laneTok (s : State) (l : Nat) (h : Word) (e : Succ) (control : Bool) (tag payload : Word) : Token :=
  tokenTo s.d.devnum h e.cclass e.slot { poison := s.w.pz.getLsbD l, control := control } s.w.ctx e.target tag payload

/-- The limits of a fork, in table order (R347). -/
def State.forkStatus (s : State) (t : Task) : Nat :=
  let c := s.d.ctx s.w.ctx
  let kids := c.tasks.filter fun p => match p.2.child with
    | some k => k.parent = s.w.task
    | none => false
  if 16 ≤ kids.length then 1 else if 8 ≤ t.depth then 2 else if c.freePage.isNone then 3
  else if (c.tasks.freeKey 256 0).isNone then 4 else 0

/-- The child of a fork, with its revision of every region then defined and its record's page (R218, R347). -/
def State.makeChild (s : State) (t : Task) (e : Succ) (fr tg : Word) (fid : Word × Word) (i : Nat) : State :=
  s.mapCtx s.w.ctx fun c =>
    let ord := if c.det then fidNum fid.1 fid.2 else t.forks
    let kid : Child := { parent := s.w.task, ordinal := ord, fr := fr, tg := tg, blk := (e.target + 1) % 65536, cclass := e.cclass }
    let rev : Revision := { regions := c.regions, own := [], dirty := [], anc := [], conflicts := [], granules := [], record := c.freePage.getD 0, count := 0, stuck := none, gen := 0 }
    { c with
      tasks := (c.tasks.put s.w.task { t with forks := t.forks + 1 }).put i
        { t with fr := nullHandle, frTag := 0, crec := 0, cblk := 0, child := some kid, depth := t.depth + 1, forks := 0, done := false }
      revs := c.revs.put i rev }

/-- A FORK clause in a lane (R218, R347, R420). -/
def State.forkLane (s0 : State) (l : Nat) (e : Succ) (fr pl tg : Word) : State :=
  let o := s0.takeOrd s0.w.ctx s0.w.core (s0.w.frame.getD l 0) 1
  let s := o.2
  let fid := fidChild o.1.1 o.1.2.1 o.1.2.2
  let c := s.w.ctx
  let tok := mkToken s.d.devnum 0 e.cclass 0 e.slot { poison := s.w.pz.getLsbD l } c e.target tg pl
  match s.task with
  | none => s
  | some t =>
    let status := s.forkStatus t
    if status ≠ 0 then
      let s1 := if status = 3 then s.mapCtx c fun x => { x with rprefused := satNat 16 (x.rprefused + 1) } else s
      s1.sendTok (s.laneTok l fr { e with target := (e.target + 1) % 65536 } true tg (BitVec.ofNat 32 (0xFFFFFF00 + status))) s.w.core []
    else match (s.d.ctx c).tasks.freeKey 256 0, s.blockAt c s.w.task e.target with
      | some i, some h =>
        (s.makeChild t e fr tg fid i).spawnWith
          { ctx := c, task := i, core := s.w.core, blk := e.target, place := e.place, at_ := placeAt e fr, tag := tg, fid := fid, toks := [tok], sender := s.w.core, first := true } h.2
      | _, _ => s.dropTok tok 3 s.w.core

/-- A TASK clause in a lane (R111, R319, R321). An entry with a reserved bit set rejects the launch with status 2 (R5, R104;
DEDUCED, log entry 90). -/
def State.taskLane (s0 : State) (l : Nat) (e : Succ) (fr pl tg : Word) : State :=
  let ofs := s0.w.frame.getD l 0
  let o := s0.takeOrd s0.w.ctx s0.w.core ofs 1
  let s := o.2
  let c := s.w.ctx
  let at_ := ((s.task.map Task.succx).getD 0) + 16 * e.target
  if !s.readable c at_ 16 then
    (s.countDrop c).note { FaultRec.engine 0x10 2 c s.w.core with
      blk := s.w.blk, tag := tg, frame := handleOf s.w.core ofs, d0 := 9, d1 := BitVec.ofNat 32 e.target }
  else
    let ent := s.readVirt c at_ 16
    let r := if fieldOf ent 8 4 ≠ 0 || fieldOf ent 14 2 ≠ 0 then (2, 0, s) else s.launch c (fieldOf ent 0 8)
      { core := s.w.core, place := e.place, at_ := placeAt e fr, fr := fr, frTag := tg, clause := some (e.slot, e.cclass, s.w.pz.getLsbD l, pl)
        parent := some (s.w.core, ofs, o.1.1, o.1.2.1, o.1.2.2) }
    if r.1 = 0 || fr = nullHandle then r.2.2
    else
      r.2.2.sendTok (tokenTo s.d.devnum fr 0 0 { control := true } c (fieldOf ent 12 2) tg (BitVec.ofNat 32 (0xFFFFFF00 + r.1))) managerSender []

/-- One clause in one lane (R111). -/
def State.clauseLane (s : State) (e : Succ) (c : Clause) (l : Nat) : State :=
  let fr := s.w.clauseReg c.fr l
  let pl := s.w.clauseReg c.pl l
  let tg := s.w.clauseReg c.tg l
  let w := s.w
  let ofs := w.frame.getD l 0
  match e.kind with
  | 1 => s.sendTok (s.laneTok l fr e false tg pl) w.core []
  | 4 => s.sendTok (s.laneTok l fr e true tg pl) w.core []
  | 2 =>
    let o := s.takeOrd w.ctx w.core ofs 1
    let tok := mkToken s.d.devnum 0 e.cclass 0 e.slot { poison := w.pz.getLsbD l } w.ctx e.target tg pl
    o.2.spawn { ctx := w.ctx, task := w.task, core := w.core, blk := e.target, place := e.place, at_ := placeAt e fr, tag := tg, fid := fidChild o.1.1 o.1.2.1 o.1.2.2, toks := [tok], sender := w.core }
  | 3 =>
    if pl = 0 then s
    else
      let o := s.takeOrd w.ctx w.core ofs pl.toNat
      let job : RangeJob :=
        { task := w.task, blk := e.target, slot := e.slot, cclass := e.cclass, first := fr, tag := tg, next := 0, count := pl.toNat
          poison := w.pz.getLsbD l, fidHi := o.1.1, fidLo := o.1.2.1, ord := o.1.2.2 }
      o.2.mapShare w.ctx w.core fun x => { x with ranges := x.ranges ++ [job] }
  | 5 => s.forkLane l e fr pl tg
  | 6 => s.taskLane l e fr pl tg
  | _ => s

/-- A pending frame committed: it is live, and its tokens arrive in their order (R117; DEDUCED, log entry 72). -/
def State.commitFrame (s : State) (c g ofs : Nat) : State :=
  match (s.d.share c g).frames.find ofs with
  | none => s
  | some f =>
    if f.state ≠ .pending then s
    else
      f.waiting.foldl (fun t p => t.arriveBehind c g p.2 p.1)
        (s.mapShare c g fun x => x.setFrame ofs { f with state := .live, waiting := [] })

/-- The terminator's effect once its checks have passed (R110, R112). -/
def State.terminate (s : State) (x : EndW) (release : Bool) : State :=
  let w := s.w
  let s1 := (w.clauses x).foldl (fun t p => (lanesOf (w.clauseOn p.1)).foldl (fun u l => u.clauseLane p.2 p.1 l) t) s
  let s2 := w.pend.foldl (fun t o => t.commitFrame w.ctx w.core o) s1
  let s3 := s2.mapWarp fun v => { v with pend := [] }
  (if release then (lanesOf w.filled).foldl (fun t l => t.releaseFrame w.ctx w.core (w.frame.getD l 0)) s3 else s3).endWarp

/-- The terminator once the counters are zero (R110). -/
def State.termStep (s : State) (x : EndW) (release : Bool) : State :=
  let bad := s.clauseFails x
  if bad ≠ 0 then s.raise { code := 0x11, lanes := bad } else s.terminate x release

/-- A terminator word (R81, R110). -/
def State.endWord (s : State) (i : Instr) (x : EndW) (release : Bool) : State :=
  if s.w.clauseMissing x then s.raiseAll 0x01 else s.whenDrained i fun t => t.termStep x release

/-- `END` (R110). -/
def execEndK (x : EndW) (s : State) : Host.Outcome State Fault Refusal := s.checked (.endK x) fun t => t.endWord (.endK x) x false

/-- `ENDR` (R112). -/
def execEndR (x : EndW) (s : State) : Host.Outcome State Fault Refusal := s.checked (.endR x) fun t => t.endWord (.endR x) x true

/-! ### TRAP, BRK, ECALL (R114, R115, R221) -/

/-- `TRAP` once the counters are zero: record 0x08, and the warp retires. -/
def State.trapStep (s : State) (x : SysW) : State :=
  s.raise { code := 0x08, lanes := s.w.filled, d0 := x.mod.setWidth 32 }

/-- `TRAP` (R114). -/
def execTrap (x : SysW) (s : State) : Host.Outcome State Fault Refusal :=
  s.checked (.trap x) fun t => t.whenDrained (.trap x) fun u => u.trapStep x

/-- `BRK` (R115): where the task's debug bit is set, record 0x09 and a park before the next word. -/
def execBrk (x : SysW) (s : State) : Host.Outcome State Fault Refusal :=
  s.checked (.brk x) fun t =>
    if (t.task.map Task.debug).getD false then
      (t.parkWith 2 0 { t.w.faultRec 0x09 0 t.w.filled with d0 := x.mod.setWidth 32 }).advance (.brk x)
    else t.advance (.brk x)

/-- `ECALL` once the counters are zero: record 0x19, and the warp parks before its next word (R221, R250). -/
def State.ecallStep (s : State) (x : SysW) : State :=
  (s.parkWith 3 (regNum x.d) { s.w.faultRec 0x19 7 s.w.filled with d0 := x.mod.setWidth 32, d1 := s.w.read32 x.a 0 }).advance (.ecall x)

/-- `ECALL` (R221). -/
def execEcall (x : SysW) (s : State) : Host.Outcome State Fault Refusal :=
  s.checked (.ecall x) fun t => t.whenDrained (.ecall x) fun u => u.ecallStep x

/-- COUNTERS_DRAINED: a word that waited for the counters acts (R110, R114, R221; DEDUCED, log entry 79). -/
def execCountersDrained (uid : Nat) (s : State) : Host.Outcome State Fault Refusal :=
  match s.warp uid with
  | none => .next s
  | some w =>
    if !s.warpOn w then .next s
    else
      let t := (s.focus uid).mapWarp Warp.settled
      match w.status with
      | .draining (.endK x) => .next (if s.mayAct w (.endK x) then t.termStep x false else s)
      | .draining (.endR x) => .next (if s.mayAct w (.endR x) then t.termStep x true else s)
      | .draining (.trap x) => .next (if s.mayAct w (.trap x) then t.trapStep x else s)
      | .draining (.ecall x) => .next (if s.mayAct w (.ecall x) then t.ecallStep x else s)
      | _ => .next s

/-! ### SEND, SENDM (R116, R274) -/

/-- The operations that a lane's release fences still hold its tokens and releases for: a fence of scope `.LANE` holds them for
the lane's own (R175). -/
def State.laneFences (s : State) (l : Nat) : List Dep := s.w.relAfter.filter fun d => (d.lane = 32 || d.lane = l) && !s.depDone d

/-- The stores of a lane that a token of it waits for (R116), and the operations of its release fences. -/
def State.laneDeps (s : State) (l : Nat) : List Dep :=
  let ops := s.d.ops.filter fun o => o.uid = s.w.uid && o.isWrite && o.pieces.any fun p => p.lane = l || p.act.isWide
  let nests := s.d.loops.filter fun o => o.uid = s.w.uid && o.filled.getLsbD l
  (ops.map fun o => { op := o.id, lane := l }) ++ (nests.map fun o => { op := o.id, lane := 32 }) ++ s.laneFences l

/-- The flags of a `SEND` word with its lane's poison. -/
def sendFlags (m : BitVec 6) (poison : Bool) : TokFlags :=
  { poison := poison, last := m.getLsbD 4, control := m.getLsbD 3, scale := m.getLsbD 2, ordered := m.getLsbD 1 }

/-- The token of a lane of `SEND` or `SENDM` to a frame of a device. -/
def State.sendTokOf (s : State) (x : SysC) (e : Succ) (dev l : Nat) (h : Word) : Token :=
  tokenTo dev h e.cclass (e.slot + x.mod.toNat) (sendFlags x.mod2 (s.w.pz.getLsbD l)) s.w.ctx e.target (s.w.read32 x.c l 2) (s.w.read32 x.b l 1)

/-- The successor entry of a `SEND` word, where it may be used (R116). -/
def State.sendEntry (s : State) (x : SysC) : Option Succ :=
  let e := s.w.hdr.entry (x.fn.toNat % 4)
  if e.kind = 1 && e.slot + x.mod.toNat < 256 then some e else none

/-- The device a lane of `SEND` names. -/
def State.sendDev (s : State) (x : SysC) (l : Nat) : Nat := if x.mod2.getLsbD 0 then (s.w.read32 x.d l 3).toNat else s.d.devnum

/-- `SEND` (R116). -/
def State.sendStep (s : State) (x : SysC) : State :=
  match s.sendEntry x with
  | none => s.raiseAll 0x01
  | some e =>
    let act := s.w.active x.g
    let bad := badLanes act fun l => 4095 < s.sendDev x l || !s.goodHandle (s.w.read32 x.a l)
    if bad ≠ 0 then s.raise { code := 0x11, lanes := bad }
    else
      ((lanesOf act).foldl (fun t l => t.sendTok (s.sendTokOf x e (s.sendDev x l) l (s.w.read32 x.a l)) s.w.core (s.laneDeps l)) s).advance (.send x)

/-- `SEND` (R116). -/
def execSend (x : SysC) (s : State) : Host.Outcome State Fault Refusal := s.checked (.send x) fun t => t.sendStep x

/-- What a lane's read of a group comes to (R274): its members, a bad entry, a wait for the warp's own earlier accesses
(R259), or a fault of translation. -/
inductive GroupRead where
  | members (hs : List Word)
  | bad
  | wait
  | miss (code va : Nat)

/-- The code of a read that a range's pages refuse, with the first such address. -/
def State.readMiss (s : State) (c va n : Nat) : Option (Nat × Nat) :=
  ((List.range ((va + n + 65535) / 65536 - va / 65536)).map fun k => if k = 0 then va else (va / 65536 + k) * 65536).findSome? fun a =>
    match s.translate s.w.core c a with
    | none => some (0x20, a)
    | some x => if x.canRead then none else some (0x21, a)

/-- A group's entry and list read (R274). A LIST that is no multiple of 4, for which the rule gives no outcome, is read where it
points (R274; DESIGN CHOICE, log entry 103). -/
def State.readGroup (s : State) (g : Nat) : GroupRead :=
  let tab := (s.d.ctx s.w.ctx).grouptab
  if tab = 0 then .members []
  else
    let e := tab + 16 * g
    match s.readMiss s.w.ctx e 16 with
    | some m => .miss m.1 m.2
    | none => if s.readWaits e 16 then .wait else
      let count := s.taskNat (e + 8) 4
      let list := s.taskNat e 8
      if s.taskNat (e + 12) 4 ≠ 0 || 4096 < count then .bad
      else match (if count = 0 then none else s.readMiss s.w.ctx list (4 * count)) with
        | some m => .miss m.1 m.2
        | none => if s.readWaits list (4 * count) then .wait else .members ((List.range count).map fun k => BitVec.ofNat 32 (s.taskNat (list + 4 * k) 4))

/-- The tokens of one lane of `SENDM`; a member that is no handle is recorded (R274). -/
def State.sendMembers (s : State) (x : SysC) (e : Succ) (after : Nat → List Dep) (l : Nat) (hs : List Word) : State :=
  hs.foldl (fun t h =>
    if s.goodHandle h then t.sendTok (s.sendTokOf x e s.d.devnum l h) s.w.core (after l)
    else t.dropTok (s.sendTokOf x e s.d.devnum l 0) 1 s.w.core) s

/-- `SENDM` (R116, R274). A group that does not translate parks the warp before the word, which then issues again. -/
def State.sendmStep (s : State) (x : SysC) : State :=
  match s.sendEntry x with
  | none => s.raiseAll 0x01
  | some e =>
    let act := lanesOf (s.w.active x.g)
    let read := fun l => let v := (s.w.read32 x.a l).toNat; if 255 < v then GroupRead.bad else s.readGroup v
    let bad := maskOf fun l => act.contains l && (match read l with
      | .bad => true
      | _ => false)
    if bad ≠ 0 then s.raise { code := 0x11, lanes := bad }
    else
      let misses := act.filterMap fun l => match read l with
        | .miss code va => some ({ lane := l, va := va, code := code, d0 := 0 } : Miss)
        | _ => none
      if !misses.isEmpty then s.parkMisses misses
      else if act.any fun l => (match read l with
        | .wait => true
        | _ => false) then s
      else
        (act.foldl (fun t l => match read l with
          | .members hs => t.sendMembers x e s.laneDeps l hs
          | _ => t) s).advance (.sendm x)

/-- `SENDM` (R116). -/
def execSendm (x : SysC) (s : State) : Host.Outcome State Fault Refusal := s.checked (.sendm x) fun t => t.sendmStep x

/-! ### ARM, FALLOC, FFREE (R117-R119) -/

/-- The counter offset of an `ARM` (R119). -/
def armCtr (x : SysI) : Nat := x.fn.toNat * 256 + x.mod.toNat

/-- A message of class 0 from the issuing core to a frame's core. -/
def State.frameMsg (s : State) (kind ctr : Nat) (h payload : Word) (after : List Dep) : State :=
  s.route { kind := kind, tok := tokenTo s.d.devnum h 0 0 {} s.w.ctx 0 0 payload, ctr := ctr } s.w.core after

/-- One lane of `ARM`: at once on a pending frame of the issuing core, else a message (R117, R119). -/
def State.armLane (s : State) (h count : Word) (ctr : Nat) : State :=
  let f := (s.d.share s.w.ctx s.w.core).frames.find (handleOfs h)
  if handleCore h = s.w.core && (match f with
      | some y => y.state == .pending
      | none => false) then
    s.armAt s.w.ctx s.w.core (tokenTo s.d.devnum h 0 0 {} s.w.ctx 0 0 count) ctr
  else s.frameMsg 1 ctr h count []

/-- `ARM` (R119). -/
def execArm (x : SysI) (s : State) : Host.Outcome State Fault Refusal :=
  s.checked (.arm x) fun t =>
    let act := t.w.active x.g
    let bad := badLanes act fun l =>
      (t.w.opd32 x.b l 1).toNat = 0 || 4095 < (t.w.opd32 x.b l 1).toNat || !t.goodHandle (t.w.read32 x.a l)
    if bad ≠ 0 then t.raise { code := 0x11, lanes := bad }
    else ((lanesOf act).foldl (fun u l => u.armLane (t.w.read32 x.a l) (t.w.opd32 x.b l 1) (armCtr x)) t).advance (.arm x)

/-- One lane of `FALLOC`: the handle of a pending frame, or the null handle; either takes an ordinal (R117, R280). -/
def State.fallocLane (s : State) (x : SysC) (l : Nat) : State :=
  let w := s.w
  let n := (w.read32 x.a l).toNat
  let o := s.takeOrd w.ctx w.core (w.frame.getD l 0) 1
  match (if 16 ≤ n && n ≤ 4096 then s.d.placeFor w.ctx w.core ((n + 15) / 16) else none) with
  | none => o.2.mapWarp fun v => v.putSpec x.d l nullHandle
  | some ofs =>
    let id := fidChild o.1.1 o.1.2.1 o.1.2.2
    (o.2.mapShare w.ctx w.core fun y => y.newFrame ofs (Frame.fresh .pending w.task ((n + 15) / 16) id.1 id.2)).mapWarp fun v =>
      { v.putSpec x.d l (handleOf w.core ofs) with pend := v.pend ++ [ofs] }

/-- `FALLOC` (R117). -/
def execFalloc (x : SysC) (s : State) : Host.Outcome State Fault Refusal :=
  s.checked (.falloc x) fun t => ((lanesOf (t.w.active x.g)).foldl (fun u l => u.fallocLane x l) t).advance (.falloc x)

/-- One lane of `FFREE`: at once on the issuing core, else a message that releases the lane's writes (R118). A local release
that an earlier release fence holds back (R175), or that a token for its frame has come before in this clock (R248), is
made like a message. -/
def State.ffreeLane (s : State) (l : Nat) (h : Word) (after : List Dep) : State :=
  let rel := s.laneFences l
  if handleCore h ≠ s.w.core then s.frameMsg 2 0 h 0 after
  else if rel.isEmpty && !(s.d.core s.w.core).tokenNow s.w.ctx (handleOfs h) then s.ffreeAt s.w.ctx s.w.core (handleOfs h)
  else s.frameMsg 2 0 h 0 rel

/-- `FFREE` (R118). -/
def execFfree (x : SysW) (s : State) : Host.Outcome State Fault Refusal :=
  s.checked (.ffree x) fun t =>
    let act := t.w.active x.g
    let bad := badLanes act fun l => !t.goodHandle (t.w.read32 x.a l)
    if bad ≠ 0 then t.raise { code := 0x11, lanes := bad }
    else ((lanesOf act).foldl (fun u l => u.ffreeLane l (t.w.read32 x.a l) (t.laneDeps l)) t).advance (.ffree x)

end Sys2Proof.Machine
end

