-- ==== Sys2Proof/Machine/Copy.lean ====
section
/-! DEFINITION. The copy engine of a core: taking a command, its chunks, its completion; copies between devices
(R18, R44, R182-R185, R403-R405). -/

namespace Sys2Proof.Machine

/-! ### The command (R183) -/

/-- A word of a command. -/
def QEntry.cmd (e : QEntry) (n : Nat) : Nat := (e.data.getD n 0).toNat

def QEntry.op (e : QEntry) : Nat := bitsOf (e.cmd 0) 3 0
def QEntry.ssp (e : QEntry) : Nat := bitsOf (e.cmd 0) 5 4
def QEntry.dsp (e : QEntry) : Nat := bitsOf (e.cmd 0) 7 6
def QEntry.cmpl (e : QEntry) : Nat := bitsOf (e.cmd 0) 9 8
def QEntry.src (e : QEntry) : Nat := e.cmd 1 + 2 ^ 32 * e.cmd 2
def QEntry.dst (e : QEntry) : Nat := e.cmd 3 + 2 ^ 32 * e.cmd 4
def QEntry.ddev (e : QEntry) : Nat := bitsOf (e.cmd 5) 11 0
def QEntry.len (e : QEntry) : Nat := e.cmd 6
def QEntry.rows (e : QEntry) : Nat := e.cmd 7
def QEntry.spitch (e : QEntry) : Nat := e.cmd 8
def QEntry.dpitch (e : QEntry) : Nat := e.cmd 9
def QEntry.evid (e : QEntry) : Word := e.data.getD 14 0
def QEntry.isFill (e : QEntry) : Bool := e.op = 1

/-- The byte after a range of rows. -/
def QEntry.rangeEnd (e : QEntry) (base pitch : Nat) : Nat := base + (e.rows - 1) * pitch + e.len

/-- Whether a range that a command names is out of bounds in its space: scratch of `scr` bytes, or bits [63:57]. -/
def QEntry.outside (e : QEntry) (scr space base pitch : Nat) : Bool :=
  if space = 1 then decide (scr < e.rangeEnd base pitch) else decide (2 ^ 57 < e.rangeEnd base pitch)

/-- Whether the token of a command is requested, and whether its handle is one a token can go to (R107). -/
def QEntry.wantsTok (e : QEntry) : Bool := bitOf e.cmpl 1
def State.copyHandle (s : State) (c : Nat) (e : QEntry) : Bool := (s.d.ctx c).wellFormed (e.data.getD 10 0)

/-- What R184 rejects. -/
def State.copyBad (s : State) (c : Nat) (e : QEntry) : Bool :=
  let scr := (s.d.ctx c).scratchBytes
  bitsOf (e.cmd 0) 31 10 ≠ 0 || bitsOf (e.cmd 5) 31 12 ≠ 0 || bitsOf (e.cmd 11) 31 27 ≠ 0 || (e.data.drop 15).any (fun w => w != 0) ||
  2 < e.op || 1 < e.ssp || 2 < e.dsp || e.rows = 0 || e.len = 0 || (e.op ≠ 2 && e.rows ≠ 1) ||
  (e.isFill && (e.dst % 4 ≠ 0 || e.len % 4 ≠ 0 || e.cmd 2 ≠ 0)) ||
  (!e.isFill && e.outside scr e.ssp e.src e.spitch) || e.outside scr e.dsp e.dst e.dpitch ||
  (e.wantsTok && !s.copyHandle c e)

/-- Whether a command is heavy (R18, R405). -/
def QEntry.heavyCopy (e : QEntry) : Bool := 1048576 < e.len * e.rows

/-! ### The command in hand -/

/-- The queue register of copy queue `q`. -/
def copyQueue (q : Nat) : Queue := if q = 0 then .qca else .qcb

/-- The command in hand of copy queue `q`. -/
def Share.copy (x : Share) (q : Nat) : Option CopyCmd := if q = 0 then x.copyA else x.copyB

/-- A share with the command in hand of a copy queue replaced. -/
def Share.setCopy (x : Share) (q : Nat) (k : Option CopyCmd) : Share := if q = 0 then { x with copyA := k } else { x with copyB := k }

/-- A command that has ended: its grant is returned, and the counter of the warp that issued it falls (R182, R405). -/
def State.endCopy (s : State) (c g q : Nat) (k : CopyCmd) : State :=
  let s1 := s.mapShare c g fun x => x.setCopy q (some { k with finished := true, leave := 0 })
  let s2 := if k.entry.heavyCopy && k.leave = 2 then s1.returnLeave g 2 else s1
  if k.entry.counted then s2.mapUid k.entry.uid fun w => w.countDown .cp else s2

/-- COPY_COMMAND: the engine takes the next command of a queue: one with a mark or one that R184 rejects is not
performed, a heavy one asks for leave (R18, R184). Of a command with both the mark is met first (DESIGN CHOICE, log entry
100). -/
def execCopyCommand (ctx core q : Nat) (s : State) : Host.Outcome State Fault Refusal :=
  let x := s.d.share ctx core
  match x.queue (copyQueue q), x.copy q with
  | e :: es, none =>
    if !s.mayRun ctx core || !s.entryReady ctx core e || 1 < q then .next s
    else
      let s1 := (s.mapShare ctx core fun y => y.setQueue (copyQueue q) es).noteEntry ctx core e
      let k : CopyCmd :=
        { entry := e.accepted e.wantsTok (s.d.frameTask ctx (handleCore (e.data.getD 10 0)) (handleOfs (e.data.getD 10 0))), row := 0, col := 0, bytes := 0, status := 0, leave := 0, finished := false, marked := false, parked := none }
      if e.poison then
        .next ((s1.noteFor e.uid e.id { FaultRec.engine 0x18 3 ctx core with d1 := e.evid }).endCopy ctx core q { k with status := 2 })
      else if s.copyBad ctx e then
        .next ((s1.noteFor e.uid e.id { FaultRec.engine 0x16 7 ctx core with d0 := 1, d1 := e.evid }).endCopy ctx core q { k with status := 1 })
      else if e.heavyCopy then
        .next ((s1.mapShare ctx core fun y => y.setCopy q (some { k with leave := 1 })).askLeave 2 ctx core q 2)
      else .next (s1.mapShare ctx core fun y => y.setCopy q (some { k with leave := 2 }))
  | _, _ => .next s

/-! ### Reading and writing a chunk (R184) -/

/-- A range cut at the 64-byte lines of its addresses. -/
def cutLines : Nat → Nat → Nat → List (Nat × Nat)
  | 0, _, _ => []
  | fuel + 1, va, n =>
    if n = 0 then []
    else
      let k := Nat.min n (64 - va % 64)
      (va, k) :: cutLines fuel (va + k) (n - k)

/-- Bytes that the engine reads in a task's view, each with whether its line carries an error mark. -/
def State.copyRead (s : State) (c g task va n : Nat) : List (Byte × Bool) :=
  (cutLines (n / 64 + 2) va n).flatMap fun p =>
    match s.hit g c (.virt p.1) 0 with
    | some h =>
      let pa := s.locate c task p.1 h.pa
      let bad := s.mem.marked pa p.2
      (s.mem.bytes pa p.2).map fun b => (b, bad)
    | none => List.replicate p.2 (0#8, false)

/-- Bytes of scratch, each with whether its word carries a mark, and whether any such mark was set by an error. -/
def State.scratchRead (s : State) (c g ofs n : Nat) : List (Byte × Bool) :=
  let x := s.d.share c g
  let at_ := (s.d.ctx c).scratchAt + ofs
  (List.range n).map fun k => (x.coreByte (at_ + k), x.coreBad (at_ + k) 1)

/-- What a forward copy of a list onto its own bytes `d` further on reads, byte by byte (DEDUCED, log entry 25). -/
def lateBytes (src : List (Byte × Bool)) (d : Nat) : List (Byte × Bool) :=
  if d = 0 then src
  else (List.range src.length).map fun k => src.getD (k % d) (0#8, false)

/-- Runs of the bytes that carry no mark: offset and bytes. -/
def cleanRuns : Nat → List (Byte × Bool) → List (Nat × List Byte)
  | _, [] => []
  | k, (b, bad) :: rest =>
    let r := cleanRuns (k + 1) rest
    if bad then r
    else match r with
      | (o, bs) :: more => if o = k + 1 then (k, b :: bs) :: more else (k, [b]) :: r
      | [] => [(k, [b])]

/-- Bytes written into scratch; the words that a marked byte touches take marks (R184). -/
def Share.copyIn (x : Share) (at_ : Nat) (bs : List (Byte × Bool)) : Share :=
  let y := x.putCore at_ false (bs.map Prod.fst)
  let bad := (bs.zipIdx.filter fun p => p.1.2).map fun p => (at_ + p.2) / 4
  { y with marks := bad.eraseDups.foldl (fun m w => m.put w false) y.marks }

/-- The chunk next to be written: source address, destination address and length (R184). -/
def CopyCmd.chunk (k : CopyCmd) : Nat × Nat × Nat :=
  let e := k.entry
  let da := e.dst + k.row * e.dpitch + k.col
  (e.src + k.row * e.spitch + k.col, da, Nat.min (e.len - k.col) (4096 - da % 4096))

/-- The source bytes of a chunk. -/
def State.chunkBytes (s : State) (c g : Nat) (k : CopyCmd) (late : Bool) : List (Byte × Bool) :=
  let e := k.entry
  let x := k.chunk
  if e.isFill then (List.range x.2.2).map fun j => (BitVec.ofNat 8 (e.cmd 1 / 2 ^ (8 * (j % 4))), false)
  else
    let bs := if e.ssp = 1 then s.scratchRead c g x.1 x.2.2 else s.copyRead c g e.task x.1 x.2.2
    let same := (e.ssp = 1) == (e.dsp = 1)
    if late && e.dsp ≠ 2 && same && x.1 < x.2.1 && x.2.1 < x.1 + x.2.2 then lateBytes bs (x.2.1 - x.1) else bs

/-- The fault of a chunk: of its reads, then of its writes. -/
def State.chunkFault (s : State) (c g : Nat) (k : CopyCmd) : Option (Nat × Nat × Nat) :=
  let e := k.entry
  let x := k.chunk
  match (if e.isFill || e.ssp = 1 then none else s.engineFault c g e.task x.1 x.2.2 0) with
  | some f => some f
  | none => if e.dsp = 1 || (e.dsp = 2 && e.ddev ≠ s.d.devnum) then none else s.engineFault c g e.task x.2.1 x.2.2 1

/-- The structure that the record of a marked source names: own scratch's, where an error set a mark, or that of the first marked
line; 0 for none (R392). -/
def State.chunkCode (s : State) (c g : Nat) (e : QEntry) (src n ofs : Nat) : Nat :=
  if e.ssp = 1 then (if (s.d.share c g).coreErr ((s.d.ctx c).scratchAt + src) n then 0x04 else 0)
  else match s.hit g c (.virt (src + ofs)) 0 with
    | some h => s.mem.errCode (s.locate c e.task (src + ofs) h.pa) 1
    | none => 0

/-- The lines of a chunk's source whose marks the engine has met (R392). -/
def State.meetLines (s : State) (c g task va n : Nat) : State :=
  (cutLines (n / 64 + 2) va n).foldl (fun t p => match s.hit g c (.virt p.1) 0 with
    | some h => t.meetMark (s.locate c task p.1 h.pa) p.2
    | none => t) s

/-- The records of the marks that a chunk's source carries: one of code 0x30, and at a sink one of code 0x18 for the
command (R44, R184, R392). -/
def State.chunkRecords (s : State) (c g : Nat) (k : CopyCmd) (bs : List (Byte × Bool)) : State :=
  if k.marked then s
  else
    let x := k.chunk
    let e := k.entry
    let ofs := (bs.findIdx? fun b => b.2).getD 0
    let code := s.chunkCode c g e x.1 x.2.2 ofs
    let s1 := if code = 0 then s
      else s.noteFor e.uid e.id { FaultRec.engine 0x30 4 c g with d0 := BitVec.ofNat 32 code, address := x.1 + ofs }
    if e.dsp = 1 then s1 else s1.noteFor e.uid e.id { FaultRec.engine 0x18 3 c g with address := x.2.1 + ofs, d1 := e.evid }

/-- The marks of a chunk's source recorded and met. -/
def State.chunkMarks (s : State) (c g : Nat) (k : CopyCmd) (bs : List (Byte × Bool)) : State :=
  if !(bs.any Prod.snd) then s
  else
    let t := s.chunkRecords c g k bs
    if k.entry.ssp = 1 then t else t.meetLines c g k.entry.task k.chunk.1 k.chunk.2.2

/-- The bytes of a chunk written at its destination; none where a page is lacking. -/
def State.chunkWrite (s : State) (c g : Nat) (k : CopyCmd) (bs : List (Byte × Bool)) : Option State :=
  let e := k.entry
  let da := k.chunk.2.1
  if e.dsp = 1 then some (s.mapShare c g fun x => x.copyIn ((s.d.ctx c).scratchAt + da) bs)
  else if e.dsp = 2 && e.ddev ≠ s.d.devnum then
    some { s with d := { s.d with linkCopy := ((cleanRuns 0 bs).map fun r => (e.ddev, c, da + r.1, r.2)).reverse ++ s.d.linkCopy } }
  else (cleanRuns 0 bs).foldl (fun (t : Option State) r => t.bind fun u => u.engineWrite c g e.task (da + r.1) r.2) (some s)

/-- The command after a chunk of `n` bytes, of which `put` were written. -/
def CopyCmd.after (k : CopyCmd) (n put : Nat) (bad : Bool) : CopyCmd :=
  let e := k.entry
  let k1 := { k with bytes := k.bytes + put, marked := k.marked || bad, status := if bad && e.dsp ≠ 1 then 2 else k.status }
  if k.col + n < e.len then { k1 with col := k.col + n } else { k1 with row := k.row + 1, col := 0 }

/-- Whether a copy to another device finds its path (R184, R404; DEDUCED, log entry 30). -/
def State.pathUp (s : State) (c dev : Nat) : Bool :=
  match (s.d.ctx c).paths.find dev with
  | some l => s.d.linkUp l
  | none => false

/-- Whether the copy engine of a core may move for a context: it runs, or it is ENDING or FREE, and what has been accepted
runs to completion (R312), or IDLE. -/
def State.copyRuns (s : State) (c g : Nat) : Bool :=
  s.engineOn c g || (((s.d.ctx c).state = .ending || (s.d.ctx c).state = .free) && !(s.d.core g).offline)

/-- Whether a command completes without its context, which is ENDING or has ended: no resume comes, no event is taken and its
token is dropped (R312; DEDUCED, log entry 26). -/
def State.copyEnds (s : State) (c : Nat) (k : CopyCmd) : Bool := (s.d.ctx c).state = .ending || k.orphan

/-- One chunk of a command (DEDUCED, log entries 25 and 30). A whole chunk is written in one step, though the rule groups
only the bytes of 16-byte units (DESIGN CHOICE, log entry 85). In a context that is ENDING or has ended a chunk that meets a
fault ends its command, since no resume comes (R312; DEDUCED, log entry 26). -/
def State.copyChunk (s : State) (c g q : Nat) (k : CopyCmd) (late : Bool) : State :=
  let e := k.entry
  if e.dsp = 2 && e.ddev ≠ s.d.devnum && (late || !s.pathUp c e.ddev) then s.endCopy c g q { k with status := 3 }
  else match s.chunkFault c g k with
    | some f =>
      if s.copyEnds c k then s.endCopy c g q k else
      let t := (s.countMiss c f.2.2).parkEngine 4 q c g f.1 f.2.1 f.2.2
      t.1.mapShare c g fun x => x.setCopy q (some { k with parked := some q })
    | none =>
      let bs := s.chunkBytes c g k late
      match s.chunkWrite c g k bs with
      | none => s
      | some t =>
        let bad := bs.any Prod.snd
        let put := if e.dsp = 1 then bs.length else (bs.filter fun b => !b.2).length
        let k1 := k.after bs.length put bad
        let t1 := t.chunkMarks c g k bs
        if k1.row = e.rows then t1.endCopy c g q k1 else t1.mapShare c g fun x => x.setCopy q (some k1)

/-- COPY_CHUNK: the engine writes one chunk, or parks its queue (R184); in a context that is ENDING or has ended, what a halt
stopped asks for leave again. -/
def execCopyChunk (ctx core q : Nat) (late : Bool) (s : State) : Host.Outcome State Fault Refusal :=
  match (s.d.share ctx core).copy q with
  | none => .next s
  | some k =>
    let ending := s.copyEnds ctx k
    if k.finished || (k.parked.isSome && !ending) || !s.copyRuns ctx core || 1 < q then .next s
    else if k.leave = 3 && ending then .next ((s.mapShare ctx core fun x => x.setCopy q (some { k with leave := 1 })).askLeave 2 ctx core q 2)
    else if k.leave ≠ 2 then .next s
    else .next (s.copyChunk ctx core q k late)

/-! ### Completion (R185) -/

/-- The event of a command in QCE. -/
def CopyCmd.event (k : CopyCmd) (q : Nat) : QEntry :=
  { QEntry.blank with
    data := [k.entry.evid, BitVec.ofNat 32 (q + 1 + k.status * 256), BitVec.ofNat 32 k.bytes, BitVec.ofNat 32 (k.bytes / 2 ^ 32)] ++
      List.replicate 28 0 }

/-- The completion token of a command. -/
def State.copyTok (s : State) (c : Nat) (k : CopyCmd) : Token :=
  let e := k.entry
  tokenTo s.d.devnum (e.data.getD 10 0) (bitsOf (e.cmd 11) 26 24) (bitsOf (e.cmd 11) 23 16) {} c (bitsOf (e.cmd 11) 15 0) (e.data.getD 12 0)
    (if k.status = 0 then e.data.getD 13 0 else BitVec.ofNat 32 (0xFFFFFF00 + k.status))

/-- COPY_COMPLETION: the event, where QCE has room, and the token (R185). A context that is ENDING or has ended has no QCE any
more, and what has ended takes no token (R312). -/
def execCopyCompletion (ctx core q : Nat) (s : State) : Host.Outcome State Fault Refusal :=
  match (s.d.share ctx core).copy q with
  | none => .next s
  | some k =>
    let wantsEv := bitOf k.entry.cmpl 0 && !s.copyEnds ctx k
    if !k.finished || !s.copyRuns ctx core || 1 < q || (wantsEv && (s.d.share ctx core).room .qce = 0) then .next s
    else
      let s1 := s.mapShare ctx core fun x => x.setCopy q none
      let s2 := if wantsEv then s1.enginePush ctx core .qce [k.event q] else s1
      .next (if !(k.entry.wantsTok && s.copyHandle ctx k.entry) then s2
        else if k.orphan then s2.countDrop ctx else s2.sendTok (s.copyTok ctx k) core [])

/-! ### Between devices (R184, R403) -/

/-- DEVICE_LINK_COPY_TRAFFIC: a chunk from another device is written in the context of its number here, in the root's
view, where that context is there and the range translates for writing (R184). -/
def execDeviceLinkCopyTraffic (ctx : Nat) (va : Nat) (bytes : List Byte) (s : State) : Host.Outcome State Fault Refusal :=
  let st := (s.d.ctx ctx).state
  if st = .free || st = .ending || (s.engineFault ctx 0 256 va bytes.length 1).isSome then .next s
  else .next ((s.engineWrite ctx 0 256 va bytes).getD s)

end Sys2Proof.Machine
end

