-- ==== Sys2Proof/Machine/Kv.lean ====
section
/-! DEFINITION. The words over context pages: `KVLD`, `POSLD`, `MASSACC` and `SEQLOCK` (R39, R209-R212, R215, R355-R362).
The descriptor, the remap table and the page list are read at issue; the rows and counters are accesses in flight. -/

namespace Sys2Proof.Machine

/-! ### The sequence descriptor (R357, R358) -/

/-- A sequence descriptor (R357). -/
structure SeqDesc where
  plist : Nat
  length : Nat
  nextpos : Nat
  remap : Nat
  rbytes : Nat
  npages : Nat
  plcap : Nat
  busy : Bool
  evcnt : Nat
  reserved : Bool
deriving DecidableEq, Repr

/-- The descriptor in 64 bytes, as a number (R357). -/
def SeqDesc.of (n : Nat) : SeqDesc :=
  { plist := bitsOf n 63 0, length := bitsOf n 95 64, nextpos := bitsOf n 127 96, remap := bitsOf n 191 128
    rbytes := bitsOf n 207 192, npages := bitsOf n 239 224, plcap := bitsOf n 255 240, busy := bitOf n 256
    evcnt := bitsOf n 319 288
    reserved := bitsOf n 223 208 ≠ 0 || bitsOf n 287 257 ≠ 0 || bitsOf n 511 320 ≠ 0 }

/-- Whether a descriptor is valid (R358). -/
def SeqDesc.ok (d : SeqDesc) : Bool :=
  !d.reserved && d.plist < 2 ^ 57 && d.plist % 16 = 0 && d.remap < 2 ^ 57 && d.remap % 4 = 0 && d.rbytes % 64 = 0 && 64 ≤ d.rbytes &&
  d.rbytes ≤ 16384 && d.npages = (d.length + 63) / 64 && d.npages ≤ d.plcap && d.length ≤ d.nextpos

/-- Whether a page address of an entry is one a page may have (R359). -/
def pageOk (a : Nat) : Bool := a % 4096 = 0 && a < 2 ^ 57

/-! ### Reads at issue (R209) -/

/-- The fault a read at issue meets at an address of the issuing warp; `kind` as in R250's DETAIL0. -/
def State.issueMiss (s : State) (va kind : Nat) : Option (Nat × Nat) :=
  let h := (s.translate s.w.core s.w.ctx va).map fun x =>
    ({ pa := x.pa, r := x.canRead, w := x.canWrite, nol1 := x.noL1, sysAtomic := x.sysAtomic } : Hit)
  s.accessFault s.w.ctx s.w.task va kind h

/-- What a word over context pages finds of its descriptor: a state in which the matter has ended, or the descriptor,
the physical address and whether an error mark stood on it. -/
inductive SeqRead where
  | done (s : State)
  | got (d : SeqDesc) (pa : Nat) (bad : Bool)

/-- The descriptor read of a word: alignment, range, translation, the warp's own accesses, BUSY and validity, in that
order (R209). `lanes` are those a fault names; `cls` is the counter in which a word that parks at its issue is counted
(R55; DEDUCED, log entry 66). The descriptor's page needs the permissions of the word, both for `MASSACC`, and the pages of
the list and of the remap table need R alone (R332; DEDUCED, log entry 101). -/
def State.readSeq (s : State) (i : Instr) (a : Spec) (kind : Nat) (lanes : Lanes) (cls : Option CounterClass) : SeqRead :=
  let va := s.w.sPair a
  if va % 64 ≠ 0 then .done (s.raise { code := 0x07, lanes := lanes, address := va })
  else if 2 ^ 57 ≤ va then .done (s.raise { code := 0x0D, lanes := lanes, address := va })
  else match s.issueMiss va kind, s.translate s.w.core s.w.ctx va with
    | some e, _ => .done (((s.countMiss s.w.ctx e.2).parkTransl e.1 lanes va e.2).holdCount cls)
    | none, none => .done s
    | none, some t =>
      let pa := s.locate s.w.ctx s.w.task va t.pa
      if !s.depsDone (s.memAfter (kind ≠ 0) false) || s.warpMeets (.phys pa) 64 then .done s
      else
        let d := SeqDesc.of (s.mem.nat pa 64)
        if d.busy then .done ((s.mapWarp fun w => { w with status := match i with
          | .seqlockAcq _ | .seqlockTry _ => .seqlockPark i
          | _ => .busyPark i }).holdCount cls)
        else if !d.ok then .done (s.raise { code := 0x12, lanes := lanes, address := va })
        else .got d pa (s.mem.marked pa 64)

/-- What a lane's index resolves to (R209): a page-list entry and slot, nothing, a fault of translation, or a wait for
the warp's own accesses. -/
inductive Resolved where
  | at (k v slot : Nat)
  | absent
  | bad
  | far (va : Nat)
  | miss (code va : Nat)
  | wait
deriving DecidableEq, Repr

/-- The page-list entry of a resolved position (R209, R359). -/
def State.seqEntry (s : State) (d : SeqDesc) (j slot : Nat) : Resolved :=
  let e := d.plist + 16 * j
  if 2 ^ 57 ≤ e then .far e
  else match s.issueMiss e 0 with
    | some m => .miss m.1 e
    | none =>
      if s.readWaits e 16 then .wait
      else
        let k := s.taskNat e 8
        let v := s.taskNat (e + 8) 8
        if pageOk k && pageOk v then .at k v slot else .bad

/-- `resolve` (R209): `orig` selects the remap table (DEDUCED, log entry 64). -/
def State.resolve (s : State) (d : SeqDesc) (orig : Bool) (x : Nat) : Resolved :=
  if !orig then (if d.length ≤ x then .absent else s.seqEntry d (x / 64) (x % 64))
  else if d.nextpos ≤ x then .absent
  else
    let a := d.remap + 4 * x
    if 2 ^ 57 ≤ a then .far a
    else match s.issueMiss a 0 with
      | some m => .miss m.1 a
      | none =>
        if s.readWaits a 4 then .wait
        else
          let e := s.taskNat a 4
          if bitOf e 31 then .absent else s.seqEntry d (bitsOf e 30 6) (bitsOf e 5 0)

/-- The lanes whose resolution has a form. -/
def resolvedLanes (rs : List (Nat × Resolved)) (f : Resolved → Bool) : Lanes := maskOf fun l => rs.any fun p => p.1 = l && f p.2

/-- The checks of the lanes' resolutions: invalid entries, addresses beyond the space, pages that do not translate, own
accesses still outstanding; then the word goes on (R209, R251, R335, R359; DEDUCED, log entry 66). -/
def State.guardSeq (s : State) (cls : CounterClass) (rs : List (Nat × Resolved)) (k : State) : State :=
  let bad := resolvedLanes rs fun r => r == .bad
  let far := resolvedLanes rs fun r => match r with
    | .far _ => true
    | _ => false
  let misses := rs.filterMap fun p => match p.2 with
    | .miss code va => some ({ lane := p.1, va := va, code := code, d0 := 0 } : Miss)
    | _ => none
  let farAt := fun l => ((rs.find? fun p => p.1 = l).map fun p => match p.2 with
    | .far a => a
    | _ => 0).getD 0
  if bad ≠ 0 then s.raise { code := 0x12, lanes := bad }
  else if far ≠ 0 then s.raise { code := 0x0D, lanes := far, address := farAt (lowLane far) }
  else if !misses.isEmpty then (s.parkMisses misses).holdCount (some cls)
  else if rs.any fun p => p.2 == .wait then s
  else k

/-- The address at which a lane's resolution reads a line with an error mark, in the remap table or the page list (R210,
R392). -/
def State.resolveMark (s : State) (d : SeqDesc) (orig : Bool) (x : Nat) : Option Nat :=
  let entry := fun (j : Nat) => if s.taskMarked (d.plist + 16 * j) 16 then some (d.plist + 16 * j) else none
  let a := d.remap + 4 * x
  if !orig then (if d.length ≤ x then none else entry (x / 64))
  else if d.nextpos ≤ x then none
  else if s.taskMarked a 4 then some a
  else if bitOf (s.taskNat a 4) 31 then none else entry (bitsOf (s.taskNat a 4) 30 6)

/-- The active lanes that meet an error mark at issue, with its address: every one where the descriptor carries it
(R392). -/
def State.seqMarks (s : State) (bad : Bool) (act : Lanes) (va : Nat) (mark : Nat → Option Nat) : Map Nat :=
  (lanesOf act).filterMap fun l => if bad then some (l, va) else (mark l).map fun a => (l, a)

/-- The lanes that a list names. -/
def markLanes (m : Map Nat) : Lanes := maskOf fun l => (m.find l).isSome

/-- The structure that the record of a word's marks met at issue names: that of its lowest lane's (R251, R392). -/
def State.marksCode (s : State) (m : Map Nat) : Nat := if m.isEmpty then 0 else s.taskCode (m.getD (lowLane (markLanes m)) 0)

/-- The lines whose marks a word meets at issue, met (R392). -/
def State.meetMarks (s : State) (m : Map Nat) : State := m.foldl (fun t p => t.taskMeets p.2) s

/-- The record of marks met at issue by a word that leaves no access in flight. -/
def State.markAlone (s : State) (m : Map Nat) (code : Nat) : State :=
  if m.isEmpty then s else s.markNote (markLanes m) (m.getD (lowLane (markLanes m)) 0) code

/-! ### KVLD, POSLD (R210, R211) -/

/-- The byte of slot `s` of a page's counters, and of its original positions (R355). -/
def massAt (d : SeqDesc) (page slot : Nat) : Nat := page + 64 * d.rbytes + 4 * slot
def posAt (d : SeqDesc) (page slot : Nat) : Nat := page + 64 * d.rbytes + 256 + 4 * slot

/-- A load's pieces at an address, from byte `k` of the lane's buffer on. -/
def loadsAt (l va n k : Nat) : List Want :=
  (wants (.virt 0) l va n false fun _ _ => .load).map fun q => { q with byteOfs := q.byteOfs + k }

/-- The issue of a load over context pages once every lane is resolved: absent lanes receive their constants, the others
load (R210, R211). -/
def State.seqLoad (s : State) (i : Instr) (pa dreg nreg none_ : Nat) (marks : Map Nat) (ca : Bool)
    (rs : List (Nat × Resolved)) (loads : Nat → Nat → Nat → Nat → List Want) : State :=
  let absent := (rs.filter fun p => p.2 == .absent).map Prod.fst
  let s1 := ((s.meetMarks marks).mapWarp fun w => w.poison (markLanes marks)).deliverNow absent dreg nreg fun _ => none_
  let ws := rs.flatMap fun p => match p.2 with
    | .at k v slot => loads p.1 k v slot
    | _ => []
  let far := maskOf fun l => ws.any fun q => q.lane = l && 2 ^ 57 ≤ q.off
  if far ≠ 0 then s.raise { code := 0x0D, lanes := far, address := ((ws.find? fun q => q.lane = lowLane far).map Want.off).getD 0 }
  else
    let code := s.marksCode marks
    let s2 := if ws.isEmpty then s1.markAlone marks code else s1
    let o := { s2.opOf i .ld with
      dreg := dreg, nreg := nreg, seqAt := pa, after := s2.memAfter false false, marked := marks, detected := code }
    (s2.plan (.virt 0) ca false 0 ws).issue i 0 o

/-- `KVLD` (R210; DEDUCED, log entry 64). -/
def State.kvldStep (s : State) (x : MemW) : State :=
  let act := s.w.active x.g
  let n := eszBytes x.esz
  let ofs := x.ofs.toNat
  let pos := x.sub.getLsbD 1
  if act = 0 then s.advance (.kvld x)
  else s.counted .ld
    (if ofs % n ≠ 0 then s.raise { code := 0x07, lanes := act, address := s.w.sPair x.a }
     else match s.readSeq (.kvld x) x.a 0 act (some .ld) with
      | .done t => t
      | .got d pa bad =>
        if d.rbytes < ofs + n then s.raise { code := 0x12, lanes := act, address := s.w.sPair x.a }
        else
          let rs := (lanesOf act).map fun l => (l, s.resolve d (x.sub.getLsbD 0) (s.w.read32 x.b l 1).toNat)
          let marks := s.seqMarks bad act (s.w.sPair x.a) fun l => s.resolveMark d (x.sub.getLsbD 0) (s.w.read32 x.b l 1).toNat
          let none_ := if pos then 0xFFFFFFFF * 2 ^ (8 * n) else 0
          s.guardSeq .ld rs
            (s.seqLoad (.kvld x) pa (regNum x.d) (eszWords x.esz + (if pos then 1 else 0)) none_ marks (x.cp = 1) rs
              fun l k v slot =>
                loadsAt l ((if x.scl = 0 then k else v) + slot * d.rbytes + ofs) n 0 ++ (if pos then loadsAt l (posAt d k slot) 4 n else [])))

/-- `KVLD` (R210). -/
def execKvld (x : MemW) (s : State) : Host.Outcome State Fault Refusal := s.checked (.kvld x) fun t => t.kvldStep x

/-- `POSLD` (R211). -/
def State.posldStep (s : State) (x : MemW) : State :=
  let act := s.w.active x.g
  let mass := x.sub.getLsbD 1
  if act = 0 then s.advance (.posld x)
  else s.counted .ld
    (match s.readSeq (.posld x) x.a 0 act (some .ld) with
      | .done t => t
      | .got d pa bad =>
        let rs := (lanesOf act).map fun l => (l, s.resolve d (x.sub.getLsbD 0) (s.w.read32 x.b l 1).toNat)
        let marks := s.seqMarks bad act (s.w.sPair x.a) fun l => s.resolveMark d (x.sub.getLsbD 0) (s.w.read32 x.b l 1).toNat
        s.guardSeq .ld rs
          (s.seqLoad (.posld x) pa (regNum x.d) 1 (if mass then 0 else 0xFFFFFFFF) marks (x.cp = 1) rs
            fun l k _ slot => loadsAt l (if mass then massAt d k slot else posAt d k slot) 4 0))

/-- `POSLD` (R211). -/
def execPosld (x : MemW) (s : State) : Host.Outcome State Fault Refusal := s.checked (.posld x) fun t => t.posldStep x

/-! ### MASSACC (R39, R212) -/

/-- The additions of a word: one for each counter, the saturating sum of its lanes (R212). -/
def massWants (d : SeqDesc) (prob : Nat → Option Nat) (rs : List (Nat × Resolved)) : List Want :=
  let at_ := fun (p : Nat × Resolved) => match p.2, prob p.1 with
    | .at k _ slot, some _ => some (p.1, massAt d k slot)
    | _, _ => none
  let ps := rs.filterMap at_
  ((ps.map Prod.snd).eraseDups).map fun a =>
    let lanes := (ps.filter fun p => p.2 = a).map Prod.fst
    let sum := (lanes.map fun l => (prob l).getD 0).foldl q824Add 0
    { lane := lanes.headD 0, off := a, size := 4, byteOfs := 0, act := .mass sum, gone := false, lanes := maskOf fun l => lanes.contains l }

/-- `MASSACC` (R212). -/
def State.massaccStep (s : State) (x : MaW) : State :=
  let act := s.w.active x.g
  if act = 0 then s.advance (.massacc x)
  else s.counted .st
    (match s.readSeq (.massacc x) x.a 2 act (some .st) with
      | .done t => t
      | .got d pa bad =>
        let rs := (lanesOf act).map fun l => (l, s.resolve d (x.sub.getLsbD 0) (s.w.read32 x.b l 1).toNat)
        let marks := s.seqMarks bad act (s.w.sPair x.a) fun l => s.resolveMark d (x.sub.getLsbD 0) (s.w.read32 x.b l 1).toNat
        let prob := fun l => q824OfF32 (s.w.read32 x.c l 2)
        let ws := massWants d prob rs
        let far := maskOf fun l => ws.any fun q => q.lane = l && 2 ^ 57 ≤ q.off
        s.guardSeq .st rs
          (if far ≠ 0 then s.raise { code := 0x0D, lanes := far, address := ((ws.find? fun q => q.lane = lowLane far).map Want.off).getD 0 }
           else
            let code := s.marksCode marks
            let s0 := if ws.isEmpty then (s.meetMarks marks).markAlone marks code else s.meetMarks marks
            let s1 := s0.mapWarp fun w => w.poison (markLanes marks ||| badLanes act fun l => (prob l).isNone)
            (s1.plan (.virt 0) false false 2 ws).issue (.massacc x) 2 { s1.storeOp (.massacc x) false with seqAt := pa, marked := marks, detected := code }))

/-- `MASSACC` (R212). -/
def execMassacc (x : MaW) (s : State) : Host.Outcome State Fault Refusal := s.checked (.massacc x) fun t => t.massaccStep x

/-! ### SEQLOCK (R215) -/

/-- BUSY written at a descriptor, by an operation that completes at issue. -/
def State.setBusy (s : State) (va pa : Nat) : State :=
  ((s.settle (s.locate s.w.ctx s.w.task va pa) 4).modifyAt s.w.ctx s.w.task va pa 4 fun a t =>
    t.modifyBytes s.w.core a (bytesLE 4 (t.mem.nat a 4 / 2 * 2 + 1))).getD s

/-- The physical place of BUSY where the page tables put it. -/
def State.busyAt (s : State) (va : Nat) : Nat := ((s.translate s.w.core s.w.ctx (va + 32)).map Xlat.pa).getD 0

/-- `SEQLOCK.ACQ`: BUSY set where it was clear, else the warp parks. -/
def State.seqlockAcqStep (s : State) (x : SysW) : State :=
  match s.readSeq (.seqlockAcq x) x.a 2 s.w.filled none with
  | .done t => t
  | .got _ _ _ => (s.setBusy (s.w.sPair x.a + 32) (s.busyAt (s.w.sPair x.a))).advance (.seqlockAcq x)

/-- `SEQLOCK.ACQ` (R215). -/
def execSeqlockAcq (x : SysW) (s : State) : Host.Outcome State Fault Refusal :=
  s.checked (.seqlockAcq x) fun t => t.seqlockAcqStep x

/-- The predicate that `SEQLOCK.TRY` writes. -/
def tryPred (x : SysW) : Nat := regNum x.d

/-- `SEQLOCK.TRY` (R215): SPd tells whether BUSY was clear; a set BUSY does not park it. -/
def execSeqlockTry (x : SysW) (s : State) : Host.Outcome State Fault Refusal :=
  s.checked (.seqlockTry x) fun t =>
    match t.readSeq (.seqlockTry x) x.a 2 t.w.filled none with
    | .done u =>
      if u.w.live && u.w.status = .seqlockPark (.seqlockTry x) then
        (u.mapWarp fun w => { w.putSp (tryPred x) false with status := .running }).advance (.seqlockTry x)
      else u
    | .got _ _ _ =>
      ((t.setBusy (t.w.sPair x.a + 32) (t.busyAt (t.w.sPair x.a))).mapWarp fun w => w.putSp (tryPred x) true).advance (.seqlockTry x)

/-- `SEQLOCK.REL` (R215): BUSY is cleared once the warp's earlier writes have been performed, as a store under RLS
(R167). The descriptor is read as by the others, but for BUSY (DEDUCED, log entry 77). -/
def State.seqlockRelStep (s : State) (x : SysW) : State :=
  let va := s.w.sPair x.a
  let lanes := s.w.filled
  if va % 64 ≠ 0 then s.raise { code := 0x07, lanes := lanes, address := va }
  else if 2 ^ 57 ≤ va then s.raise { code := 0x0D, lanes := lanes, address := va }
  else match s.issueMiss va 2, s.translate s.w.core s.w.ctx va with
    | some e, _ => (s.countMiss s.w.ctx e.2).parkTransl e.1 lanes va e.2
    | none, none => s
    | none, some t =>
      let pa := s.locate s.w.ctx s.w.task va t.pa
      if !s.depsDone s.w.acqAfter || s.warpMeets (.phys pa) 64 then s
      else if !(SeqDesc.of (s.mem.nat pa 64)).ok then s.raise { code := 0x12, lanes := lanes, address := va }
      else
        let s1 := (s.cow s.w.ctx s.w.task va t.pa).getD s
        let o := { s1.storeOp (.seqlockRel x) true with counted := false }
        let p : Piece :=
          { lane := lowLane lanes, va := va + 32, place := .phys (t.pa + 32), size := 4, byteOfs := 0, act := .bits 0 1, poisonMark := false
            covers := false, l1 := false, ok := true }
        (s1.launchOp o [p]).advance (.seqlockRel x)

/-- `SEQLOCK.REL` (R215). -/
def execSeqlockRel (x : SysW) (s : State) : Host.Outcome State Fault Refusal :=
  s.checked (.seqlockRel x) fun t => t.seqlockRelStep x

/-! ### The releases (R209, R215) -/

/-- BUSY_PARK_RELEASE: the parked word repeats its descriptor read (R209). -/
def execBusyParkRelease (uid : Nat) (s : State) : Host.Outcome State Fault Refusal :=
  match s.warp uid with
  | none => .next s
  | some w =>
    let again := (s.focus uid).mapWarp fun v => { v.releaseCount with status := .running }
    if !s.warpOn w then .next s
    else match w.status with
      | .busyPark (.kvld x) => .next (again.kvldStep x)
      | .busyPark (.posld x) => .next (again.posldStep x)
      | .busyPark (.massacc x) => .next (again.massaccStep x)
      | _ => .next s

/-- SEQLOCK_PARK_RELEASE: a parked `SEQLOCK.ACQ` tries again (R215). -/
def execSeqlockParkRelease (uid : Nat) (s : State) : Host.Outcome State Fault Refusal :=
  match s.warp uid with
  | none => .next s
  | some w =>
    if !s.warpOn w then .next s
    else match w.status with
      | .seqlockPark (.seqlockAcq x) => .next (((s.focus uid).mapWarp fun v => { v with status := .running }).seqlockAcqStep x)
      | _ => .next s

end Sys2Proof.Machine
end

