-- ==== Sys2Proof/Machine/Encke.lean ====
section
/-! DEFINITION. Encke: the commands it takes from `QEK`, and the eviction (R213, R214, R363-R366). -/

namespace Sys2Proof.Machine

/-! ### Commands (R213, R214) -/

/-- A command as it reaches Encke. -/
def EnckeCmd.new (ctx core : Nat) (e : QEntry) : EnckeCmd :=
  { ctx := ctx, core := core, entry := e, stage := 0, pa := 0, desc := 0, pages := [], xlat := [], left := [], mass := [], pos := []
    noted := [], badPos := [], writes := [] }

/-- A word of a command. -/
def EnckeCmd.word (k : EnckeCmd) (n : Nat) : Nat := (k.entry.data.getD n 0).toNat

def EnckeCmd.seqVa (k : EnckeCmd) : Nat := k.word 1 + 2 ^ 32 * k.word 2
def EnckeCmd.budget (k : EnckeCmd) : Nat := k.word 3
def EnckeCmd.sinks (k : EnckeCmd) : Nat := bitsOf (k.word 4) 15 0
def EnckeCmd.window (k : EnckeCmd) : Nat := bitsOf (k.word 4) 31 16
def EnckeCmd.shift (k : EnckeCmd) : Nat := bitsOf (k.word 5) 4 0
def EnckeCmd.tok (k : EnckeCmd) : Bool := bitOf (k.word 10) 0

/-- Whether the handle of a command is one its token can go to (R107). -/
def State.cmdHandle (s : State) (k : EnckeCmd) : Bool := (s.d.ctx k.ctx).wellFormed (BitVec.ofNat 32 (k.word 6))

/-- Whether an entry is one of the parts that the warps of a split group pushed of one command: without DET a `QPUSH` gave it
fewer than the sixteen command words (R376; DEDUCED, log entry 93). -/
def State.cmdPart (s : State) (k : EnckeCmd) : Bool :=
  !(s.d.ctx k.ctx).det && (List.range 16).any fun l => !k.entry.lanes.getLsbD l

/-- What R214 and R376 reject in a command's own words. -/
def State.cmdBad (s : State) (k : EnckeCmd) : Bool :=
  s.cmdPart k || bitsOf (k.word 0) 31 8 ≠ 0 || bitsOf (k.word 0) 7 0 ≠ 1 || bitsOf (k.word 5) 31 5 ≠ 0 || bitsOf (k.word 7) 31 27 ≠ 0 ||
  bitsOf (k.word 10) 31 1 ≠ 0 || (k.entry.data.drop 11).any (fun w => w != 0) || k.budget < k.sinks + k.window ||
  k.seqVa % 64 ≠ 0 || 2 ^ 57 ≤ k.seqVa || (k.tok && !s.cmdHandle k)

/-- A command completed with a status: its token, under TOK (R214), dropped where its context has ended (R312). -/
def State.endCmd (s : State) (die : Nat) (k : EnckeCmd) (status : Nat) : State :=
  if !(k.tok && s.cmdHandle k) then s
  else if k.orphan then s.countDrop k.ctx
  else
    s.sendTok (tokenTo s.d.devnum (BitVec.ofNat 32 (k.word 6)) (bitsOf (k.word 7) 26 24) (bitsOf (k.word 7) 23 16) {} k.ctx (bitsOf (k.word 7) 15 0)
      (BitVec.ofNat 32 (k.word 8)) (BitVec.ofNat 32 (if status = 0 then k.word 9 else 0xFFFFFF00 + status))) (enckeSender die) []

/-- A rejected command: record 0x13 with status 1 (R214). -/
def State.rejectCmd (s : State) (die : Nat) (k : EnckeCmd) : State :=
  (s.note { FaultRec.engine 0x13 7 k.ctx k.core with d0 := 1 }).endCmd die k 1

/-- ENCKE_COMMAND: the die's Encke takes the next entry of a core's `QEK`, refuses it for its mark, rejects it, or keeps
it for its turn on the sequence (R214, R366). -/
def execEnckeCommand (ctx core : Nat) (s : State) : Host.Outcome State Fault Refusal :=
  let die := core / 32
  match (s.d.share ctx core).queue .qek with
  | [] => .next s
  | e :: es =>
    if !s.mayRun ctx core || !s.entryReady ctx core e then .next s
    else
      let k := EnckeCmd.new ctx core e
      let k := { k with entry := e.accepted k.tok (s.d.frameTask ctx (handleCore (BitVec.ofNat 32 (k.word 6))) (handleOfs (BitVec.ofNat 32 (k.word 6)))) }
      let s1 := (s.mapShare ctx core fun x => x.setQueue .qek es).noteEntry ctx core e
      if e.poison then .next ((s1.note (FaultRec.engine 0x18 3 ctx core)).endCmd die k 2)
      else if s.cmdBad k then .next (s1.rejectCmd die k)
      else .next (s1.mapDie die fun x => { x with encke := x.encke ++ [k] })

/-! ### Translation before anything changes (R214, R363) -/

/-- The first address of a range that an engine's access may not reach: its code, address and DETAIL0, which is 2 where
the range is read and written (R250; DEDUCED, log entry 60). -/
def State.rangeMiss (s : State) (c va n : Nat) (wr : Bool) : Option (Nat × Nat × Nat) :=
  let steps := if n = 0 then 0 else (va + n - 1) / 65536 - va / 65536 + 1
  ((List.range steps).map fun k => if k = 0 then va else (va / 65536 + k) * 65536).findSome? fun a =>
    match s.walk c a with
    | none => some (0x20, a, if wr then 2 else 0)
    | some x => if x.canRead && (!wr || x.canWrite) then none else some (0x21, a, if wr then 2 else 0)

/-- The addresses of the K and V pages of a sequence's live entries. -/
def State.livePages (s : State) (c : Nat) (d : SeqDesc) : List (Nat × Nat) :=
  (List.range d.npages).map fun j => (s.natVirt c (d.plist + 16 * j) 8, s.natVirt c (d.plist + 16 * j + 8) 8)

/-- The ranges that an eviction may write: address and length. -/
def evictRanges (va : Nat) (d : SeqDesc) (pages : List (Nat × Nat)) : List (Nat × Nat) :=
  [(va, 64)] ++ (pages.flatMap fun p => [(p.1, 64 * d.rbytes + 512), (p.2, 64 * d.rbytes)]) ++ [(d.remap, 4 * d.nextpos)]

/-- The granules of ranges whose first write by the root revision takes a page of the pool (R344). -/
def State.pagesWanted (s : State) (c : Nat) (rs : List (Nat × Nat)) : List Nat :=
  ((rs.flatMap fun r => (List.range ((r.1 + r.2 + 4095) / 4096 - r.1 / 4096)).map fun k => r.1 / 4096 + k).eraseDups).filter fun g =>
    (s.d.ctx c).needsPage rootTask (g * 4096)

/-- The translation step: the first failure among descriptor, page list, pages and remap table, or a pool without the
pages that copies for revisions take. -/
def State.evictMiss (s : State) (c va : Nat) (d : SeqDesc) (pages : List (Nat × Nat)) : Option (Nat × Nat × Nat) :=
  match (evictRanges va d pages).findSome? fun r => s.rangeMiss c r.1 r.2 true with
  | some m => some m
  | none =>
    let want := s.pagesWanted c (evictRanges va d pages)
    if (s.d.ctx c).pagesFree < want.length then some (0x20, want.headD 0 * 4096, 3) else none

/-! ### Reads and writes of Encke (R363, R365) -/

/-- The 64 KiB pieces of ranges with their physical addresses, as step 2 translates them (R368). -/
def State.enckeXlat (s : State) (c : Nat) (rs : List (Nat × Nat)) : Map Nat :=
  (rs.flatMap fun r => if r.2 = 0 then [] else (List.range ((r.1 + r.2 - 1) / 65536 - r.1 / 65536 + 1)).map fun k => r.1 / 65536 + k).foldl
    (fun m k => match s.engineAddr c (k * 65536) false with
      | some pa => m.put k pa
      | none => m) []

/-- The physical address of one of the command's addresses. -/
def EnckeCmd.addr (k : EnckeCmd) (va : Nat) : Nat := (k.xlat.getD (va / 65536) 0) + va % 65536

/-- Bytes of one line written at their home in the root revision: no L1 sees them (R260; DEDUCED, log entry 15). None while
the pool has no page for an ancestor's copy. -/
def State.homeWrite (s : State) (c va pa : Nat) (bs : List Byte) : Option State :=
  (s.cow c rootTask va pa).map fun t => t.putMem pa bs

/-- BUSY of a descriptor written at its home. -/
def State.homeBusy (s : State) (k : EnckeCmd) (busy : Bool) : Option State :=
  s.homeWrite k.ctx (k.seqVa + 32) (k.pa + 32) (bytesLE 4 (s.mem.nat (k.pa + 32) 4 / 2 * 2 + (if busy then 1 else 0)))

/-- A line that Encke read with an error mark, which it has then met: one record of code 0x30 for each (R365, R392). -/
def State.noteLine (s : State) (k : EnckeCmd) (line : Nat) : State :=
  if k.noted.contains line then s
  else
    let pa := k.addr (line * 64)
    (s.note { FaultRec.engine 0x30 4 k.ctx k.core with d0 := BitVec.ofNat 32 (s.mem.errCode pa 64), address := line * 64 }).meetMark pa 64

/-- A command whose read of a line met an error mark. -/
def EnckeCmd.noteAt (k : EnckeCmd) (line : Nat) : EnckeCmd :=
  if k.noted.contains line then k else { k with noted := k.noted ++ [line] }

/-! ### The eviction (R363) -/

/-- Where an index of a sequence lies: K page, V page and slot. -/
def pageOf (pages : List (Nat × Nat)) (i : Nat) : (Nat × Nat) × Nat := (pages.getD (i / 64) (0, 0), i % 64)

/-- A candidate put in rank order: larger mass first, then the lower position, then the lower index (R363). -/
def rankInsert (x : Nat × Nat × Nat) : List (Nat × Nat × Nat) → List (Nat × Nat × Nat)
  | [] => [x]
  | y :: ys =>
    if y.1 < x.1 || (y.1 = x.1 && (x.2.1 < y.2.1 || (x.2.1 = y.2.1 && x.2.2 < y.2.2))) then x :: y :: ys else y :: rankInsert x ys

/-- The indices that survive: sinks, the recent window, and the highest ranked of the others (R363). -/
def survivors (len budget sinks window : Nat) (mass pos : Nat → Nat) : List Nat :=
  if len ≤ budget then List.range len
  else
    let cand := (List.range len).filter fun i => sinks ≤ i && i < len - window
    let best := ((cand.foldl (fun l i => rankInsert (mass i, pos i, i) l) []).take (budget - sinks - window)).map fun x => x.2.2
    (List.range len).filter fun i => i < sinks || len - window ≤ i || best.contains i

/-- The addresses of an index's mass and position. -/
def massVa (d : SeqDesc) (pages : List (Nat × Nat)) (i : Nat) : Nat := let p := pageOf pages i; massAt d p.1.1 p.2
def posVa (d : SeqDesc) (pages : List (Nat × Nat)) (i : Nat) : Nat := let p := pageOf pages i; posAt d p.1.1 p.2

/-- The indices that survive, in order, each with the index it moves to (R363). -/
def EnckeCmd.kept (k : EnckeCmd) (d : SeqDesc) : List (Nat × Nat) :=
  (survivors d.length k.budget k.sinks k.window (fun i => k.mass.getD i 0) (fun i => k.pos.getD i 0)).zipIdx

/-- The lines of the rows that move: where each lies and where it goes (R363). -/
def EnckeCmd.rowMoves (k : EnckeCmd) (d : SeqDesc) : List (Nat × Nat) :=
  ((k.kept d).filter fun m => m.1 ≠ m.2).flatMap fun m =>
    let a := pageOf k.pages m.1
    let b := pageOf k.pages m.2
    (List.range (d.rbytes / 64)).flatMap fun j =>
      [(a.1.1 + a.2 * d.rbytes + 64 * j, b.1.1 + b.2 * d.rbytes + 64 * j), (a.1.2 + a.2 * d.rbytes + 64 * j, b.1.2 + b.2 * d.rbytes + 64 * j)]

/-- A word to be written. -/
def wordWr (va v : Nat) : EnckeWr := { va := va, bytes := bytesLE 4 v, bad := false }

/-- The remap entries that a command writes: the last index of a position decides (R363). -/
def EnckeCmd.remaps (k : EnckeCmd) (d : SeqDesc) : Map Nat :=
  let keep := k.kept d
  (List.range d.length).foldl (fun m i =>
    let p := k.pos.getD i 0
    if d.nextpos ≤ p then m
    else m.put p (match keep.find? fun q => q.1 = i with
      | some q => q.2
      | none => 0x80000000)) []

/-- The words that a command writes besides the rows it moves: counters and positions of moved indices, the remap table, the
unused slots of the last live page, and LENGTH and NPAGES (R357, R363). -/
def EnckeCmd.words (k : EnckeCmd) (d : SeqDesc) : List EnckeWr :=
  let keep := k.kept d
  let n := keep.length
  ((keep.filter fun m => m.1 ≠ m.2).flatMap fun m =>
    [wordWr (massVa d k.pages m.2) (k.mass.getD m.1 0), wordWr (posVa d k.pages m.2) (k.pos.getD m.1 0)]) ++
  ((k.remaps d).map fun p => wordWr (d.remap + 4 * p.1) p.2) ++
  (((List.range ((n + 63) / 64 * 64)).filter fun i => n ≤ i).flatMap fun i =>
    [wordWr (posVa d k.pages i) 0xFFFFFFFF, wordWr (massVa d k.pages i) 0]) ++
  [wordWr (k.seqVa + 8) n, { va := k.seqVa + 28, bytes := bytesLE 2 ((n + 63) / 64), bad := false }]

/-! ### The steps of a command (R363, R366) -/

/-- A die's command replaced, or gone where it is none. -/
def State.putCmd (s : State) (die idx : Nat) (k : Option EnckeCmd) : State :=
  s.mapDie die fun x => { x with encke := match k with
    | some y => x.encke.set idx y
    | none => x.encke.eraseIdx idx }

/-- A command that has ended: BUSY is clear where it had set it, and its token leaves. -/
def State.closeCmd (s : State) (die idx : Nat) (k : EnckeCmd) (status : Nat) : Option State :=
  (if k.stage = 0 then some s else s.homeBusy k false).map fun t => (t.putCmd die idx none).endCmd die k status

/-- A command that a failed translation ends, with its record (R214). -/
def State.missCmd (s : State) (die idx : Nat) (k : EnckeCmd) (m : Nat × Nat × Nat) : State :=
  let t := s.note { FaultRec.engine m.1 1 k.ctx k.core with address := m.2.1, d0 := BitVec.ofNat 32 m.2.2 }
  (t.closeCmd die idx k 4).getD s

/-- What a command that has not begun waits for or meets at its descriptor (R214, R363). -/
inductive CmdHead where
  | miss (m : Nat × Nat × Nat)
  | busy
  | bad
  | go (pa desc : Nat)

/-- The descriptor of a command that has not begun. -/
def State.cmdHead (s : State) (k : EnckeCmd) : CmdHead :=
  match s.rangeMiss k.ctx k.seqVa 64 true, s.engineAddr k.ctx k.seqVa false with
  | some m, _ => .miss m
  | none, none => .busy
  | none, some pa =>
    let n := s.mem.nat pa 64
    if (SeqDesc.of n).busy then .busy else if !(SeqDesc.of n).ok then .bad else .go pa n

/-- Whether Encke may begin a command now: it serves no other, and every earlier one waits for BUSY (R17, R366). -/
def State.cmdTurn (s : State) (ks : List EnckeCmd) (idx : Nat) : Bool :=
  (ks.all fun j => j.stage = 0) && (ks.take idx).all fun j => match s.cmdHead j with
    | .busy => true
    | _ => false

/-- Whether a command's context is ENDING, or has ended. -/
def State.cmdEnds (s : State) (k : EnckeCmd) : Bool := (s.d.ctx k.ctx).state = .ending || k.orphan

/-- Step 1: BUSY is tested and set in one indivisible step at the descriptor's home (R363). A command that waits for BUSY in
an ENDING context is abandoned, whether or not BUSY has cleared since (R366). -/
def State.cmdBegin (s : State) (die idx : Nat) (k : EnckeCmd) : State :=
  match s.cmdHead k with
  | .miss m => s.missCmd die idx k m
  | .busy => if s.cmdEnds k then s.putCmd die idx none else s.putCmd die idx (some { k with waited := true })
  | .bad => (s.putCmd die idx none).rejectCmd die k
  | .go pa n =>
    if k.waited && s.cmdEnds k then s.putCmd die idx none else
    let k1 := { k with stage := 1, pa := pa, desc := n }
    match s.homeBusy k1 true with
    | some t => t.putCmd die idx (some k1)
    | none => s.missCmd die idx k (0x20, k.seqVa, 3)

/-- Step 2, once the words that read the sequence before have been performed: everything is translated (R214, R363). -/
def State.cmdTranslate (s : State) (die idx : Nat) (k : EnckeCmd) : State :=
  let d := SeqDesc.of k.desc
  if s.d.ops.any fun o => o.seqAt = k.pa then s
  else match s.rangeMiss k.ctx d.plist (16 * d.npages) false with
    | some m => s.missCmd die idx k m
    | none =>
      let pages := s.livePages k.ctx d
      if pages.any fun p => !(pageOk p.1 && pageOk p.2) then
        ((s.note { FaultRec.engine 0x13 7 k.ctx k.core with d0 := 1 }).closeCmd die idx k 1).getD s
      else match s.evictMiss k.ctx k.seqVa d pages with
        | some m => s.missCmd die idx k m
        | none =>
          s.putCmd die idx (some { k with
            stage := 2, pages := pages, xlat := s.enckeXlat k.ctx (evictRanges k.seqVa d pages)
            left := (List.range d.length).flatMap fun i => [(i, 0), (i, 1)] })

/-- One read of what a stage has still to do, and what is left. -/
def EnckeCmd.takeLeft (k : EnckeCmd) (pick : Nat) : Option ((Nat × Nat) × EnckeCmd) :=
  (k.left[pick % k.left.length]?).map fun x => (x, { k with left := k.left.eraseIdx (pick % k.left.length) })

/-- The place of the write that goes first: the one picked, or an earlier one of the same bytes. -/
def firstWr (ws : List EnckeWr) (pick : Nat) : Nat :=
  match ws[pick]? with
  | none => 0
  | some w => (ws.findIdx? fun x => x.va < w.va + w.bytes.length && w.va < x.va + x.bytes.length).getD pick

/-- The `n`-th of a command's writes made (R363, Visibility). -/
def State.cmdPut (s : State) (die idx n : Nat) (k : EnckeCmd) : State :=
  match k.writes[n]? with
  | none => s
  | some w => match s.homeWrite k.ctx w.va (k.addr w.va) w.bytes with
    | none => s
    | some t =>
      let u : State := if w.bad then { t with mem := t.mem.setMark (k.addr w.va / 64) } else t
      u.putCmd die idx (some { k with writes := k.writes.eraseIdx n })

/-- A counter read, which decays: a marked one ranks as zero and is written as zero (R363, R365). -/
def State.cmdDecay (s : State) (die idx : Nat) (k k1 : EnckeCmd) (i : Nat) : State :=
  let va := massVa (SeqDesc.of k.desc) k.pages i
  let pa := k.addr va
  let bad := s.mem.marked pa 4
  let v := if bad then 0 else s.mem.nat pa 4 / 2 ^ k.shift
  (if bad then s.noteLine k (va / 64) else s).putCmd die idx
    (some { (if bad then k1.noteAt (va / 64) else k1) with mass := k.mass.put i v, writes := k.writes ++ [wordWr va v] })

/-- A position read. -/
def State.cmdRank (s : State) (die idx : Nat) (k k1 : EnckeCmd) (i : Nat) : State :=
  let va := posVa (SeqDesc.of k.desc) k.pages i
  let pa := k.addr va
  if s.mem.marked pa 4 then (s.noteLine { k with noted := k.badPos } (va / 64)).putCmd die idx (some { k1 with badPos := va / 64 :: k.badPos })
  else s.putCmd die idx (some { k1 with pos := k.pos.put i (s.mem.nat pa 4) })

/-- Steps 3 and 4: the counters and positions are read, and the decayed counters written, in any order (R363). A marked position
ends the command with status 6 once the decay is written (R365); else the survivors are then known. -/
def State.cmdCount (s : State) (die idx pick : Nat) (k : EnckeCmd) : State :=
  let n := pick % (k.left.length + k.writes.length)
  if k.left.isEmpty && k.badPos.isEmpty then
    let d := SeqDesc.of k.desc
    s.putCmd die idx (some { k with stage := 3, left := k.rowMoves d, writes := k.writes ++ k.words d })
  else if k.left.isEmpty && k.writes.isEmpty then (s.closeCmd die idx k 6).getD s
  else if n < k.left.length then
    match k.takeLeft n with
    | none => s
    | some ((i, what), k1) => if what = 0 then s.cmdDecay die idx k k1 i else s.cmdRank die idx k k1 i
  else s.cmdPut die idx (firstWr k.writes (n - k.left.length)) k

/-- One line of a row that moves read; its mark goes with it (R365). -/
def State.cmdRead (s : State) (die idx : Nat) (k : EnckeCmd) (n : Nat) : State :=
  match k.takeLeft n with
  | none => s
  | some ((src, dst), k1) =>
    let pa := k.addr src
    let bad := s.mem.marked pa 64
    (if bad then s.noteLine k (src / 64) else s).putCmd die idx
      (some { (if bad then k1.noteAt (src / 64) else k1) with writes := k.writes ++ [{ va := dst, bytes := s.mem.bytes pa 64, bad := bad }] })

/-- Step 5: rows are read and everything is written in any order, but that a line is read before it is written (R363,
Visibility). The eviction is counted after the other writes, since the host orders its reads through EVCNT (R368). -/
def State.cmdMove (s : State) (die idx pick : Nat) (k : EnckeCmd) : State :=
  let n := pick % (k.left.length + k.writes.length)
  if k.left.isEmpty && k.writes.isEmpty then
    let va := k.seqVa + 36
    match s.homeWrite k.ctx va (k.addr va) (bytesLE 4 ((SeqDesc.of k.desc).evcnt + 1)) with
    | none => s
    | some t => t.putCmd die idx (some { k with stage := 4 })
  else if n < k.left.length then s.cmdRead die idx k n
  else
    let m := firstWr k.writes (n - k.left.length)
    match (k.writes[m]?).bind fun w => k.left.findIdx? fun x => x.1 < w.va + w.bytes.length && w.va < x.1 + 64 with
    | some j => s.cmdRead die idx k j
    | none => s.cmdPut die idx m k

/-- EVICTION: one step of a command that Encke serves or may begin to serve (R363, R366); the step's `pick`
chooses among reads or writes that come in any order (DEDUCED, log entry 78). -/
def execEviction (die : Nat) (at_ : EvictStep) (s : State) : Host.Outcome State Fault Refusal :=
  let ks := (s.d.die die).encke
  let idx := at_.idx
  match ks[idx]? with
  | none => .next s
  | some k =>
    match k.stage with
    | 0 => if s.cmdTurn ks idx then .next (s.cmdBegin die idx k) else .next s
    | 1 => .next (s.cmdTranslate die idx k)
    | 2 => .next (s.cmdCount die idx at_.pick k)
    | 3 => .next (s.cmdMove die idx at_.pick k)
    | _ => .next ((s.closeCmd die idx k 0).getD s)

end Sys2Proof.Machine
end

