-- ==== Sys2Proof/Machine/Form.lean ====
section
/-! DEFINITION. Bins, groups and the formation of warps (R14, R48, R93, R236-R243, R279). -/

namespace Sys2Proof.Machine

/-! ### Groups (R236, R279) -/

/-- The bins of a kind. -/
def Share.bins (x : Share) (seq : Bool) : Map (List Ready) := if seq then x.sbins else x.vbins

/-- The bins of a kind replaced. -/
def Share.setBins (x : Share) (seq : Bool) (m : Map (List Ready)) : Share := if seq then { x with sbins := m } else { x with vbins := m }

/-- The instances of a group, in entry order. -/
def Share.group (x : Share) (det : Bool) (k : GroupKey) : List Ready :=
  ((x.bins k.seq).getD k.bin []).filter fun r => decide (r.key det k.seq k.bin = k)

/-- The groups of a share's bins of one kind. -/
def Share.groups (x : Share) (det seq : Bool) : List GroupKey :=
  ((x.bins seq).flatMap fun p => p.2.map fun r => r.key det seq p.1).eraseDups

/-- The instances of a group that take distinct lanes, the first enqueued of each (R279). -/
def byLane : List Nat → List Ready → List (Nat × Ready)
  | _, [] => []
  | seen, r :: rs =>
    let l := r.desc.tag.toNat % 32
    if seen.contains l then byLane seen rs else (l, r) :: byLane (l :: seen) rs

/-- The lanes 0 to `k` that an XL group fires, where they are all present (R279; DEDUCED, log entry 76). -/
def xlTop (ls : List (Nat × Ready)) : Option Nat :=
  let full := fun k => (List.range (k + 1)).all fun l => ls.any fun p => p.1 = l
  (List.range 32).find? fun k => full k && (k = 31 || ls.any fun p => p.1 = k && p.2.desc.last)

/-- The lanes and instances of the warp a group would form (R240, R243, R279). -/
def warpOf (det xl seq : Bool) (rs : List Ready) : List (Nat × Ready) :=
  if seq then (rs.take 1).map fun r => (0, r)
  else if det then
    let ls := byLane [] rs
    if xl then (match xlTop ls with
      | some k => ls.filter fun p => p.1 ≤ k
      | none => [])
    else ls
  else ((rs.take 32).zipIdx).map fun p => (p.2, p.1)

/-- Whether a group of a share is eligible (R238, R243, R279). -/
def Share.eligible (x : Share) (det : Bool) (h : Header) (k : GroupKey) : Bool :=
  let rs := x.group det k
  if k.seq then !rs.isEmpty
  else if det && h.xl then (xlTop (byLane [] rs)).isSome
  else decide (32 ≤ rs.length) || (h.gather = 0 && !rs.isEmpty) || (x.timed.contains k && !rs.isEmpty)

/-! ### Register space (R14, R242, R243) -/

/-- The main-file bytes of a warp's registers. -/
def Warp.fileBytes (w : Warp) : Nat := w.hdr.vregs * 8 * 128

/-- Whether a warp's share is saved: it then holds no registers of the core (R242, R326). -/
def State.isSaved (s : State) (w : Warp) : Bool := (s.d.share w.ctx w.core).saved

/-- The vector warps of a partition of a core. -/
def State.onPart (s : State) (g p : Nat) : List Warp := s.allWarps.filter fun w => w.core = g && !w.seq && w.part = p && !s.isSaved w

/-- The free main-file bytes of a partition. -/
def State.fileFree (s : State) (g p : Nat) : Nat := 131072 - ((s.onPart g p).map Warp.fileBytes).foldl (· + ·) 0

/-- The partition for a vector warp of `n` bytes: the most free one that can hold it, the lower number on a tie (R242). -/
def State.partFor (s : State) (g n : Nat) : Option Nat :=
  ((List.range 16).filter fun p => n ≤ s.fileFree g p && (s.onPart g p).length < 32).foldl (fun b p => match b with
    | none => some p
    | some q => if s.fileFree g q < s.fileFree g p then some p else b) none

/-- Where a warp may be placed: a partition, or the sequencer while fewer than 8 of its warps are resident. -/
def State.warpPlace (s : State) (g : Nat) (seq : Bool) (h : Header) : Option Nat :=
  if seq then (if (s.allWarps.filter fun w => w.core = g && w.seq && w.status != .retired && w.part ≠ noPart && !s.isSaved w).length < 8 then some 0 else none)
  else s.partFor g (h.vregs * 8 * 128)

/-- The restored warp of a kind that waits longest for a place on a core and finds one, put there (R242, R326). -/
def State.placeWarp (s : State) (g : Nat) (seq : Bool) : Option State :=
  let ws := s.allWarps.filter fun w => w.core = g && w.seq = seq && w.part = noPart && !s.isSaved w && (s.warpPlace g seq w.hdr).isSome
  (ws.foldl (fun (b : Option Warp) w => match b with
    | none => some w
    | some v => if w.uid < v.uid then some w else some v) none).bind fun w =>
      (s.warpPlace g seq w.hdr).map fun p => s.mapUid w.uid fun v => { v with part := p }

/-- Restored warps placed as long as one finds room; `fuel` at most. -/
def State.placeWarps (s : State) (g : Nat) (seq : Bool) : Nat → State
  | 0 => s
  | fuel + 1 => match s.placeWarp g seq with
    | none => s
    | some t => t.placeWarps g seq fuel

/-! ### Formation (R93, R239, R240) -/

/-- Whether the device is in a mode of the weaker promise: start-up, test or recovery (R247, R413). -/
def Dev.weak (d : Dev) : Bool := d.bootState = 3 || d.bootState = 4 || d.bootState = 5

/-- A choice a core has: a context, its slot, a group, the group's header and its oldest instance's entry. -/
structure Choice where
  ctx : Nat
  slot : Nat
  prio : Nat
  key : GroupKey
  va : Nat
  hdr : Header
  since : Nat

/-- Whether choice `a` goes before `b` (R239; DEDUCED, log entry 14). -/
def Choice.before (a b : Choice) : Bool :=
  if a.prio ≠ b.prio then b.prio < a.prio
  else if a.since ≠ b.since then a.since < b.since
  else if a.slot ≠ b.slot then a.slot < b.slot
  else if a.key.bin ≠ b.key.bin then a.key.bin < b.key.bin
  else if a.key.task ≠ b.key.task then a.key.task < b.key.task
  else if a.key.blk ≠ b.key.blk then a.key.blk < b.key.blk
  else a.key.grp < b.key.grp

/-- The eligible groups of a core's bins of one kind. A group whose header does not translate cannot form (DEDUCED, log entry
14). -/
def State.choices (s : State) (g : Nat) (seq : Bool) : List Choice :=
  (s.d.holders g).flatMap fun p =>
    let c := p.1 / 256
    let k := s.d.ctx c
    if !s.mayRun c g then []
    else (p.2.groups k.det seq).filterMap fun key => match s.blockAt c key.task key.blk with
      | none => none
      | some h =>
        if p.2.eligible k.det h.2 key then
          some { ctx := c, slot := p.2.slot.getD 0, prio := k.prio, key := key, va := h.1, hdr := h.2
                 since := ((p.2.group k.det key).map Ready.since).headD 0 }
        else none

/-- What R93 finds in the header of a choice. -/
def State.choiceFault (s : State) (x : Choice) : Option Nat :=
  x.hdr.fault (((s.d.ctx x.ctx).tasks.find x.key.task).map Task.nblk |>.getD 0)

/-- The lanes and instances of the warp a choice would form. -/
def State.choiceLanes (s : State) (g : Nat) (x : Choice) : List (Nat × Ready) :=
  let det := (s.d.ctx x.ctx).det
  warpOf det x.hdr.xl x.key.seq ((s.d.share x.ctx g).group det x.key)

/-- Whether a token for an input slot of an instance that a choice would fire has arrived in this clock: the firing, had it
come in that clock, would have come first, so it comes in a later one (R248). -/
def State.tokenMet (s : State) (g : Nat) (x : Choice) : Bool :=
  let now := (s.d.core g).now
  !now.isEmpty && (s.choiceLanes g x).any fun p => now.any fun h => match h with
    | .token c ofs slot => c = x.ctx && ofs = p.2.desc.ofs && x.hdr.slot0 ≤ slot && slot < x.hdr.slot0 + x.hdr.slotn
    | _ => false

/-- The choices that fault or can be placed now: one that cannot be placed does not block the others (R239). -/
def State.open_ (s : State) (g : Nat) (seq : Bool) : List Choice :=
  (s.choices g seq).filter fun x => (s.choiceFault x).isSome || (s.warpPlace g seq x.hdr).isSome

/-- The choice that a core takes: the first in the order of R239; in the modes of the weaker promise any one (R247; DESIGN
CHOICE, log entry 89). -/
def State.choose (s : State) (g : Nat) (seq : Bool) : Option Choice :=
  let xs := s.open_ g seq
  if s.d.weak then xs[Config.weakChoice s.d.free % xs.length]?
  else xs.foldl (fun (b : Option Choice) x => match b with
    | none => some x
    | some y => if x.before y then some x else b) none

/-- The warp of a choice's lanes (R48, R240). -/
def State.newWarp (s : State) (g uid part : Nat) (x : Choice) (ls : List (Nat × Ready)) : Warp :=
  let k := s.d.ctx x.ctx
  let sh := s.d.share x.ctx g
  let marked := fun (ofs : Nat) => (List.range (sh.slotsIn ofs x.hdr)).any fun j => (sh.marks.find (ofs + x.hdr.slot0 + j)).isSome
  let lane := fun l => (ls.find? fun p => p.1 = l).map Prod.snd
  { Warp.absent with
    live := true, uid := uid, ctx := x.ctx, core := g, seq := x.key.seq, part := part, task := x.key.task, blk := x.key.blk
    hdr := x.hdr, base := x.va
    filled := maskOf fun l => (lane l).isSome
    frame := ls.foldl (fun m p => m.put p.1 p.2.desc.ofs) []
    tag := ls.foldl (fun m p => m.put p.1 p.2.desc.tag) []
    pz := maskOf fun l => ((lane l).map fun r => marked r.desc.ofs).getD false
    fmode := k.fmode, srseed := k.srseed }

/-- Instances taken out of their bin; the group's timer starts anew (R238). -/
def Share.takeOut (x : Share) (k : GroupKey) (rs : List Ready) : Share :=
  let y := x.setBins k.seq ((x.bins k.seq).upd k.bin [] fun l => l.filter fun r => !(rs.map Ready.seqno).contains r.seqno)
  { y with timed := y.timed.filter fun j => j ≠ k }

/-- A choice whose header is invalid: its group's instances leave the bin unfired, with one record at the block's first
word (R93, R239). -/
def State.faultGroup (s : State) (g : Nat) (x : Choice) (code : Nat) : State :=
  let det := (s.d.ctx x.ctx).det
  let rs := (s.d.share x.ctx g).group det x.key
  let w := s.newWarp g 0 0 x (warpOf det x.hdr.xl x.key.seq rs)
  (s.mapShare x.ctx g fun y => y.takeOut x.key rs).note (w.faultRec code 0 w.filled)

/-- The warp of a choice formed: input slots are clear, descriptors free, and it can issue (R240). -/
def State.formWarp (s : State) (g : Nat) (x : Choice) (part : Nat) : State :=
  let ls := s.choiceLanes g x
  let n := s.fresh
  let w := s.newWarp g n.1 part x ls
  let s1 := n.2.mapShare x.ctx g fun y => y.takeOut x.key (ls.map Prod.snd)
  let s2 := ls.foldl (fun t p => t.clearInputs x.ctx g p.2.desc.ofs x.hdr) s1
  { s2 with d := { s2.d with warps := s2.d.warps ++ [w] } }

/-- A group taken up by a core: it fires, or its header's fault is recorded (R93, R239). -/
def State.formChoice (s : State) (g : Nat) (seq : Bool) (x : Choice) : State :=
  match s.choiceFault x, s.warpPlace g seq x.hdr with
  | some code, _ => s.faultGroup g x code
  | none, some part => s.formWarp g x part
  | none, none => s

/-- Whether a core's choice is left to a later clock: it would have fired before a token of this one, or have given an instance
that parked in this one its descriptor (R248). -/
def State.formsLater (s : State) (g : Nat) (x : Choice) : Bool :=
  ((s.choiceFault x).isNone && s.tokenMet g x) || (s.d.core g).now.contains .parked

/-- The formation of one warp of a kind on a core, one in a clock at most; restored warps that wait for a place come first
(R239, R242; DEDUCED, log entry 76). -/
def State.form (s : State) (g : Nat) (seq : Bool) : State :=
  if (s.d.core g).now.contains (.formed seq) then s
  else match s.placeWarp g seq with
  | some t => t
  | none => match s.choose g seq with
    | none => s
    | some x =>
      if s.formsLater g x then s
      else
      let t := if s.d.weak then s.tick else s
      (((t.formChoice g seq x).happen g (.formed seq)).happen g .freed)

/-- WARP_FORMATION (R239, R240). -/
def execWarpFormation (core : Nat) (s : State) : Host.Outcome State Fault Refusal := .next (s.form core false)

/-- SEQUENCER_WARP_FORMATION (R243). -/
def execSequencerWarpFormation (core : Nat) (s : State) : Host.Outcome State Fault Refusal := .next (s.form core true)

/-- GATHER_TIMEOUT: a group's oldest instance has waited its block's GATHER clocks, and the group is eligible (R238). -/
def execGatherTimeout (ctx core : Nat) (grp : GroupKey) (s : State) : Host.Outcome State Fault Refusal :=
  let x := s.d.share ctx core
  match x.group (s.d.ctx ctx).det grp, s.blockAt ctx grp.task grp.blk with
  | r :: _, some h =>
    if grp.seq || x.saved || x.timed.contains grp || (s.d.core core).clk < r.since + h.2.gather then .next s
    else .next (s.mapShare ctx core fun y => { y with timed := y.timed ++ [grp] })
  | _, _ => .next s

end Sys2Proof.Machine
end

