-- ==== Sys2Proof/Machine/Merge.lean ====
section
/-! DEFINITION. Charon: the merge of a child's revision into its parent's, and the join token (R17, R219, R265,
R348-R352, R354). -/

namespace Sys2Proof.Machine

/-! ### Elements (R349, R350) -/

/-- The element size of a region type (R216). -/
def regionSize (ty : Nat) : Nat :=
  match ty with
  | 0 => 1
  | 1 | 4 | 5 => 2
  | 2 | 6 => 4
  | _ => 8

/-- The floating format of a region type (R216). -/
def regionFmt (ty : Nat) : FFmt :=
  match ty with
  | 4 => fmt16
  | 5 => fmtB16
  | 6 => fmt32
  | _ => fmt64

/-- The sum of a conflict: the parent's value plus the child's change (R350). -/
def mergeSum (ty pv c a : Nat) : Nat :=
  let w := 8 * regionSize ty
  if ty < 4 then (pv + c + 2 ^ w - a) % 2 ^ w
  else
    let f := regionFmt ty
    let d := f.roundFV .rne false 0 (FV.add .rne (f.read false c) (f.read false a).negate)
    f.roundFV .rne false 0 (FV.add .rne (f.read false pv) (f.read false d))

/-- The larger or the lesser of two elements (R350). -/
def mergePick (ty : Nat) (greater : Bool) (pv c : Nat) : Nat :=
  let w := 8 * regionSize ty
  if ty < 4 then (if (sextInt w pv < sextInt w c) == greater then c else pv)
  else (regionFmt ty).pick greater false false false pv c

/-- The value an element takes where parent and child both changed it (R350). -/
def resolveMerge (code ty pv c a : Nat) : Nat :=
  match code with
  | 0 => c
  | 2 => mergeSum ty pv c a
  | 3 => mergePick ty true pv c
  | 4 => mergePick ty false pv c
  | 5 => (pv &&& c) ||| ((pv ||| c) &&& (2 ^ (8 * regionSize ty) - 1 - a))
  | _ => pv

/-- What a merge does with one element: nothing, or the value it leaves and whether that is a conflict (R349). -/
def mergeElem (code ty pv c a : Nat) : Option (Nat × Bool) :=
  if c = a || code = 7 then none
  else if pv = a || pv = c then some (c, false)
  else some (resolveMerge code ty pv c a, true)

/-! ### The order of merges (R17, R348) -/

/-- Whether another parent's child that completed earlier stands before a child at a die's Charon (R17). -/
def Dev.joinBehind (d : Dev) (c q : Nat) (t : Task) (k : Child) : Bool :=
  d.ctxs.any fun x => x.2.state != .free && x.2.tasks.any fun p => match p.2.child with
    | some j =>
      !(x.1 = c && (p.1 = q || j.parent = k.parent)) && handleCore j.fr / 32 = handleCore k.fr / 32 && p.2.doneSeq < t.doneSeq && x.2.mayJoin p.1 &&
        (match x.2.revs.find p.1 with
        | some r => r.stuck.isNone
        | none => true)
    | none => false

/-! ### A granule (R344, R349, R350, R352) -/

/-- The elements of a granule that lie in a child's dirty sectors: byte offsets. -/
def dirtyElems (bits : BitVec 128) (size : Nat) : List Nat :=
  ((List.range 128).filter fun k => bits.getLsbD k).flatMap fun k => (List.range (32 / size)).map fun j => 32 * k + j * size

/-- The count of a region's joins merged into a task's view changed: the task's revision, or the root (R352). -/
def Ctx.bumpCounts (c : Ctx) (parent idx va : Nat) (conf gran : Nat) : Ctx :=
  let add := fun (m : Map Nat) (n : Nat) => m.put idx (satNat 32 (m.getD idx 0 + n))
  if c.ownsView parent va then
    { c with revs := c.revs.map fun p =>
        if p.1 = parent then (p.1, { p.2 with conflicts := add p.2.conflicts conf, granules := add p.2.granules gran }) else p }
  else { c with rootConf := add c.rootConf conf, rootGran := add c.rootGran gran }

/-- The conflicts counted so far for a region of a task's view. -/
def Ctx.confCount (c : Ctx) (parent idx va : Nat) : Nat :=
  if c.ownsView parent va then ((c.revs.find parent).map fun r => r.conflicts.getD idx 0).getD 0 else c.rootConf.getD idx 0

/-- Bytes written by Charon in a task's view, at a virtual address that translates (R265); none while a page is
lacking. -/
def State.charonWrite (s : State) (c task va pa : Nat) (bs : List Byte) : Option State :=
  s.modifyAt c task va pa bs.length fun a t => t.putMem a bs

/-- A conflict of a NOTE region logged (R352); a page that does not translate for writing drops the entry. -/
def State.logConflict (s : State) (c : Nat) (r : Region) (n q va val : Nat) : State :=
  if r.merge ≠ 6 || r.nlogn ≤ n then s
  else
    let at_ := r.nlog + 16 * n
    match s.engineAddr c at_ true with
    | none => s
    | some pa => (s.charonWrite c rootTask at_ pa (bytesLE 8 va ++ bytesLE 4 q ++ bytesLE 4 val)).getD s

/-- A child's copy of a granule given up: it is merged, and its page is free (R349). -/
def Ctx.dropGranule (c : Ctx) (q gran : Nat) : Ctx :=
  { c with revs := c.revs.map fun p =>
      if p.1 = q then (p.1, { p.2 with own := p.2.own.del gran, dirty := p.2.dirty.del gran, anc := p.2.anc.put gran 1 }) else p }

/-- An element of a granule as a merge finds it: its address, where the page tables put it, the child's and the ancestor's
value, where they lie, and the structure that a record of an error mark on one of their lines names, 0 for no mark (R349,
R350, R392). -/
structure MergeElem where
  va : Nat
  pa : Nat
  c : Nat
  a : Nat
  cAt : Nat
  aAt : Nat
  code : Nat

/-- The value of an element written in the parent's view, with the mark it keeps; a conflict is counted and logged (R349,
R350, R352). -/
def State.mergeWrite (s : State) (c parent q idx : Nat) (r : Region) (x : MergeElem) (bad : Bool) (v : Nat) (conflict : Bool) : State :=
  match s.charonWrite c parent x.va x.pa (bytesLE (regionSize r.ty) v) with
  | none => s
  | some s1 =>
    let s2 := if bad then { s1 with mem := s1.mem.setMark (s1.locate c parent x.va x.pa / 64) } else s1
    if conflict && r.merge ≠ 5 then
      let n := (s2.d.ctx c).confCount parent idx x.va
      ((s2.logConflict c r n q x.va x.c).mapCtx c fun k => k.bumpCounts parent idx x.va 1 0).mapCtx c fun k =>
        { k with revs := k.revs.map fun p => if p.1 = q then (p.1, { p.2 with count := p.2.count + 1 }) else p }
    else s2

/-- The structure a record names, of two places read: the first that carries a mark. -/
def firstCode (a b : Nat) : Nat := if a = 0 then b else a

/-- One element of a granule merged, in its turn; the parent's value is read only where the child changed the element. With it
go the marked lines met so far, each with its structure (R349, R350, R392). -/
def State.mergeOne (c parent q idx : Nat) (r : Region) (s0 : State × Map Nat) (x : MergeElem) : State × Map Nat :=
  let size := regionSize r.ty
  let met := fun (code : Nat) => if code ≠ 0 && (s0.2.find (x.va / 64)).isNone then s0.2.put (x.va / 64) code else s0.2
  let s := (s0.1.meetMark x.aAt size).meetMark x.cAt size
  let at_ := s.locate c parent x.va x.pa
  match mergeElem r.merge r.ty (s.mem.nat at_ size) x.c x.a with
  | none => (s, met x.code)
  | some (v, conflict) =>
    let code := firstCode x.code (s.mem.errCode at_ size)
    ((s.meetMark at_ size).mergeWrite c parent q idx r x (code != 0) v conflict, met code)

/-- A granule of a region merged (R349): `pa` is where the page tables put it. What the child and its ancestor hold is read
first, since the child's page is given up. -/
def State.mergeGranule (s : State) (c parent q idx gran pa die : Nat) (r : Region) : State :=
  let k := s.d.ctx c
  let va := gran * 4096
  let size := regionSize r.ty
  let rev := k.revs.find q
  let bits := (rev.map fun x => x.dirty.getD gran 0).getD 0
  let cAt := ((rev.bind fun x => x.own.find gran)).getD pa
  let aAt := (k.ancPage va 16 q).getD pa
  let elems := (dirtyElems bits size).map fun o =>
    ({ va := va + o, pa := pa + o, c := s.mem.nat (cAt + o) size, a := s.mem.nat (aAt + o) size, cAt := cAt + o, aAt := aAt + o
       code := firstCode (s.mem.errCode (aAt + o) size) (s.mem.errCode (cAt + o) size) } : MergeElem)
  let m := elems.foldl (State.mergeOne c parent q idx r) (s.mapCtx c fun y => y.dropGranule q gran, [])
  let t := m.2.foldl (fun t l => t.note { FaultRec.engine 0x30 4 c (die * 32) with d0 := BitVec.ofNat 32 l.2, address := l.1 * 64 }) m.1
  t.mapCtx c fun y => y.bumpCounts parent idx va 0 1

/-! ### A join (R349, R351, R354) -/

/-- The granules that a child has written, region by region (R349). -/
def Ctx.mergeJobs (c : Ctx) (q : Nat) : List (Nat × Region × Nat) :=
  match c.revs.find q with
  | none => []
  | some r => r.regions.flatMap fun p => ((r.dirty.filter fun g => g.2 != 0 && p.2.has (g.1 * 4096)).map fun g => (p.1, p.2, g.1))

/-- A merge parked at a granule that does not translate, until a resume (R354). The record's identifier names the child; the spec
gives a parked merge no KIND (DESIGN CHOICE, log entry 16). -/
def State.parkMerge (s : State) (c q die code at_ : Nat) : State :=
  let gen := ((((s.d.ctx c).revs.find q).map Revision.gen).getD 0 + 1) % 64
  (s.note { FaultRec.engine code 1 c (die * 32) with
      parked := true, address := at_, d0 := 1, resid := resid 0 c (die * 32) q gen }).mapCtx c fun k =>
    { k with revs := k.revs.map fun p => if p.1 = q then (p.1, { p.2 with stuck := some at_, gen := gen }) else p }

/-- The granules of a list merged in order, until one does not translate, or lies in memory of the host (R342): then the state with the merge parked there. -/
def State.mergeAll (s : State) (c parent q die : Nat) : List (Nat × Region × Nat) → State × Bool
  | [] => (s, true)
  | (idx, r, g) :: rest =>
    match s.walk c (g * 4096) with
    | none => (s.parkMerge c q die 0x20 (g * 4096), false)
    | some x =>
      if !(x.canRead && x.canWrite) || (s.d.ctx c).hostBarred (g * 4096) x.pa then (s.parkMerge c q die 0x21 (g * 4096), false)
      else (s.mergeGranule c parent q idx g x.pa die r).mergeAll c parent q die rest

/-- The end of a join: the child's revision and task are gone, and its token is sent (R349, R351). -/
def State.endJoin (s : State) (c q : Nat) (k : Child) : State :=
  let total := (((s.d.ctx c).revs.find q).map Revision.count).getD 0
  let s1 := (s.mapCtx c fun x => { x with revs := x.revs.del q }).endTask c q
  let pay := if 0xFFFFFEFF < total then 0xFFFFFEFF else total
  s1.sendTok (tokenTo s.d.devnum k.fr k.cclass 0 { control := true } c k.blk k.tg (BitVec.ofNat 32 pay)) (charonSender (handleCore k.fr / 32)) []

/-- CHARON_MERGE: the Charon of the die of the parent's join frame merges a completed child whose turn has come, and
sends its join token; a page that does not translate parks the merge, which then waits for its resume (R348, R349, R351,
R354). -/
def execCharonMerge (ctx child : Nat) (s : State) : Host.Outcome State Fault Refusal :=
  let c := s.d.ctx ctx
  match c.tasks.find child with
  | none => .next s
  | some t => match t.child with
    | none => .next s
    | some k =>
      if c.state = .free || !c.mayJoin child || s.d.joinBehind ctx child t k || ((c.revs.find child).bind Revision.stuck).isSome then .next s
      else
        let r := s.mergeAll ctx k.parent child (handleCore k.fr / 32) (c.mergeJobs child)
        .next (if r.2 then r.1.endJoin ctx child k else r.1)

end Sys2Proof.Machine
end

