-- ==== Sys2Proof/Machine/Loop.lean ====
section
/-! DEFINITION. Loop nests: `VLOOP` and `VLOOPR`, their iterations, and ACCESS_PERFORMED over operations and nests
(R41, R186-R190, R259). -/

namespace Sys2Proof

/-- The types of the loop control word (R75, R186). -/
def loopTy (code : Nat) : Ty :=
  match code with
  | 0 => .i32
  | 1 => .u32
  | 2 => .i64
  | 3 => .u64
  | 4 => .f32
  | 5 => .f64
  | 6 => .f16
  | _ => .bf16

/-- The rounding codes (R27). -/
def rndOfCode (code : Nat) : Rnd :=
  match code with
  | 0 => .rne
  | 1 => .rtz
  | 2 => .rup
  | 3 => .rdn
  | 4 => .rna
  | 5 => .sr
  | _ => .dyn

namespace Machine

/-- The level fields of a loop word, level 0 first. -/
def fiveList (x : Five) : List (BitVec 12) := [x.l0, x.l1, x.l2, x.l3, x.l4]

/-- Whether a control word is invalid (R186): `reduce` is none for `VLOOP`, else 0 add, 1 minimum, 2 maximum (DEDUCED, log entry 67). -/
def loopCtlBad (cw : Word) (reduce : Option Nat) (st2 : Five) : Bool :=
  let x := cw.toNat
  let op := bitsOf x 3 0
  let rnd := bitsOf x 14 12
  let ty := bitsOf x 11 8
  bitsOf x 31 20 ≠ 0 || bitsOf x 7 4 ≠ 0 || bitsOf x 19 18 = 3 || 7 < ty || rnd = 7 || (ty < 4 && rnd ≠ 0) ||
  (match reduce with
    | none => 6 < op
    | some k => !(op = 0 || (op = 3 && k = 0)) || rnd = 5 || (fiveList st2).any fun z => z ≠ 0)

/-- The nest a loop word starts (R85, R187; DEDUCED, log entry 67). -/
def State.loopOf (s : State) (x : LoopW) (reduce : Option Nat) : LoopOp :=
  let k := 8 * (x.sblk.toNat % 32)
  let sreg := fun j => (s.w.s.getD (k + j) 0).toNat
  { id := 0, uid := s.w.uid, ctx := s.w.ctx, core := s.w.core, task := s.w.task, reduce := reduce
    ext := (fiveList x.ext).map fun e => e.toNat + 1
    strides := [x.st0, x.st1, x.st2].map fun f => (fiveList f).map BitVec.toInt
    bases := [0, 1, 2].map fun j => sreg (2 * j) + 2 ^ 32 * sreg (2 * j + 1)
    control := BitVec.ofNat 32 (sreg 6), filled := s.w.filled, lanes := [], fmode := s.w.fmode, srseed := s.w.srseed
    after := s.memAfter true false, leave := 2, parked := none, written := false, marked := [], detected := 0, tile := s.w.tilecoord, pc := s.w.pc }

/-- The element type of a nest. -/
def LoopOp.ty (o : LoopOp) : Ty := loopTy (bitsOf o.control.toNat 11 8)

/-- The operands a nest reads or writes. -/
def LoopOp.used (o : LoopOp) : List Nat := (o.reads ++ [2]).eraseDups

/-- The iterations of operand `j`: a reduction's result is one element at its base (R189). -/
def LoopOp.span (o : LoopOp) (j n : Nat) : Nat := if o.reduce.isSome && j = 2 then 0 else n

/-- The lowest and highest byte offset of operand `j` from its base. -/
def LoopOp.reach (o : LoopOp) (j : Nat) : Int × Int :=
  if o.reduce.isSome && j = 2 then (0, 0)
  else
    let e := ((o.esize : Nat) : Int)
    ((o.ext.zip (o.strides.getD j [])).foldl (fun (a : Int × Int) p =>
      let d := (((p.1 - 1 : Nat) : Int)) * p.2 * e
      (if d < 0 then a.1 + d else a.1, if d < 0 then a.2 else a.2 + d)) (0, 0))

/-- Whether operand `j` leaves own scratch, or a global one breaks R160, somewhere in the nest. -/
def LoopOp.outside (o : LoopOp) (scratch : Nat) (j : Nat) : Bool :=
  let b := ((o.bases.getD j 0 : Nat) : Int)
  let r := o.reach j
  if o.inScratch j then b + r.1 < 0 || ((scratch : Nat) : Int) < b + r.2 + ((o.esize : Nat) : Int)
  else 2 ^ 57 ≤ wrapInt 64 (b + r.1) || 2 ^ 57 ≤ wrapInt 64 (b + r.2)

/-- The scratch byte offset an operand's checks report: its lowest. -/
def LoopOp.lowOfs (o : LoopOp) (j : Nat) : Word := BitVec.ofInt 32 (((o.bases.getD j 0 : Nat) : Int) + (o.reach j).1)

/-- The lane states at the start: four partials at the identity (R41). -/
def LoopOp.start (o : LoopOp) : LoopOp :=
  { o with lanes := (lanesOf o.filled).map fun l =>
      { lane := l, next := 0, stuck := false, parts := List.replicate 4 (o.ty.identity (o.reduce.getD 0)) } }

/-- A nest in flight, counted in TLC; above 4,096 iterations it asks for leave (R18, R190). -/
def State.startLoop (s : State) (o : LoopOp) : State :=
  let n := s.fresh
  let heavy := 4096 < o.total
  let q := { o.start with id := n.1, leave := if heavy then 1 else 2 }
  let s1 : State := { n.2 with d := { n.2.d with loops := n.2.d.loops ++ [q] } }
  let s2 := s1.mapWarp fun w => w.countUp .tl
  if heavy then s2.askLeave 1 o.ctx o.core n.1 1 else s2

/-- A loop word: its checks in the order of R186 and R187, then the nest. -/
def State.loopStep (s : State) (i : Instr) (x : LoopW) (reduce : Option Nat) : State :=
  let o := s.loopOf x reduce
  let scratch := (s.d.ctx s.w.ctx).scratchBytes
  s.counted .tl
    (if loopCtlBad o.control reduce x.st2 then s.raiseAll 0x05
    else match o.used.find? fun j => o.inScratch j && o.outside scratch j with
    | some j => s.raiseAll 0x0A (o.lowOfs j)
    | none =>
      if o.bases.any fun b => b % o.esize ≠ 0 then s.raiseAll 0x07
      else if o.used.any fun j => !o.inScratch j && o.outside scratch j then s.raiseAll 0x0D
      else (s.startLoop o).advance i)

/-- `VLOOP` (R188). -/
def execVloop (x : LoopW) (s : State) : Host.Outcome State Fault Refusal :=
  s.checked (.vloop x) fun t => t.loopStep (.vloop x) x none

/-- `VLOOPR.ADD` (R189). -/
def execVlooprAdd (x : LoopW) (s : State) : Host.Outcome State Fault Refusal :=
  s.checked (.vlooprAdd x) fun t => t.loopStep (.vlooprAdd x) x (some 0)

/-- `VLOOPR.MIN` (R189). -/
def execVlooprMin (x : LoopW) (s : State) : Host.Outcome State Fault Refusal :=
  s.checked (.vlooprMin x) fun t => t.loopStep (.vlooprMin x) x (some 1)

/-- `VLOOPR.MAX` (R189). -/
def execVlooprMax (x : LoopW) (s : State) : Host.Outcome State Fault Refusal :=
  s.checked (.vlooprMax x) fun t => t.loopStep (.vlooprMax x) x (some 2)

/-! ### Iterations (R187-R190) -/

/-- A nest replaced. -/
def State.setLoop (s : State) (o : LoopOp) : State :=
  { s with d := { s.d with loops := s.d.loops.map fun q => if q.id = o.id then o else q } }

/-- The fault an operand's access meets at an iteration: code, address and DETAIL0. -/
def State.loopFault (s : State) (o : LoopOp) (j n kind : Nat) : Option (Nat × Nat × Nat) :=
  if o.inScratch j then none
  else
    let va := o.addr j (o.span j n)
    (s.accessFault o.ctx o.task va kind (s.hit o.core o.ctx (.virt va) 0)).map fun e => (e.1, va, e.2)

/-- The place of an operand at an iteration. -/
def State.operandPlace (s : State) (o : LoopOp) (j n : Nat) : Place := (s.loopPlace o j (o.span j n)).getD (.phys 0)

/-- Whether an access of a lane's nest must wait: its fences, an earlier access of the lane to the location, or the
second half of another read and write (R175, R259, R269). -/
def State.loopBehind (s : State) (o : LoopOp) (l : Nat) (at_ : Place) : Bool :=
  !(o.after.all fun d => (d.lane < 32 && d.lane ≠ l) || s.depDone d) ||
  s.d.ops.any (fun q => q.pieces.any fun r =>
    (((q.uid = o.uid && q.id < o.id) && (r.lane = l || r.act.isWide)) || r.act.isEnd) &&
    (s.placeOf q r).meets r.size at_ o.esize) ||
  s.d.loops.any fun q => q.uid = o.uid && q.id < o.id && s.loopMeets q l at_ o.esize

/-- A nest parked by a lane's fault (R190, R335). A lane that meets its fault while another's is parked stops there without a
record of its own. -/
def State.parkLoop (s : State) (o0 : LoopOp) (l code va d0 : Nat) : State :=
  let o := { o0 with lanes := o0.lanes.map fun x => if x.lane = l then { x with stuck := true } else x }
  if o.parked.isSome then s.setLoop o
  else match s.parkFlight o.uid o.id o.pc o.tile (maskOf fun k => k = l) code va d0 with
  | none => s
  | some (idx, t) => t.setLoop { o with parked := some idx }

/-- The elements an iteration reads, lowest operand first. -/
structure LoopRead where
  state : State
  vals : Map Nat
  bad : Bool
  /-- The address of the first element that an error marked, and the structure its record names. -/
  err : Option (Nat × Nat)

/-- Whether the core's L1 may serve a nest's read of an operand: policy `.CA`, on a page that allows it (R186, R267). -/
def State.loopCaches (s : State) (o : LoopOp) (j n : Nat) : Bool :=
  !o.inScratch j && bitsOf o.control.toNat 19 18 = 1 &&
  (match s.hit o.core o.ctx (.virt (o.addr j (o.span j n))) 0 with
    | some h => !h.nol1
    | none => false)

/-- One operand read. -/
def LoopRead.one (o : LoopOp) (n : Nat) (x : LoopRead) (j : Nat) : LoopRead :=
  let at_ := x.state.operandPlace o j n
  let g := x.state.readPlace o.ctx o.core (x.state.loopCaches o j n) at_ o.esize
  { state := if g.bad then g.state.meetPlace at_ o.esize else g.state
    vals := x.vals.put j g.val, bad := x.bad || g.bad
    err := if g.code = 0 then x.err else some (x.err.getD (o.addr j n, g.code)) }

/-- The result of an iteration of `VLOOP` (R188): element bits. -/
def LoopOp.compute (o : LoopOp) (q : Word) (v : Nat → Nat) : Nat :=
  let t := o.ty
  let a := v 0
  let b := v 1
  let d := v 2
  let daz := fmodeDaz o.fmode
  let ftz := fmodeFtz o.fmode
  if t.fltAll then
    let mode := rndOf o.fmode (rndOfCode (bitsOf o.control.toNat 14 12))
    let x := t.ffmt.read daz a
    let y := t.ffmt.read daz b
    match o.op with
    | 0 => t.ffmt.roundFV mode ftz q x
    | 1 => t.ffmt.roundFV mode ftz q (x.add mode y)
    | 2 => t.ffmt.roundFV mode ftz q (x.add mode y.negate)
    | 3 => t.ffmt.roundFV mode ftz q (x.mul y)
    | 4 => t.ffmt.pick false false daz ftz a b
    | 5 => t.ffmt.pick true false daz ftz a b
    | _ => t.ffmt.roundFV mode ftz q ((x.mul y).add mode (t.ffmt.read daz d))
  else
    let x := t.int a
    let y := t.int b
    wrapInt t.width (match o.op with
      | 0 => x
      | 1 => x + y
      | 2 => x - y
      | 3 => x * y
      | 4 => if y < x then y else x
      | 5 => if x < y then y else x
      | _ => x * y + t.int d)

/-- The rounding of a reduction (R186, R189). -/
def LoopOp.redMode (o : LoopOp) : Rnd := foldRnd o.fmode (rndOfCode (bitsOf o.control.toNat 14 12))

/-- One step of a reduction's combination (R41, R189). -/
def LoopOp.combine (o : LoopOp) (a b : Nat) : Nat :=
  o.ty.combine (o.reduce.getD 0) o.redMode (fmodeDaz o.fmode) (fmodeFtz o.fmode) 0 a b

/-- A partial with an iteration's term combined into it (R189). -/
def LoopOp.accumulate (o : LoopOp) (p : Nat) (v : Nat → Nat) : Nat :=
  let t := o.ty
  if o.op = 3 then
    (if t.fltAll then
      let daz := fmodeDaz o.fmode
      let prod := (t.ffmt.read daz (v 0)).mul (t.ffmt.read daz (v 1))
      t.ffmt.roundFV o.redMode (fmodeFtz o.fmode) 0 ((t.ffmt.read daz p).add o.redMode prod)
    else wrapInt t.width (t.int p + t.int (v 0) * t.int (v 1)))
  else o.combine p (v 0)

/-- The element that stands for one read from a line with an error mark (R188): the result of `VLOOP`, and every source
of the term of a reduction, which R189 leaves open (DEDUCED, log entry 85). -/
def LoopOp.spoiled (o : LoopOp) : Nat := if o.ty.fltAll then o.ty.ffmt.nanBits else 0

/-- A lane's state in a nest replaced. -/
def LoopOp.setLane (o : LoopOp) (x : LoopLane) : LoopOp :=
  { o with lanes := o.lanes.map fun y => if y.lane = x.lane then x else y }

/-- Whether every iteration of a nest has been performed. -/
def LoopOp.ended (o : LoopOp) : Bool := o.lanes.all fun x => o.share x.lane ≤ x.next

/-- The record of a nest's lanes that read marked elements (R392). -/
def State.loopRecord (s : State) (o : LoopOp) : State :=
  match o.marked, s.warp o.uid with
  | _ :: _, some w =>
    let lanes := maskOf fun k => (o.marked.find k).isSome
    s.noteOp o.uid o.id { w.faultRec 0x30 4 lanes with
      codeofs := o.pc, tilecoord := o.tile, address := o.marked.getD (lowLane lanes) 0
      d0 := BitVec.ofNat 32 o.detected }
  | _, _ => s

/-- A nest that is done: TLC falls and its leave is returned (R190, R405). -/
def State.finishLoop (s : State) (o : LoopOp) : State :=
  let s1 : State := { s with d := { s.d with loops := s.d.loops.filter fun q => q.id ≠ o.id } }
  let s2 := s1.mapUid o.uid fun w => w.countDown .tl
  let s3 := if 4096 < o.total then s2.returnLeave o.core 1 else s2
  (s3.loopRecord o).freeEnded o.uid

/-- An element written at operand 2 (R43, R188); none while a page for it is lacking. -/
def State.loopWrite (s : State) (o : LoopOp) (n val : Nat) (mark : Bool) : Option State :=
  if o.inScratch 2 then
    some (s.mapShare o.ctx o.core fun x => x.putCore ((s.d.ctx o.ctx).scratchAt + o.addr 2 (o.span 2 n)) mark (bytesLE o.esize val))
  else
    let va := o.addr 2 (o.span 2 n)
    match s.hit o.core o.ctx (.virt va) 0 with
    | some h => s.writeAt o.ctx o.core o.task va h.pa (bytesLE o.esize val)
    | none => none

/-- The poison an iteration leaves on its lane: a marked source, or a NaN result under FMODE.NANP (R42, R188). -/
def LoopOp.poisons (o : LoopOp) (bad : Bool) (val : Nat) : Bool :=
  bad || (fmodeNanp o.fmode && o.ty.fltAll && o.ty.ffmt.isNaN val)

/-- The reads of a lane's iteration, and the first fault they meet. -/
def State.loopReads (s : State) (o : LoopOp) (n : Nat) : LoopRead :=
  o.reads.foldl (LoopRead.one o n) { state := s, vals := [], bad := false, err := none }

/-- The first fault among an iteration's accesses (DEDUCED, log entry 70). -/
def State.iterFault (s : State) (o : LoopOp) (n : Nat) : Option (Nat × Nat × Nat) :=
  match o.reads.findSome? fun j => s.loopFault o j n 0 with
  | some e => some e
  | none => if o.reduce.isSome then none else s.loopFault o 2 n 1

/-- One iteration of a lane (R188, R189). -/
def State.iterate (s : State) (o : LoopOp) (x : LoopLane) : State :=
  let l := x.lane
  let n := o.iter l x.next
  match s.iterFault o n with
  | some e => s.parkLoop o l e.1 e.2.1 e.2.2
  | none =>
    if o.touches.any fun j => s.loopBehind o l (s.operandPlace o j n) then s
    else
      let r := s.loopReads o n
      let lane := maskOf fun k => k = l
      let o1 := match r.err with
        | some (va, code) => { o with
            marked := if (o.marked.find l).isSome then o.marked else o.marked.put l va
            detected := if o.detected = 0 then code else o.detected }
        | none => o
      let v := fun j => if r.err.isSome then o.spoiled else r.vals.getD j 0
      let next := { x with next := x.next + 1 }
      if o.reduce.isSome then
        let p := o.accumulate (x.parts.getD (x.next % 4) 0) v
        let s1 := if r.bad then r.state.mapUid o.uid fun w => w.poison lane else r.state
        s1.setLoop (o1.setLane { next with parts := x.parts.set (x.next % 4) p })
      else
        let tag := ((s.warp o.uid).map fun w => w.tag.getD l 0).getD 0
        let val := if r.err.isSome then o.spoiled else o.compute (srQ o.srseed tag l n) v
        let s1 := if o.poisons r.bad val then r.state.mapUid o.uid fun w => w.poison lane else r.state
        let mark := ((s1.warp o.uid).map fun w => w.poisoned.getLsbD l).getD false
        match s1.loopWrite o n val mark with
        | none => s
        | some t =>
          let o2 := o1.setLane next
          if o2.ended then t.finishLoop o2 else t.setLoop o2

/-- The value of a reduction: each lane's partials, then the tree of R152 (R41, R189). -/
def LoopOp.result (o : LoopOp) : Nat :=
  let lane := fun l => match o.lanes.find? fun x => x.lane = l with
    | some x => o.combine (o.combine (x.parts.getD 0 0) (x.parts.getD 1 0)) (o.combine (x.parts.getD 2 0) (x.parts.getD 3 0))
    | none => o.ty.identity (o.reduce.getD 0)
  laneTree o.combine lane

/-- The result of a reduction written once; poison reaches every filled lane (R189). -/
def State.loopResult (s : State) (o : LoopOp) : State :=
  match s.loopFault o 2 0 1 with
  | some e => s.parkLoop o (lowLane o.filled) e.1 e.2.1 e.2.2
  | none =>
    if s.loopBehind o (lowLane o.filled) (s.operandPlace o 2 0) then s
    else
      let val := o.result
      let had := ((s.warp o.uid).map fun w => w.poisoned != 0).getD false
      let bad := o.poisons had val
      let s1 := if bad then s.mapUid o.uid fun w => w.poison w.filled else s
      match s1.loopWrite o 0 val bad with
      | none => s
      | some t => t.finishLoop o

/-- Whether a later memory word of the nest's warp is in flight, which may wait for the nest and is performed before a cut
(R55). -/
def State.loopNeeded (s : State) (o : LoopOp) : Bool :=
  s.d.ops.any fun q => q.uid = o.uid && o.id < q.id && q.parked.isNone && q.pieces.any Piece.ok

/-- Whether a nest runs: its context does, or has halted with words in flight behind the nest (R55, R325; DEDUCED, log entry
106). -/
def State.loopRuns (s : State) (o : LoopOp) : Bool :=
  let x := s.d.share o.ctx o.core
  s.mayRun o.ctx o.core ||
    (x.halted && !x.saved && !(s.d.core o.core).offline && (s.d.ctx o.ctx).state != .ending && s.loopNeeded o)

/-- A step of a nest: lane `l`'s next iteration, or the result once every lane has ended (R190). -/
def State.performLoop (s : State) (o : LoopOp) (l : Nat) : State :=
  if o.leave ≠ 2 || !s.loopRuns o then s
  else match o.lanes.find? fun x => x.lane = l with
  | none => s
  | some x =>
    if x.next < o.share l then (if x.stuck then s else s.iterate o x)
    else if o.reduce.isSome && o.ended && o.parked.isNone then s.loopResult o
    else s

/-- A step of a nest whose read of operand 0 meets a soft error first (R392). -/
def State.loopStruck (s : State) (o : LoopOp) (l : Nat) (u : Upset) : State :=
  if u = .none || s.performLoop o l = s then s.performLoop o l
  else
    let next := ((o.lanes.find? fun x => x.lane = l).map LoopLane.next).getD 0
    (s.meetUpset o.ctx o.core (s.operandPlace o 0 (o.iter l next)) true u).performLoop o l

/-! ### ACCESS_PERFORMED (R259) -/

/-- ACCESS_PERFORMED: piece `piece` of an operation, or the next iteration of lane `piece` of a nest, is performed at
its coherence point; an error it meets comes first (R392). One that meets a fault parks its word (R342, R346). -/
def execAccessPerformed (op piece : Nat) (upset : Upset) (s : State) : Host.Outcome State Fault Refusal :=
  match s.op op with
  | some o => match o.pieces[piece]? with
    | none => .next s
    | some p =>
      if (s.performPiece o piece p).isNone then .next (s.lateFault o piece p)
      else
        let s1 := s.meetUpset o.ctx o.core (s.placeOf o p) p.act.isLoad upset
        .next ((s1.performPiece o piece p).getD s1)
  | none => match s.d.loops.find? fun o => o.id = op with
    | some o => .next (s.loopStruck o piece upset)
    | none => .next s

end Machine

end Sys2Proof
end

