-- ==== Sys2Proof/Machine/System.lean ====
section
/-! DEFINITION. Region and system words: `RDEF`, `RSTAT`, `CSRR`, `CSRW`, `SRET`, `RESUMEQ`, `PERFRD`; the resume port;
and records that waited for room in their ring (R59, R60, R216, R217, R220, R222-R224, R336, R337, R387). -/

namespace Sys2Proof.Machine

/-! ### Regions (R216, R217, R341) -/

/-- An entry of the region table removed, with its counts (R216, R352). -/
def Ctx.undefine (c : Ctx) (idx : Nat) : Ctx :=
  { c with regions := c.regions.del idx, rootConf := c.rootConf.del idx, rootGran := c.rootGran.del idx }

/-- Whether a removal breaks R216 or R341: a revision holds the index or the range. -/
def Ctx.clearBad (c : Ctx) (idx : Nat) : Bool :=
  63 < idx || (match c.regions.find idx with
    | some r => c.heldBy idx r.base r.len
    | none => c.heldBy idx 0 0)

/-- `RDEF` (R216): a definition, or under `.CLR` its removal. -/
def State.rdefStep (s : State) (x : SysC) : State :=
  let c := s.d.ctx s.w.ctx
  let idx := (s.w.read32 x.c 0 2).toNat
  let fault := s.raiseAll 0x17 (BitVec.ofNat 32 idx)
  if x.fn.getLsbD 0 then
    (if c.clearBad idx then fault else (s.mapCtx s.w.ctx fun k => k.undefine idx).advance (.rdef x))
  else
    let r : Region :=
      { base := s.w.sPair x.a, len := (s.w.read32 x.b 0 1).toNat, ty := x.mod.toNat % 16, merge := x.mod.toNat / 16, nlog := 0, nlogn := 0 }
    if c.regionBad idx r.base r.len then fault else (s.mapCtx s.w.ctx fun k => k.define idx r).advance (.rdef x)

/-- `RDEF` (R216). -/
def execRdef (x : SysC) (s : State) : Host.Outcome State Fault Refusal := s.checked (.rdef x) fun t => t.rdefStep x

/-- The counts of a task's revision of a region: conflicts and merged granules (R217, R352). -/
def Ctx.regionCounts (c : Ctx) (task idx : Nat) : Nat × Nat :=
  if (c.regions.find idx).isNone then (0, 0)
  else
    let root := (c.rootConf.getD idx 0, c.rootGran.getD idx 0)
    match c.revs.find task with
    | some r => if (r.regions.find idx).isSome then (r.conflicts.getD idx 0, r.granules.getD idx 0) else root
    | none => root

/-- Whether a word that acts once per warp is on: some lane of it is active (R52). -/
def Warp.anyOn (w : Warp) (g : Guard) : Bool := w.active g != 0

/-- `RSTAT` (R217). -/
def execRstat (x : SysW) (s : State) : Host.Outcome State Fault Refusal :=
  s.checked (.rstat x) fun t =>
    if !t.w.anyOn x.g then t.advance (.rstat x)
    else
      let k := (t.d.ctx t.w.ctx).regionCounts t.w.task (t.w.read32 x.a 0).toNat
      (t.mapWarp fun w => w.putSpec x.d 0 (BitVec.ofNat 32 (if x.fn = 0 then k.1 else k.2))).advance (.rstat x)

/-! ### Context control and status registers (R59, R60, R220) -/

/-- The value a register number reads as for the issuing warp; none for a number the table lacks (R59). -/
def State.csrValue (s : State) (n : Nat) : Option Word :=
  let c := s.d.ctx s.w.ctx
  match n with
  | 0x000 => some s.w.fmode
  | 0x001 => some s.w.srseed
  | 0x010 => some s.w.tilecoord
  | 0x020 => some (BitVec.ofNat 32 ((if c.det then 1 else 0) + c.mode % 4 * 2))
  | 0x021 => some (BitVec.ofNat 32 c.recptr)
  | 0x022 => some (BitVec.ofNat 32 (c.recptr / 2 ^ 32 % 2 ^ 25))
  | 0x030 => some (BitVec.ofNat 32 (c.prio % 8))
  | _ => if 8 ≤ n && n ≤ 15 then some (s.fdWord (n - 8)) else none

/-- `CSRR` (R220). -/
def execCsrr (x : SysJ) (s : State) : Host.Outcome State Fault Refusal :=
  s.checked (.csrr x) fun t =>
    match t.csrValue x.imm.toNat with
    | none => t.raiseAll 0x01
    | some v => (t.mapWarp fun w => w.putSpec x.d 0 v).advance (.csrr x)

/-- The fault of a `CSRW`, with its DETAIL0, or none (R31, R60). -/
def csrwFault (sup : Bool) (n : Nat) (v : Word) : Option (Nat × Word) :=
  if n = 0 || n = 1 || n = 0x10 then none
  else if 8 ≤ n && n ≤ 15 then (if fdValid v then none else some (0x06, BitVec.ofNat 32 (n - 8)))
  else if n = 0x20 then some (if sup then 0x01 else 0x04, 0)
  else if n = 0x21 || n = 0x22 || n = 0x30 then (if sup then none else some (0x04, 0))
  else some (0x01, 0)

/-- The registers of a context after a `CSRW` to its value (R59, R60). -/
def Ctx.putCsr (c : Ctx) (n : Nat) (v : Word) : Ctx :=
  match n with
  | 0x000 => { c with fmode := fmodeStore v }
  | 0x001 => { c with srseed := v }
  | 0x021 => { c with recptr := c.recptr / 2 ^ 32 * 2 ^ 32 + v.toNat }
  | 0x022 => { c with recptr := c.recptr % 2 ^ 32 + v.toNat % 2 ^ 25 * 2 ^ 32 }
  | 0x030 => { c with prio := v.toNat % 8 }
  | _ => if 8 ≤ n && n ≤ 15 then { c with fd := c.fd.put (n - 8) v } else c

/-- The issuing warp's copies after a `CSRW` (R26, R59). -/
def Warp.putCsr (w : Warp) (n : Nat) (v : Word) : Warp :=
  match n with
  | 0x000 => { w with fmode := fmodeStore v }
  | 0x001 => { w with srseed := v }
  | 0x010 => { w with tilecoord := v }
  | _ => w

/-- `CSRW` (R220). -/
def execCsrw (x : SysJ) (s : State) : Host.Outcome State Fault Refusal :=
  s.checked (.csrw x) fun t =>
    let v := t.w.read32 x.a 0
    let n := x.imm.toNat
    match csrwFault t.isSupervisor n v with
    | some e => t.raiseAll e.1 e.2
    | none => ((t.mapCtx t.w.ctx fun c => c.putCsr n v).mapWarp fun w => w.putCsr n v).advance (.csrw x)

/-! ### Resuming (R336, R337) -/

/-- KIND of a resume identifier. -/
def ridKind (id : Word) : Nat := bitsOf id.toNat 31 29
/-- CONTEXT of a resume identifier. -/
def ridCtx (id : Word) : Nat := bitsOf id.toNat 28 23
/-- The global core of a resume identifier. -/
def ridCore (id : Word) : Nat := bitsOf id.toNat 22 20 * 32 + bitsOf id.toNat 19 15
/-- INDEX of a resume identifier. -/
def ridIdx (id : Word) : Nat := bitsOf id.toNat 14 6
/-- GEN of a resume identifier. -/
def ridGen (id : Word) : Nat := bitsOf id.toNat 5 0

/-- Whether a loop nest of a warp is parked under an entry. -/
def Dev.loopParked (d : Dev) (uid idx : Nat) : Bool := d.loops.any fun o => o.uid = uid && o.parked == some idx

/-- The other word of a warp that parked under an entry after its issue. -/
def Dev.opParked (d : Dev) (uid idx : Nat) : Option MemOp := d.ops.find? fun o => o.uid = uid && o.parked == some idx

/-- A nest that goes on in every lane (R190, R337). -/
def LoopOp.unparked (o : LoopOp) : LoopOp := { o with parked := none, lanes := o.lanes.map fun x => { x with stuck := false } }

/-- Whether something is parked under an entry: its warp, one of the warp's words that has issued, a copy queue or the engine. -/
def State.isParked (s : State) (c g kind idx : Nat) (p : Park) : Bool :=
  let x := s.d.share c g
  match kind with
  | 4 => (match (if idx = 0 then x.copyA else x.copyB) with
    | some k => k.parked.isSome
    | none => false)
  | 5 => x.mx.issued.any fun m => m.parked.isSome
  | _ => (match s.warp p.uid with
    | some w => w.status == .parked idx
    | none => false) || s.d.loopParked p.uid idx || (s.d.opParked p.uid idx).isSome

/-- The entry that an identifier names and that has not been resumed yet; none where it names nothing parked or is
stale (R337; DEDUCED, log entry 28). -/
def State.parkNamed (s : State) (id : Word) : Option Park :=
  let c := ridCtx id
  let g := ridCore id
  let kind := ridKind id
  if kind = 0 || 6 ≤ kind || (s.d.ctx c).state = .free || (s.d.ctx c).state = .ending then none
  else match (s.d.share c g).park.find (parkKey kind (ridIdx id)) with
    | none => none
    | some p =>
      if p.used && p.kind = kind && p.gen = ridGen id && p.held.isNone && s.isParked c g kind (ridIdx id) p then some p else none

/-- What a resume does to the party that an entry parks (R337). -/
def State.unpark (s : State) (c g kind idx : Nat) (val : Word) (p : Park) : State :=
  let s1 := s.mapShare c g fun x => x.dropPark kind idx
  match kind with
  | 1 =>
    if s1.d.loopParked p.uid idx then
      { s1 with d := { s1.d with loops := s1.d.loops.map fun o => if o.uid = p.uid && o.parked == some idx then o.unparked else o } }
    else match s1.d.opParked p.uid idx with
      | some o => s1.replayOp o
      | none => s1.replay p.uid
  | 2 => s1.mapUid p.uid fun w => { w with status := .running }
  | 3 => s1.mapUid p.uid fun w => { w.putS p.sd val with status := .running }
  | 4 => s1.mapShare c g fun x =>
    if idx = 0 then { x with copyA := x.copyA.map fun k => { k with parked := none } }
    else { x with copyB := x.copyB.map fun k => { k with parked := none } }
  | _ => s1.mapShare c g fun x => { x with mx := { x.mx with issued := x.mx.issued.map fun m => { m with parked := none } } }

/-- A resume of the entry that an identifier names: at once, or held in the park table of a share that is halted or
saved (R337; DEDUCED, log entry 28). -/
def State.resumeNamed (s : State) (id val : Word) (p : Park) : State :=
  let c := ridCtx id
  let g := ridCore id
  let kind := ridKind id
  if (s.d.share c g).saved || (s.d.share c g).halted then
    s.mapShare c g fun x => { x with park := x.park.put (parkKey kind (ridIdx id)) { p with held := some (val ++ id) } }
  else s.unpark c g kind (ridIdx id) val p

/-- The resume of a parked merge that an identifier names by its child: the spec gives a merge no KIND, and the model takes
KIND 0 (R354, R384; DESIGN CHOICE, log entry 16). -/
def State.resumeMerge (s : State) (id : Word) : Option State :=
  let c := ridCtx id
  match (s.d.ctx c).revs.find (ridIdx id) with
  | none => none
  | some r =>
    if r.stuck.isSome && r.gen = ridGen id && (s.d.ctx c).state != .free && (s.d.ctx c).state != .ending then
      some (s.mapCtx c fun k => { k with revs := k.revs.map fun p => if p.1 = ridIdx id then (p.1, { p.2 with stuck := none }) else p })
    else none

/-- The resume of what an identifier names; none where it names nothing parked or is stale (R337). -/
def State.resumeTo (s : State) (id val : Word) : Option State :=
  if ridKind id = 0 then s.resumeMerge id else (s.parkNamed id).map (s.resumeNamed id val)

/-- An identifier ignored, counted in a context (R337). -/
def State.countIgnored (s : State) (c : Nat) : State := s.mapCtx c fun x => { x with igncnt := satNat 32 (x.igncnt + 1) }

/-- RESUME: a host write to a context's RESUME register (R311, R337). -/
def execResume (ctx : Nat) (val : BitVec 64) (s : State) : Host.Outcome State Fault Refusal :=
  if s.d.hostDown || 64 ≤ ctx then .next s else
  let id : Word := val.setWidth 32
  match (if ridCtx id = ctx then s.resumeTo id ((val >>> 32).setWidth 32) else none) with
  | some t => .next t
  | none => .next (s.countIgnored ctx)

/-- The supervisor warp's resume of an identifier, once its earlier writes are performed: a release (R222, R223, R337). -/
def State.supResume (s : State) (i : Instr) (on : Bool) (id val : Word) (ok : Bool) : State :=
  if !on then s.advance i
  else if !s.depsDone (s.writesOf s.w.uid) then s
  else
    let t := s.advance i
    match (if ok then t.resumeTo id val else none) with
    | some u => u.focus t.w.uid
    | none => t.countIgnored t.w.ctx

/-- `SRET` (R222): serves only identifiers of KIND 3. -/
def execSret (x : SysW) (s : State) : Host.Outcome State Fault Refusal :=
  s.checked (.sret x) fun t =>
    let id := t.w.read32 x.a 0
    t.supResume (.sret x) (t.w.anyOn x.g) id (t.w.read32 x.b 0 1) (ridKind id = 3)

/-- `RESUMEQ` (R223): serves every kind but 3. -/
def execResumeq (x : SysW) (s : State) : Host.Outcome State Fault Refusal :=
  s.checked (.resumeq x) fun t =>
    let id := t.w.read32 x.a 0
    t.supResume (.resumeq x) (t.w.anyOn x.g) id 0 (ridKind id ≠ 3)

/-! ### Event counters (R224, R415-R417) -/

/-- Whether a source code counts something: of a core, or of an L2 slice (R416). -/
def countsSource (core : Bool) (code : Nat) : Bool := 0 < code && code ≤ (if core then 11 else 7)

/-- A counter read: a counting one holds a free value by then (R1, R415; DESIGN CHOICE, log entry 17). -/
def State.readCounter (s : State) (g i : Nat) : Nat × State :=
  let v := (Config.counterValue s.d.free).toNat
  if i < 8 then
    (if countsSource true ((s.d.core g).selections.getD i 0) then
      (v, s.tick.mapCore g fun x => { x with counters := x.counters.put i v })
    else ((s.d.core g).counters.getD i 0, s))
  else if i < 12 then
    (if countsSource false ((s.d.die (g / 32)).selections.getD (i - 8) 0) then
      (v, s.tick.mapDie (g / 32) fun x => { x with counters := x.counters.put (i - 8) v })
    else ((s.d.die (g / 32)).counters.getD (i - 8) 0, s))
  else (0, s)

/-- `PERFRD` (R224). -/
def execPerfrd (x : SysW) (s : State) : Host.Outcome State Fault Refusal :=
  s.checked (.perfrd x) fun t =>
    if !t.w.anyOn x.g then t.advance (.perfrd x)
    else
      let r := t.readCounter t.w.core (t.w.read32 x.a 0).toNat
      (r.2.mapWarp fun w => Warp.putWide 2 w x.d 0 r.1).advance (.perfrd x)

/-- EVENT_SELECTION_WRITE: a counter's source is selected, which clears the counter (R415, R417). `off` is the offset in
BAR0. -/
def execEventSelectionWrite (off : Nat) (val : Word) (s : State) : Host.Outcome State Fault Refusal :=
  if s.d.hostDown then .next s else
  let code := val.toNat % 256
  if off % 4 ≠ 0 then .next s
  else if 0x10000 ≤ off && off < 0x12000 then
    let k := (off - 0x10000) / 4
    .next (s.mapCore (k / 8) fun x => { x with selections := x.selections.put (k % 8) code, counters := x.counters.put (k % 8) 0 })
  else if 0x12000 ≤ off && off < 0x12080 then
    let k := (off - 0x12000) / 4
    .next (s.mapDie (k / 4) fun x => { x with selections := x.selections.put (k % 4) code, counters := x.counters.put (k % 4) 0 })
  else .next s

/-! ### Records that waited (R387) -/

/-- The warp that waited for its record: it parks, or ends (R385, R387). -/
def State.ringServed (s : State) (r : FaultRec) (uid : Option Nat) : State :=
  match uid with
  | none => s
  | some u => match s.warp u with
    | none => s
    | some w =>
      if w.status != .ringWait then s
      else if r.parked then s.mapUid u fun v => { v with status := .parked (ridIdx r.resid) }
      else (s.focus u).endWarp

/-- Whether a waiting record's writer is on a core now: a warp, queue or engine that has been saved waits for its restore
(R326, R399). -/
def State.writerHere (s : State) (k : WaitRec) : Bool :=
  (!k.unit || !(s.d.share k.body.ctx k.body.core).saved) &&
  (match k.uid with
  | none => true
  | some u => match s.warp u with
    | some w => !(s.d.share w.ctx w.core).saved
    | none => true)

/-- Whether the `i`-th waiting record of a list may be written: its writer is there, the operations before it have ended,
and its warp has none of an earlier word (R251). -/
def State.recordTurn (s : State) (ws : List WaitRec) (i : Nat) (k : WaitRec) : Bool :=
  s.writerHere k && s.turnCome k && ws.zipIdx.all fun x => k.uid.isNone || x.1.uid ≠ k.uid || decide (k.seq < x.1.seq) || (x.1.seq = k.seq && decide (i ≤ x.2))

/-- The first waiting record of a context whose turn has come written, or dropped where the ring is full and its code is one
that is dropped (R387); and whether one was. -/
def State.serveRecord (s : State) (ctx : Nat) : State × Bool :=
  let ws := (s.d.ctx ctx).waiting
  match ws.zipIdx.find? fun k => s.recordTurn ws k.2 k.1 with
  | none => (s, false)
  | some (k, i) =>
    let o := s.writeRec k.body
    match o.2 with
    | .waits => (o.1, false)
    | _ =>
      let t := o.1.mapCtx ctx fun c => { c with waiting := c.waiting.eraseIdx i }
      (if k.holds then t.ringServed k.body k.uid else t, true)

/-- Waiting records of a context written as long as there is one, `fuel` at most. -/
def State.serveRecords (s : State) (ctx : Nat) : Nat → State
  | 0 => s
  | fuel + 1 =>
    let x := s.serveRecord ctx
    if x.2 then x.1.serveRecords ctx fuel else x.1

/-- FAULT_RING_ROOM: a waiting record goes into its ring (R387). -/
def execFaultRingRoom (ctx : Nat) (s : State) : Host.Outcome State Fault Refusal := .next (s.serveRecord ctx).1

end Sys2Proof.Machine
end

