-- ==== Sys2Proof/Machine/Sched.lean ====
section
/-! DEFINITION. Slot choice, pre-emption, the image of a share and its restore (R18, R208, R315, R323-R329, R337, R405). -/

namespace Sys2Proof.Machine

/-! ### Waiters and holders (R323) -/

/-- The clocks of a context's quantum (R313). -/
def Ctx.quantum (c : Ctx) : Nat := c.quant * 1024

/-- Whether a context is a waiter on a core (R323, R324). -/
def State.isWaiter (s : State) (c g : Nat) : Bool :=
  s.d.waitsFor c g || (s.mayRun c g && (s.d.share c g).holds && s.engineWaits c g)

/-- A waiter's effective priority (R323; DEDUCED, log entry 23). -/
def Dev.effPrio (d : Dev) (c g : Nat) : Nat := (d.ctx c).prio + Nat.min (d.share c g).waitQuanta 8

/-- Whether waiter `a` comes before waiter `b`: higher effective priority, then the longer wait, then the lower number. -/
def Dev.waitsBefore (d : Dev) (g a b : Nat) : Bool :=
  let pa := d.effPrio a g
  let pb := d.effPrio b g
  let wa := (d.share a g).waitSince
  let wb := (d.share b g).waitSince
  pb < pa || (pa = pb && (wa < wb || (wa = wb && a ≤ b)))

/-- The waiter chosen on a core (R323). -/
def State.chosenWaiter (s : State) (g : Nat) : Option Nat :=
  ((List.range 64).filter fun c => s.isWaiter c g).foldl (fun b c => match b with
    | none => some c
    | some x => if s.d.waitsBefore g x c then some x else some c) none

/-- Whether holder `a` goes before holder `b`: lower priority, then the longer hold, then the lower number. -/
def Dev.yieldsBefore (d : Dev) (g a b : Nat) : Bool :=
  let pa := (d.ctx a).prio
  let pb := (d.ctx b).prio
  let wa := (d.share a g).slotSince
  let wb := (d.share b g).slotSince
  pa < pb || (pa = pb && (wa < wb || (wa = wb && a ≤ b)))

/-- The holder that a waiter may pre-empt: the first of all the others, whatever it waits for (R323; DEDUCED, log entry
23). -/
def State.victim (s : State) (c g : Nat) : Option Nat :=
  (((s.d.holders g).map fun p => p.1 / 256).filter fun h => h ≠ c).foldl (fun b h => match b with
    | none => some h
    | some x => if s.d.yieldsBefore g x h then some x else some h) none

/-- SLOT_CHOICE: the core chooses a waiter, which pre-empts the holder that R323 gives, where no slot is free for it. -/
def execSlotChoice (core : Nat) (s : State) : Host.Outcome State Fault Refusal :=
  match s.chosenWaiter core with
  | none => .next s
  | some c =>
    let holds := (s.d.share c core).holds
    if !holds && (s.d.freeSlot c core).isSome then .next (s.mapCore core fun x => { x with grant := some c })
    else if (s.d.holders core).any fun p => p.2.request then .next s
    else match s.victim c core with
      | none => .next s
      | some h =>
        let pw := s.d.effPrio c core
        let ph := (s.d.ctx h).prio
        if ph < pw || (ph = pw && (s.d.share h core).heldQuantum) then
          let s1 := s.mapShare h core fun x => { x with request := true }
          .next (if holds then s1 else s1.mapCore core fun x => { x with grant := some c })
        else .next s

/-- QUANTUM_EXPIRY: a waiter has waited another quantum, or a holder has held its slot for one (R323). -/
def execQuantumExpiry (ctx core : Nat) (s : State) : Host.Outcome State Fault Refusal :=
  let x := s.d.share ctx core
  let n := (s.d.ctx ctx).quantum
  let clk := (s.d.core core).clk
  let waits := s.isWaiter ctx core && x.waitSince + (x.waitQuanta + 1) * n ≤ clk
  let held := x.holds && x.slotSince + n ≤ clk
  .next (s.mapShare ctx core fun y =>
    { y with waitQuanta := if waits then y.waitQuanta + 1 else y.waitQuanta, heldQuantum := y.heldQuantum || held })

/-! ### The halt (R325) -/

/-- The leave of a matrix instruction given back, or its request withdrawn (R18, R405). -/
def State.haltInstr (c g : Nat) (s : State) (m : MInstr) : State :=
  if !m.kind.heavy || m.finished || m.leave = 0 || m.leave = 3 then s
  else
    let s1 := if m.leave = 2 then s.returnLeave g 4 else s.withdrawLeave 0 c g m.id
    s1.mapMx c g fun x => x.setInstr { m with leave := 3 }

/-- The leave of a nest given back, or its request withdrawn, unless it runs on for a word behind it (R55; DEDUCED, log entry
106). -/
def State.haltLoop (s : State) (o : LoopOp) : State :=
  if !o.heavy || o.leave = 3 || s.loopNeeded o then s
  else (if o.leave = 2 then s.returnLeave o.core 1 else s.withdrawLeave 1 o.ctx o.core o.id).setLoop { o with leave := 3 }

/-- The leave of a copy command given back, or its request withdrawn. -/
def State.haltCopy (c g : Nat) (s : State) (q : Nat) : State :=
  match (s.d.share c g).copy q with
  | none => s
  | some k =>
    if !k.entry.heavyCopy || k.finished || k.leave = 3 then s
    else
      (if k.leave = 2 then s.returnLeave g 2 else s.withdrawLeave 2 c g q).mapShare c g fun x => x.setCopy q (some { k with leave := 3 })

/-- The leave of a share's copy commands given back. -/
def State.haltCopies (s : State) (c g : Nat) : State := [0, 1].foldl (State.haltCopy c g) s

/-- Every heavy operation of a share stopped at its resumable point. -/
def State.haltHeavy (s : State) (c g : Nat) : State :=
  let s1 := (s.d.share c g).mx.issued.foldl (State.haltInstr c g) s
  let s2 := (s1.d.loops.filter fun o => o.ctx = c && o.core = g).foldl State.haltLoop s1
  s2.haltCopies c g

/-- PREEMPTION_HALT: a requested share halts at an instruction boundary (R325). -/
def execPreemptionHalt (ctx core : Nat) (s : State) : Host.Outcome State Fault Refusal :=
  let x := s.d.share ctx core
  if x.request && !x.halted && !x.saved && (s.d.ctx ctx).state != .ending then
    .next ((s.mapShare ctx core fun y => { y with halted := true }).haltHeavy ctx core)
  else .next s

/-! ### The cut (R55, R326) -/

/-- Every operation of a share performed that may be: what R55 requires before the cut. -/
def State.performShare (s : State) (c g : Nat) : State :=
  ((s.d.ops.filter fun o => o.ctx = c && o.core = g).map fun o => (o.id, 2 * o.pieces.length + 2)).foldl (fun t p => t.performAll p.1 p.2) s

/-- Every resident warp changed. -/
def State.mapWarps (s : State) (f : Warp → Warp) : State := { s with w := f s.w, d := { s.d with warps := s.d.warps.map f } }

/-- Whether a share still has to be cut. -/
def Share.toCut (x : Share) : Bool := x.slot.isSome && !x.saved && x.busy

/-- A context SWAPPED once every core's share is saved (R312, R326). -/
def State.settleSwap (s : State) (c : Nat) : State :=
  let x := s.d.ctx c
  if x.swapout && x.state == .active && s.d.shares.all fun p => p.1 / 256 ≠ c || !p.2.toCut then
    s.mapCtx c fun y => { y with state := .swapped, swapout := false }
  else s

/-- The start of a core's image in the save area (R314). -/
def Ctx.imageAt (c : Ctx) (g : Nat) : Nat := c.save + 0x800000 * g

/-- The cells of a core's part of the save area (DESIGN CHOICE, log entry 29). -/
def State.imageCells (s : State) (c g : Nat) : List Host.Cell :=
  let a := (s.d.ctx c).imageAt g
  s.mem.cells.filter fun p => a ≤ p.1 && p.1 < a + 0x800000

/-- The error marks there (DESIGN CHOICE, log entry 29). -/
def State.imageMarks (s : State) (c g : Nat) : Map Bool :=
  let a := (s.d.ctx c).imageAt g
  s.mem.marks.filter fun p => a ≤ p.1 * 64 && p.1 * 64 < a + 0x800000

/-- Bins whose entries' clocks of entry become ages, or ages clocks of entry again (R238, R326). -/
def agedBins (clk : Nat) (bins : Map (List Ready)) : Map (List Ready) :=
  bins.map fun p => (p.1, p.2.map fun r => { r with since := clk - r.since })

/-- The requests of blocked `SELPOP`s withdrawn, with results that nobody has taken: they are made anew after the restore
(R157). -/
def Share.withdrawPops (x : Share) : Share :=
  (x.setQueue .qsi ((x.queue .qsi).filter fun e => e.sel < 3)).setQueue .qso []

/-- A share as its image holds it: group ages, and no engine owned (R238, R314, R326). -/
def Share.cut (x : Share) (clk : Nat) (image : List Host.Cell) (marks : Map Bool) : Share :=
  let y := x.withdrawPops
  { y with
    slot := none, saved := true, image := image, imageMarks := marks, request := false, heldQuantum := false, waitSince := clk, waitQuanta := 0
    vbins := agedBins clk x.vbins, sbins := agedBins clk x.sbins, mx := { x.mx with owned := false, due := x.mx.owned || x.mx.due } }

/-- Whether a memory word of a share has still to be performed before a cut: one behind something of its warp that has parked is
saved with it (R55; DEDUCED, log entry 106). -/
def State.opsDue (s : State) (c g : Nat) : Bool :=
  s.d.ops.any fun o => o.ctx = c && o.core = g && !s.d.heldByPark o.uid && o.pieces.any Piece.ok

/-- IMAGE_CUT: a halted share performs what it must, writes the records of words before the cut, is saved, and gives up its slot
(R55, R326, R399). -/
def execImageCut (ctx core : Nat) (s : State) : Host.Outcome State Fault Refusal :=
  let x := s.d.share ctx core
  if !x.halted || x.saved || (s.d.ctx ctx).state = .ending then .next s
  else
    let s0 := s.performShare ctx core
    if s0.opsDue ctx core then .next s0 else
    let s1 := ((s0.haltHeavy ctx core).serveRecords ctx (s0.d.ctx ctx).waiting.length).dropTlb ctx core
    let s2 := (s1.mapShare ctx core fun y => y.cut (s.d.core core).clk (s1.imageCells ctx core) (s1.imageMarks ctx core)).mapWarps fun w =>
      if w.ctx = ctx && w.core = core then { w with block := none } else w
    .next ((s2.settleSwap ctx).happen core (.cut ctx))

/-! ### The restore (R314, R326, R327, R337) -/

/-- A translation register after a restore (R53, R326). -/
def TReg.stale (t : TReg) : TReg := if t.state = .bound then { t with state := .stale } else t

/-- The translation registers of a share's warps made stale. -/
def State.staleShare (s : State) (c g : Nat) : State :=
  s.mapWarps fun w => if w.live && w.ctx = c && w.core = g then { w with t := w.t.map fun p => (p.1, p.2.stale) } else w

/-- Leave asked for again by what a halt stopped (R405). -/
def State.askAgain (s : State) (c g : Nat) : State :=
  let s1 := ((s.d.share c g).mx.issued.filter fun m => m.leave = 3).foldl (fun (t : State) (m : MInstr) =>
    (t.mapMx c g fun x => x.setInstr { m with leave := 1 }).askLeave 0 c g m.id 4) s
  let s2 := (s1.d.loops.filter fun o => o.ctx = c && o.core = g && o.leave = 3).foldl (fun (t : State) (o : LoopOp) =>
    (t.setLoop { o with leave := 1 }).askLeave 1 c g o.id 1) s1
  [0, 1].foldl (fun (t : State) q => match (t.d.share c g).copy q with
    | some k => if k.leave = 3 then (t.mapShare c g fun x => x.setCopy q (some { k with leave := 1 })).askLeave 2 c g q 2 else t
    | none => t) s2

/-- The entry of a spill ring for a core replayed as if it had just arrived (R327). -/
def State.replayItem (s : State) (c g : Nat) (e : Spilled) : State :=
  let s1 := s.mapCtx c fun y => { y with spill := y.spill.filter fun z => z.seqno ≠ e.seqno }
  if (s.d.core g).offline then s1.dropTok e.item.tok 6 (issuingDie (e.circuit / 8) g)
  else match e.item.kind with
  | 0 => s1.arriveBehind c g e.item.tok e.circuit
  | 1 => s1.armAt c g e.item.tok e.item.ctr
  | _ => s1.ffreeAt c g e.item.tok.ofs

/-- The entries for a core replayed in ring order, as long as the context stays ACTIVE. -/
def State.replaySpill (s : State) (c g : Nat) : List Spilled → State
  | [] => s
  | e :: es => if (s.d.ctx c).state = .active then (s.replayItem c g e).replaySpill c g es else s

/-- The resumes held in a share's park table take effect (R337). -/
def State.resumeHeld (s : State) (c g : Nat) : State :=
  ((s.d.share c g).park.filter fun p => p.2.used && p.2.held.isSome).foldl (fun t p =>
    let v : BitVec 64 := p.2.held.getD 0
    t.unpark c g p.2.kind (ridIdx (v.setWidth 32)) ((v >>> 32).setWidth 32) p.2) s

/-- A share as it was saved, in a slot: group ages go on, and the engine is retaken where it is free (R326, R391). -/
def Share.uncut (x : Share) (clk slot : Nat) (engineFree : Bool) : Share :=
  { x with
    slot := some slot, saved := false, image := [], imageMarks := [], halted := false, request := false, slotSince := clk, heldQuantum := false, watch := 0
    waitSince := clk, waitQuanta := 0, vbins := agedBins clk x.vbins, sbins := agedBins clk x.sbins
    mx := if x.mx.due && engineFree then x.mx.take else x.mx }

/-- The warps of a restored share without a place, then placed as far as there is room (R242, R326). -/
def State.replaceWarps (s : State) (c g : Nat) : State :=
  let t := s.mapWarps fun w => if w.live && w.ctx = c && w.core = g then { w with part := noPart } else w
  let n := t.allWarps.length
  (t.placeWarps g true n).placeWarps g false n

/-- A saved share back in a slot of its core (R326, R327, R391). -/
def State.unsave (s : State) (c g slot : Nat) : State :=
  let free := (s.engineOwner g).isNone
  ((s.mapShare c g fun x => x.uncut (s.d.core g).clk slot free).staleShare c g).replaceWarps c g

/-- The spill ring's entries for a core replayed (R327). -/
def State.replayCore (s : State) (c g : Nat) : State := s.replaySpill c g ((s.d.ctx c).spill.filter fun e => e.item.tok.dest = g)

/-- SHARE_RESTORE: a saved share of an ACTIVE context takes a slot: its digest is checked, the spill ring replayed, held
resumes take effect and heavy operations ask again (R314, R327, R337, R405); a share with more ready descriptors than the
core's pool has free waits for them (R13; DESIGN CHOICE, log entry 98). Where the context has no saved share on the core
the ring is replayed alone, and its tokens find no frame (R226, R328). -/
def execShareRestore (ctx core : Nat) (s : State) : Host.Outcome State Fault Refusal :=
  let x := s.d.share ctx core
  if (s.d.ctx ctx).state != .active || (s.d.ctx ctx).swapout then .next s
  else if !x.saved then .next (s.replayCore ctx core)
  else if (s.d.core core).offline then .next s
  else if s.d.keptFor ctx core || s.chosenWaiter core ≠ some ctx then .next s
  else if x.image != s.imageCells ctx core || x.imageMarks != s.imageMarks ctx core then .next (s.endCtx ctx 0x32 7 core)
  else if 8192 < s.d.poolUsed core + x.descs then .next s
  else match s.d.freeSlot ctx core with
    | none => .next s
    | some k =>
      .next ((((s.unsave ctx core k).replayCore ctx core).resumeHeld ctx core).askAgain ctx core)

/-! ### Commands to a context (R312) -/

/-- Paths bound for each device of the route table: the lowest link of its mask that is up (R404). -/
def Dev.bindPaths (d : Dev) : Map Nat :=
  d.deimos.routes.foldl (fun m r => match (List.range 24).find? fun l => r.2.testBit l && d.linkUp l with
    | some l => Map.put m r.1 l
    | none => m) []

/-- SWAPOUT (R312, R325). -/
def execSwapout (ctx : Nat) (s : State) : Host.Outcome State Fault Refusal :=
  if s.d.hostDown then .next s else
  if (s.d.ctx ctx).state = .active && !(s.d.ctx ctx).swapout then
    .next (((s.mapCtx ctx fun x => { x with swapout := true }).requestAll ctx).settleSwap ctx)
  else .next s

/-- The waits of a context's saved shares begun. -/
def State.startWaits (s : State) (c : Nat) : State :=
  { s with d := { s.d with shares := s.d.shares.map fun p =>
      if p.1 / 256 = c && p.2.saved then (p.1, { p.2 with waitSince := (s.d.core (p.1 % 256)).clk, waitQuanta := 0 }) else p } }

/-- SWAPIN (R312, R327, R404). -/
def execSwapin (ctx : Nat) (s : State) : Host.Outcome State Fault Refusal :=
  if s.d.hostDown then .next s else
  if (s.d.ctx ctx).state = .swapped then
    .next ((s.mapCtx ctx fun x => { x with state := .active, paths := s.d.bindPaths }).startWaits ctx)
  else .next s

/-- CONTEXT_END: the END command (R312, R390). -/
def execContextEnd (ctx : Nat) (s : State) : Host.Outcome State Fault Refusal :=
  if s.d.hostDown then .next s else .next (s.endCtx ctx 0x32 1 256)

/-- Held tokens of the collision ring written into it, until one must be held again (R235, R312). -/
def State.placeHeldColl (s : State) (c : Nat) : List Collided → State
  | [] => s
  | e :: es =>
    if (s.d.ctx c).state = .active then (s.collide c e.core e.tok e.circuit e.parked none).placeHeldColl c es
    else (s.mapCtx c fun y => { y with heldColl := y.heldColl ++ [e] }).placeHeldColl c es

/-- The entries of a context in the spawn queues, frames and gangs, that stand at a place, by number: the die, the number
and the block (R245). -/
def Dev.queuedAt (d : Dev) (c ring : Nat) : List (Nat × Nat × Nat) :=
  d.dies.flatMap fun p =>
    ((p.2.spawn.filter fun e => e.ctx = c && e.ring = ring).map fun e => (p.1, e.seqno, e.blk)) ++
    ((p.2.gangs.filter fun e => e.ctx = c && e.ring = ring).map fun e => (p.1, e.seqno, e.entry))

/-- The entry of a number in the spawn queues given its place. -/
def State.setRing (s : State) (seqno ring ringSeq : Nat) : State :=
  { s with d := { s.d with dies := s.d.dies.map fun p => (p.1, { p.2 with
      spawn := p.2.spawn.map fun e => if e.seqno = seqno then { e with ring := ring, ringSeq := ringSeq } else e
      gangs := p.2.gangs.map fun e => if e.seqno = seqno then { e with ring := ring, ringSeq := ringSeq } else e }) } }

/-- Held entries of the spawn queues given their places, until one must be held again (R235, R245, R312; DEDUCED, log entry
87). -/
def State.placeHeldEnts (s : State) (c : Nat) : List (Nat × Nat × Nat) → State
  | [] => s
  | (die, n, blk) :: es =>
    if (s.d.ctx c).state = .active then
      let q := s.queuePlace die c blk n
      (q.2.setRing n q.1 (s.d.nextColl c)).placeHeldEnts c es
    else (s.setRing n 2 0).placeHeldEnts c es

/-- Held items written into the spill ring, ahead of its replay, until one must be held again (R312, R329, R339). -/
def State.placeHeldSpill (s : State) (c : Nat) : List Spilled → State
  | [] => s
  | e :: es =>
    if (s.d.ctx c).state = .active then (s.spillItem e.item.tok.dest e.item e.circuit).placeHeldSpill c es
    else (s.mapCtx c fun y => { y with heldSpill := y.heldSpill ++ [e] }).placeHeldSpill c es

/-- CONTINUE: a SUSPENDED context is ACTIVE again; what was held is written into its ring, or suspends it anew (R312, R329;
DEDUCED, log entry 44). -/
def execContextContinue (ctx : Nat) (s : State) : Host.Outcome State Fault Refusal :=
  if s.d.hostDown then .next s else
  let c := s.d.ctx ctx
  if c.state = .suspended then
    let ents := s.d.queuedAt ctx 2
    let s1 := (s.mapCtx ctx fun x => { x with state := .active, swapout := false, ringDown := false, heldColl := [], heldSpill := [] }).startWaits ctx
    let s2 := ents.foldl (fun t e => t.setRing e.2.1 3 0) s1
    .next (((s2.placeHeldColl ctx c.heldColl).placeHeldEnts ctx ents).placeHeldSpill ctx c.heldSpill)
  else .next s

/-- FREE: an IDLE context is FREE, and its pool is emptied (R312, R345); what is left of it is discarded as at an end (DEDUCED,
log entry 26). -/
def execContextFree (ctx : Nat) (s : State) : Host.Outcome State Fault Refusal :=
  if s.d.hostDown then .next s else
  if (s.d.ctx ctx).state = .idle then .next (s.freeCtx ctx)
  else .next s

/-! ### The discard of an ENDING context (R312, R366) -/

/-- Whether an accepted command of a context has yet to complete: a copy, an eviction, or a merge that is not parked (R312;
DEDUCED, log entry 26). -/
def State.commandsDue (s : State) (c : Nat) : Bool :=
  (s.d.shares.any fun p => p.1 / 256 = c && !(s.d.core (p.1 % 256)).offline && (p.2.copyA.isSome || p.2.copyB.isSome)) ||
  (s.d.dies.any fun p => p.2.encke.any fun k => k.ctx = c) ||
  (s.d.ctx c).tasks.any fun p => (s.d.ctx c).mayJoin p.1 && (match (s.d.ctx c).revs.find p.1 with
    | some r => r.stuck.isNone
    | none => true)

/-- CONTEXT_DISCARD_COMPLETE: the commands that engines have accepted are complete, every core has discarded its share, and
the context is IDLE (R312; DEDUCED, log entry 26). -/
def execContextDiscardComplete (ctx : Nat) (s : State) : Host.Outcome State Fault Refusal :=
  if (s.d.ctx ctx).state ≠ .ending || s.commandsDue ctx then .next s
  else .next ((s.discard ctx).mapCtx ctx fun x => { x with state := .idle })

end Sys2Proof.Machine
end

