-- ==== Sys2Proof/Machine/Host.lean ====
section
/-! DEFINITION. The host's side: configuring contexts, invalidation, revision pools, accesses to memory and registers, and
what the caches do of themselves (R260, R266-R269, R311-R314, R333, R334, R338, R345, R346, R391, R400). -/

namespace Sys2Proof.Machine

/-! ### Configuration blocks (R313, R314, R386) -/

/-- A context configuration block (R313). -/
structure Cfg where
  bytes : List Byte

def Cfg.troot (x : Cfg) : Nat := fieldOf x.bytes 0 8
def Cfg.save (x : Cfg) : Nat := fieldOf x.bytes 8 8
def Cfg.cring (x : Cfg) : Nat := fieldOf x.bytes 16 8
def Cfg.sring (x : Cfg) : Nat := fieldOf x.bytes 24 8
def Cfg.fring (x : Cfg) : Nat := fieldOf x.bytes 32 8
def Cfg.rlog (x : Cfg) : Nat := fieldOf x.bytes 40 4
def Cfg.heatbuf (x : Cfg) : Nat := fieldOf x.bytes 44 8
def Cfg.heat (x : Cfg) : Nat := fieldOf x.bytes 52 4
def Cfg.quant (x : Cfg) : Nat := fieldOf x.bytes 56 4
def Cfg.flags (x : Cfg) : Nat := fieldOf x.bytes 60 4
def Cfg.clog (x : Cfg) : Nat := bitsOf x.rlog 4 0
def Cfg.slog (x : Cfg) : Nat := bitsOf x.rlog 12 8
def Cfg.flog (x : Cfg) : Nat := bitsOf x.rlog 20 16
def Cfg.supv (x : Cfg) : Bool := bitOf x.flags 0

/-- Whether a reserved field is zero and every field lies in its range (R313, R314, R386). -/
def Cfg.fieldsOk (x : Cfg) : Bool :=
  x.flags < 2 && 1 ≤ x.quant && x.quant < 65536 && 1 ≤ bitsOf x.heat 31 16 && x.heatbuf % 16 = 0 &&
  bitsOf x.rlog 7 5 = 0 && bitsOf x.rlog 15 13 = 0 && bitsOf x.rlog 31 21 = 0 &&
  10 ≤ x.clog && x.clog ≤ 20 && 10 ≤ x.slog && x.slog ≤ 20 && 6 ≤ x.flog && x.flog ≤ 16 &&
  x.fring % 64 = 0 && x.sring % 32 = 0 && x.cring % 32 = 0 &&
  x.save % 0x800000 = 0 && x.save + 0x80000000 ≤ 0x10000000000 && x.troot % 4096 = 0 && isDevice x.troot

/-- Whether a ring of `n` bytes translates for writing. -/
def State.ringOk (s : State) (c va n : Nat) : Bool := s.rangeOk c true (n / 65536 + 2) va n

/-- Whether the three rings translate for writing through the block's own tables (R314). -/
def State.ringsOk (s : State) (c : Nat) (x : Cfg) : Bool :=
  let t := s.mapCtx c fun k => { k with troot := x.troot }
  t.ringOk c x.cring (32 * 2 ^ x.clog) && t.ringOk c x.sring (32 * 2 ^ x.slog) && t.ringOk c x.fring (64 + 64 * 2 ^ x.flog)

/-- The context's fields that a block gives. -/
def Ctx.configure (k : Ctx) (x : Cfg) : Ctx :=
  { k with
    troot := x.troot, save := x.save, cring := x.cring, sring := x.sring, fring := x.fring, clog := x.clog, slog := x.slog
    flog := x.flog, heatbuf := x.heatbuf, heatn := bitsOf x.heat 15 0, heatwin := bitsOf x.heat 31 16, quant := x.quant
    supv := x.supv }

/-- A context fresh from FREE: IDLE, its counters and registers kept (R312; DEDUCED, log entry 21). -/
def Ctx.fresh (k : Ctx) : Ctx :=
  { Ctx.free with
    state := .idle, lstat := k.lstat, lidx := k.lidx, lcount := k.lcount, donecnt := k.donecnt, dropcnt := k.dropcnt
    igncnt := k.igncnt, rpaddst := k.rpaddst, rprefused := k.rprefused, rpparked := k.rpparked }

/-- The entries of the collision ring written into the ring in force, each at its place (R314; DEDUCED, log entry 44). -/
def State.rewriteColl (s : State) (c : Nat) : State :=
  let k := s.d.ctx c
  let queued := s.d.dies.flatMap fun p =>
    ((p.2.spawn.filter fun e => e.ctx = c && e.ring = 1).map fun e => (e.seqno, e.ringSeq)) ++
    ((p.2.gangs.filter fun e => e.ctx = c && e.ring = 1).map fun e => (e.seqno, e.ringSeq))
  let s1 := k.collided.foldl (fun t e => t.writeVirt c (k.cring + 32 * (e.seqno % 2 ^ k.clog)) (ringEntry e.tok (BitVec.ofNat 32 e.seqno) 0 0)) s
  queued.foldl (fun t e => t.writeVirt c (k.cring + 32 * (e.2 % 2 ^ k.clog)) (spawnEntry e.1 e.2)) s1

/-- The entries of the spill ring written into the ring in force. -/
def State.rewriteSpill (s : State) (c : Nat) : State :=
  let k := s.d.ctx c
  k.spill.foldl (fun t e => t.writeVirt c (k.sring + 32 * (e.seqno % 2 ^ k.slog))
    (ringEntry e.item.tok (BitVec.ofNat 32 e.seqno) (BitVec.ofNat 32 (e.item.kind + e.item.ctr * 65536)) 0)) s

/-- What a CCFG write finds wrong (R314): its status, 0 where nothing (DEDUCED, log entries 35 and 38). -/
def State.cfgStatus (s : State) (c addr : Nat) (x : Cfg) : Nat :=
  let k := s.d.ctx c
  if !(k.state == .free || k.state == .suspended) || !s.d.launchable || s.d.needsReset then 3
  else if addr % 64 ≠ 0 || !(isDevice addr || isHost addr) || s.mem.marked addr 64 || !x.fieldsOk || !s.ringsOk c x then 1
  else if x.supv && s.d.ctxs.any fun p => p.1 ≠ c && p.2.supv && p.2.state != .free then 2
  else if k.state == .suspended && (x.troot ≠ k.troot || x.save ≠ k.save || x.supv != k.supv) then 1
  else 0

/-- A CCFG write (R311, R314, R404; DEDUCED, log entry 44). -/
def State.ccfg (s : State) (c addr : Nat) : State :=
  let x : Cfg := { bytes := s.mem.bytes addr 64 }
  let k := s.d.ctx c
  let status := s.cfgStatus c addr x
  if status ≠ 0 then s.mapCtx c fun y => { y with cfgstat := status }
  else if k.state == .free then s.mapCtx c fun y => { y.fresh.configure x with paths := s.d.bindPaths }
  else ((s.mapCtx c fun y => { y.configure x with cfgstat := 0, paths := s.d.bindPaths }).rewriteColl c).rewriteSpill c

/-- CCFG: a host write of a configuration block's address (R314). -/
def execCcfg (ctx : Nat) (addr : BitVec 64) (s : State) : Host.Outcome State Fault Refusal :=
  if s.d.hostDown || 64 ≤ ctx then .next s else .next (s.ccfg ctx addr.toNat)

/-! ### Invalidation (R53, R334) -/

/-- Whether an address range of `n` bytes meets the range of a request; a length of 0 is the whole space. -/
def Inv.meets (x : Inv) (va n : Nat) : Bool := x.len = 0 || rangesMeet x.va x.len va n

/-- Whether an operation has begun an access in the range with a translation from before. -/
def Inv.holds (x : Inv) (o : MemOp) : Bool := o.ctx = x.ctx && o.pieces.any fun p => p.ok && x.meets p.va p.size

/-- The cached translations and translation registers that some cores drop, with the heat of the pages that leave and the code
fetched through them (R72, R334, R338; DEDUCED, log entries 41 and 88). -/
def State.relatch (s : State) (x : Inv) (on : Nat → Bool) : State :=
  let gone := fun (e : Nat × TlbEnt) => x.meets (e.1 * 65536) 65536
  let mine := fun (p : Nat × Map TlbEnt) => p.1 % 64 = x.ctx && on (p.1 / 64)
  let s1 := (s.d.tlb.filter mine).foldl (fun t p => t.pagesLeave x.ctx (p.1 / 64) (p.2.filter gone)) s
  let t : State := { s1 with d := { s1.d with tlb := s1.d.tlb.map fun p => if mine p then (p.1, p.2.filter fun e => !gone e) else p } }
  (t.forgetCode x.ctx x.va x.len).mapWarps fun w =>
    if w.live && w.ctx = x.ctx && on w.core then
      { w with t := w.t.map fun p => (p.1, if x.meets p.2.vbase p.2.limit then p.2.stale else p.2) }
    else w

/-- A write to INVGO (R334; DESIGN CHOICE, log entry 18). -/
def State.invGo (s : State) : State :=
  if s.d.inv.busy then s
  else
    let x : Inv :=
      { ctx := s.d.invCtx, va := s.d.invVa, len := s.d.invLen, number := (s.d.inv.number + 1) % 65536, busy := true, done := false
        late := s.d.free, waitOps := (s.d.ops.filter fun o =>
          o.ctx = s.d.invCtx && o.pieces.any fun p => p.ok && (s.d.invLen = 0 || rangesMeet s.d.invVa s.d.invLen p.va p.size)).map MemOp.id
        waitCmds := s.d.dies.flatMap fun p => (p.2.encke.filter fun k => k.ctx = s.d.invCtx && k.stage ≠ 0).map fun k => k.entry.id }
    let t := s.tick.relatch x fun g => !Config.invLate x.late g
    { t with d := { t.d with inv := x } }

/-- INVGO: a request starts (R334). -/
def execInvgo (s : State) : Host.Outcome State Fault Refusal := if s.d.hostDown then .next s else .next s.invGo

/-- INVALIDATION_DONE: every unit has acknowledged: no access that began with a dropped translation is outstanding, and no
command of Encke that goes on with the translations it had (R334, R368; DESIGN CHOICE, log entry 18). -/
def execInvalidationDone (s : State) : Host.Outcome State Fault Refusal :=
  let x := s.d.inv
  if !x.busy || s.d.dies.any (fun p => p.2.encke.any fun k => x.waitCmds.contains k.entry.id) || s.d.ops.any (fun o => x.holds o && (x.waitOps.contains o.id || Config.invLate x.late o.core)) then .next s
  else
    let t := s.relatch x fun g => Config.invLate x.late g
    .next { t with d := { t.d with inv := { x with busy := false, done := true, waitOps := [], waitCmds := [] } } }

/-! ### Revision pools (R345) -/

/-- An RPADD write (R345). -/
def State.rpadd (s : State) (c : Nat) (val : BitVec 64) : State :=
  let k := s.d.ctx c
  let pa := bitsOf val.toNat 51 16 * 65536
  let n := (bitsOf val.toNat 15 0 + 1) * 16
  let status :=
    if k.state == .free || k.state == .ending then 2
    else if 0x10000000000 < pa + n * 4096 || k.pool.any fun p => rangesMeet p.1 (p.2 * 4096) pa (n * 4096) then 1
    else 0
  s.mapCtx c fun y => { y with rpaddst := status, pool := if status = 0 then y.pool ++ [(pa, n)] else y.pool }

/-- RPADD: a chunk of device memory joins a context's pool (R345). -/
def execRpadd (ctx : Nat) (val : BitVec 64) (s : State) : Host.Outcome State Fault Refusal :=
  if s.d.hostDown || 64 ≤ ctx then .next s else .next (s.rpadd ctx val)

/-! ### Host accesses to memory (R266, R268, R269, R346, R413) -/

/-- The virtual addresses that a table maps to a physical address, each with its leaf's attributes (R330, R331): `fuel` levels
are left, `base` is what the table's first entry covers (DEDUCED, log entry 40). -/
def mapsOf (m : PMem) (iw pa : Nat) : Nat → Nat → Nat → Nat → List (Nat × Nat)
  | 0, _, _, _ => []
  | fuel + 1, level, table, base =>
    let sh := levelShift level
    (List.range (if level = 4 then 32 else 512)).flatMap fun k =>
      let e := m.nat (table + 8 * k) 8
      let va := base + k * 2 ^ sh
      if !bitOf e 0 then []
      else if bitOf e 1 then
        (let frame := bitsOf e 51 16 * 65536
        if leafOk iw level e && frame ≤ pa && pa < frame + 2 ^ sh then [(va + (pa - frame), bitsOf e 7 2)] else [])
      else if pointerOk level e then mapsOf m iw pa fuel (level + 1) (bitsOf e 51 8 * 256) va
      else []

/-- The contexts, and their addresses, in which a write at a physical address needs an ancestor's copy first (R344; DEDUCED, log entry 40). -/
def State.hostNeeds (s : State) (pa : Nat) : List (Nat × Nat) :=
  (s.d.ctxs.filter fun p => isDevice pa && p.2.state != .free && !p.2.revs.isEmpty).flatMap fun p =>
    ((mapsOf s.mem s.d.iw pa 5 0 p.2.troot 0).filter fun x => p.2.needsPage rootTask x.1).map fun x => (p.1, x.1)

/-- The copies made; the context that has no page for one otherwise. -/
def State.hostCopies (s : State) (pa : Nat) : List (Nat × Nat) → State ⊕ Nat
  | [] => .inl s
  | (c, va) :: rest => match s.cow c rootTask va pa with
    | some t => t.hostCopies pa rest
    | none => .inr c

/-- The 4 KiB granules of a range; a read, of length 0 here, writes none. -/
def granulesOf (pa n : Nat) : List Nat := if n = 0 then [] else (List.range ((pa + n + 4095) / 4096 - pa / 4096)).map fun k => (pa / 4096 + k) * 4096

/-- The ancestors' copies of every granule a host write touches. -/
def State.hostReady (s : State) : List Nat → State ⊕ Nat
  | [] => .inl s
  | g :: gs => match s.hostCopies g (s.hostNeeds g) with
    | .inl t => t.hostReady gs
    | .inr c => .inr c

/-- HDIRECT of the pages that map a physical address (R267). -/
def State.hdirectMaps (s : State) (pa : Nat) : List Bool :=
  (s.d.ctxs.filter fun p => isDevice pa && p.2.state != .free).flatMap fun p =>
    (mapsOf s.mem s.d.iw pa 5 0 p.2.troot 0).map fun x => x.2.testBit 4

/-- Whether a host access is served from HBM: its page is HDIRECT; of pages that differ the host's mapping, which the access
names, decides (R266-R268; DEDUCED, log entry 39). -/
def State.isDirect (s : State) (pa : Nat) (hdirect : Bool) : Bool :=
  let ms := s.hdirectMaps pa
  ms.contains true && (hdirect || !ms.contains false)

/-- A host access as the pages that map its address have it served (R267). -/
def State.hostRoute (s : State) (a : HostAcc) : HostAcc :=
  match a with
  | .read pa n hd => .read pa n (s.isDirect pa hd)
  | .write pa data hd l2 => .write pa data (s.isDirect pa hd) l2
  | x => x

/-- The physical range a host access writes. -/
def hostRange : HostAcc → Nat × Nat
  | .read pa _ _ => (pa, 0)
  | .write pa data _ _ => (pa, data.length)
  | .atomicAdd pa size _ => (pa, size)
  | .atomicXchg pa size _ => (pa, size)
  | .atomicCas pa size _ _ => (pa, size)

/-- What a host access that reads returns (R266, R268, R269); none for a write. -/
def PMem.hostReads (m : PMem) (a : HostAcc) : Option Nat :=
  match a with
  | .read pa n hd => some (ofBytesLE (if hd && isDevice pa then m.hbmBytes pa n else m.bytes pa n))
  | .write _ _ _ _ => none
  | .atomicAdd pa size _ => some (m.nat pa size)
  | .atomicXchg pa size _ => some (m.nat pa size)
  | .atomicCas pa size _ _ => some (m.nat pa size)

/-- Memory after a host access (R266, R268, R269); a write ends the exact accumulators it meets (R282). -/
def PMem.hostAccess (m : PMem) (a : HostAcc) : PMem :=
  match a with
  | .read _ _ _ => m
  | .write pa data hd l2 =>
    if hd && isDevice pa then { m.hbmWrite l2 pa data with accs := m.accs.filter fun x => !x.meets pa data.length } else m.write pa data
  | .atomicAdd pa size v => m.writeNat pa size (m.nat pa size + v)
  | .atomicXchg pa size v => m.writeNat pa size v
  | .atomicCas pa size c v => if m.nat pa size = c then m.writeNat pa size v else m

/-- Whether the access reaches memory: device memory or the host's own, all of it; device memory only where the boot
state serves it (R413). -/
def Dev.hostServed (d : Dev) (a : HostAcc) : Bool :=
  let r := hostRange a
  let last := r.1 + (r.2 - 1)
  (isHost r.1 && isHost last) || (isDevice r.1 && isDevice last && !d.hostDown && d.bootState != 0 && d.bootState != 2)

/-- A host access performed: memory, and what it returned. -/
def State.hostDone (s : State) (a : HostAcc) : State :=
  let acc := s.hostRoute a
  { s with mem := s.mem.hostAccess acc, d := { s.d with hostRead := (s.mem.hostReads acc).getD s.d.hostRead } }

/-- HOST_MEMORY_ACCESS: a host access performed, or held for a page of a pool; in boot states 0 and 2 a read of device memory
returns zero (R266, R344, R346, R413; DEDUCED, log entries 38 and 39). -/
def execHostMemoryAccess (acc : HostAcc) (s : State) : Host.Outcome State Fault Refusal :=
  if !s.d.hostServed acc then
    .next (if s.d.hostDown || (s.mem.hostReads acc).isNone then s else { s with d := { s.d with hostRead := 0 } })
  else
    let r := hostRange acc
    match s.hostReady (granulesOf r.1 r.2) with
    | .inl t => .next (t.hostDone acc)
    | .inr c =>
      let s1 := s.note { FaultRec.engine 0x20 1 c 0 with address := r.1, d0 := 3 }
      let s2 := s1.mapCtx c fun k => { k with rpparked := satNat 16 (k.rpparked + 1) }
      .next { s2 with d := { s2.d with held := s2.d.held ++ [{ ctx := c, acc := acc }] } }

/-- HELD_HOST_WRITE: a held write performed once the pages it needs are there (R346). -/
def execHeldHostWrite (idx : Nat) (s : State) : Host.Outcome State Fault Refusal :=
  match s.d.held[idx]? with
  | none => .next s
  | some h =>
    let r := hostRange h.acc
    match s.hostReady (granulesOf r.1 r.2) with
    | .inl t => let u := t.hostDone h.acc
      .next { u with d := { u.d with held := u.d.held.eraseIdx idx } }
    | .inr _ => .next s

/-! ### Registers of BAR0 (R311, R334, R345, R391, R400, R410, R417) -/

/-- The state a host command leaves. -/
def hostNext (s : State) (o : Host.Outcome State Fault Refusal) : State :=
  match o with
  | .next t => t
  | _ => s

/-- A CCMD write (R311, R312). -/
def State.ccmd (s : State) (c v : Nat) : State :=
  match bitsOf v 3 0 with
  | 1 => hostNext s (execSwapout c s)
  | 2 => hostNext s (execSwapin c s)
  | 3 => hostNext s (execContextEnd c s)
  | 4 => hostNext s (execContextContinue c s)
  | 5 => hostNext s (execContextFree c s)
  | _ => s

/-- An MBCMD write: ignored while BUSY (R410; DEDUCED, log entry 46). -/
def State.mbcmd (s : State) (v : Nat) : State :=
  if s.d.mbox.busy then s
  else { s with d := { s.d with mbox := { s.d.mbox with cmd := bitsOf v 7 0, busy := true, pending := true, result := 0 } } }

/-- A write of a 32-bit register at an offset of BAR0; nothing for one that is read-only, 64 bits wide or absent (DEDUCED, log entry 42). -/
def State.regWrite32 (s : State) (off v : Nat) : State :=
  if off = 0x2000 then { s with d := { s.d with invCtx := v % 64 } }
  else if off = 0x2018 then s.invGo
  else if off = 0x3000 then { s with d := { s.d with wdoglim := v } }
  else if off = 0x6000 then s.mbcmd v
  else if off = 0x6020 then { s with d := { s.d with mbox := { s.d.mbox with vec := bitsOf v 11 0 + bitsOf v 31 31 * 2 ^ 31 } } }
  else if 0x10000 ≤ off && off < 0x12080 then hostNext s (execEventSelectionWrite off (BitVec.ofNat 32 v) s)
  else if 0x1000000 ≤ off && off < 0x1040000 && off % 0x1000 = 0x28 then s.ccmd ((off - 0x1000000) / 0x1000) v
  else s

/-- A write of a 64-bit register; none where the offset names no such register (DEDUCED, log entries 42 and 45). -/
def State.regWrite64 (s : State) (off : Nat) (v : BitVec 64) : Option State :=
  let ctx := (off - 0x1000000) / 0x1000
  if off = 0x2008 then some { s with d := { s.d with invVa := v.toNat / 65536 * 65536 } }
  else if off = 0x2010 then some { s with d := { s.d with invLen := v.toNat / 65536 * 65536 } }
  else if off = 0x6008 then some { s with d := { s.d with mbox := { s.d.mbox with arg0 := v.toNat } } }
  else if off = 0x6010 then some { s with d := { s.d with mbox := { s.d.mbox with arg1 := v.toNat } } }
  else if 0x4000 ≤ off && off < 0x4800 && off % 0x20 = 0 then some (s.rpadd ((off - 0x4000) / 0x20) v)
  else if 0x1000000 ≤ off && off < 0x1040000 then
    (if off % 0x1000 = 0x8 then some (s.ccfg ctx v.toNat)
    else if off % 0x1000 = 0x10 then some (hostNext s (execLaunch ctx v s))
    else if off % 0x1000 = 0x20 then some (hostNext s (execResume ctx v s))
    else none)
  else none

/-- REGISTER_WRITE: an aligned write of 4 or 8 bytes to BAR0; others complete without effect (R400). -/
def execRegisterWrite (off size : Nat) (val : BitVec 64) (s : State) : Host.Outcome State Fault Refusal :=
  if s.d.hostDown || 0x2000000 ≤ off then .next s
  else if size = 4 && off % 4 = 0 then .next (s.regWrite32 off (val.toNat % 2 ^ 32))
  else if size = 8 && off % 8 = 0 then
    match s.regWrite64 off val with
    | some t => .next t
    | none => .next ((s.regWrite32 off (val.toNat % 2 ^ 32)).regWrite32 (off + 4) (val.toNat / 2 ^ 32))
  else .next s

/-! ### Reads of BAR0 (R311, R334, R345, R391, R396, R400, R401, R406, R410, R417) -/

/-- The code of a context's state (R312). -/
def CState.code : CState → Nat
  | .free => 0
  | .idle => 1
  | .active => 2
  | .swapped => 3
  | .suspended => 4
  | .ending => 5

/-- BOOTSTAT (R396): `bootStat` holds its REASON and DIEMASK. -/
def Dev.bootWord (d : Dev) : Nat := d.bootState % 256 + d.bootStat * 256

/-- DLSTAT of a device link (R401). -/
def Link.status (l : Link) : Nat :=
  (if l.up then 1 else 0) + (if l.trained then 2 else 0) + (if l.degraded then 4 else 0) + l.peer % 4096 * 2 ^ 20

/-- A 32-bit register of a context's page (R311, R400). -/
def Ctx.reg32 (c : Ctx) (off : Nat) : Nat :=
  if off = 0x00 then c.state.code
  else if off = 0x30 then c.cfgstat % 256
  else if off = 0x38 then c.donecnt
  else if off = 0x40 then c.dropcnt
  else if off = 0x48 then c.igncnt
  else 0

/-- A 32-bit register of a die's power page (R406). -/
def Die.reg32 (x : Die) (off : Nat) : Nat :=
  if off = 0x00 then x.budget % 2 ^ 16
  else if off = 0x04 then x.ramp % 2 ^ 8
  else if off = 0x08 then x.use % 2 ^ 16 + x.reqs.length % 2 ^ 16 * 2 ^ 16
  else 0

/-- The offline cores of a die as a mask (R391). -/
def Dev.offlineMask (d : Dev) (die : Nat) : Nat :=
  ((List.range 32).filter fun k => (d.core (die * 32 + k)).offline).foldl (fun m k => m + 2 ^ k) 0

/-- A 32-bit register of BAR0, by offset; zero where no register can be read there (R400). -/
def Dev.reg32 (d : Dev) (off : Nat) : Nat :=
  if off = 0x0000 then 0x00590008
  else if off = 0x0008 then d.devnum % 4096
  else if off = 0x0010 then d.hlstat % 2 ^ 16
  else if 0x0100 ≤ off && off < 0x0160 then (d.links.getD ((off - 0x100) / 4) Link.absent).status
  else if off = 0x2020 then d.inv.number % 2 ^ 16 * 2 ^ 16 + (if d.inv.done then 2 else 0) + (if d.inv.busy then 1 else 0)
  else if off = 0x3000 then d.wdoglim
  else if off = 0x3008 then d.bootWord
  else if off = 0x3010 then d.deimos.retired.length % 2 ^ 16
  else if 0x3020 ≤ off && off < 0x3040 then d.offlineMask ((off - 0x3020) / 4)
  else if 0x4000 ≤ off && off < 0x4800 then
    (let c := d.ctx ((off - 0x4000) / 0x20)
    if off % 0x20 = 0x08 then c.rpparked % 2 ^ 16 + c.rprefused % 2 ^ 16 * 2 ^ 16 else if off % 0x20 = 0x18 then c.rpaddst % 256 else 0)
  else if 0x5000 ≤ off && off < 0x5200 then (d.die ((off - 0x5000) / 0x40)).reg32 (off % 0x40)
  else if off = 0x6018 then d.mbox.status % 256 + (if d.mbox.busy then 2 ^ 31 else 0)
  else if off = 0x6020 then d.mbox.vec
  else if off = 0x6028 then d.iw
  else if 0x10000 ≤ off && off < 0x12000 then (d.core ((off - 0x10000) / 0x20)).selections.getD (off % 0x20 / 4) 0
  else if 0x12000 ≤ off && off < 0x12080 then (d.die ((off - 0x12000) / 0x10)).selections.getD (off % 0x10 / 4) 0
  else if 0x1000000 ≤ off && off < 0x1040000 then (d.ctx ((off - 0x1000000) / 0x1000)).reg32 (off % 0x1000)
  else 0

/-- A 64-bit register of BAR0, by offset; none where there is no such register. Those that are only written read zero (R311,
R400). -/
def Dev.reg64 (d : Dev) (off : Nat) : Option Nat :=
  if off = 0x2008 || off = 0x2010 then some 0
  else if 0x4000 ≤ off && off < 0x4800 && off % 0x20 = 0x00 then some 0
  else if 0x4000 ≤ off && off < 0x4800 && off % 0x20 = 0x10 then
    (let c := d.ctx ((off - 0x4010) / 0x20)
    some (poolPages c.pool * 2 ^ 32 + c.pagesFree))
  else if 0x5000 ≤ off && off < 0x5200 && off % 0x40 = 0x10 then some (d.die ((off - 0x5010) / 0x40)).grants
  else if 0x5000 ≤ off && off < 0x5200 && off % 0x40 = 0x18 then some (d.die ((off - 0x5018) / 0x40)).stall
  else if off = 0x6008 then some d.mbox.arg0
  else if off = 0x6010 then some d.mbox.arg1
  else if 0x1000000 ≤ off && off < 0x1040000 then
    (let c := d.ctx ((off - 0x1000000) / 0x1000)
    if off % 0x1000 = 0x08 || off % 0x1000 = 0x10 || off % 0x1000 = 0x20 then some 0
    else if off % 0x1000 = 0x18 then some (c.lcount % 2 ^ 32 * 2 ^ 32 + c.lidx % 256 * 256 + c.lstat % 256)
    else none)
  else none

/-- What a host read of `size` bytes at an offset of BAR0 returns: an aligned word, a half of a 64-bit register, or zero; none
for an access of another kind, which returns no stated value (R400). -/
def Dev.regRead (d : Dev) (off size : Nat) : Option Nat :=
  if size = 4 && off % 4 = 0 then
    match d.reg64 off, d.reg64 (off - 4) with
    | some v, _ => some (v % 2 ^ 32)
    | none, some v => some (if off % 8 = 4 then v / 2 ^ 32 else d.reg32 off)
    | none, none => some (d.reg32 off)
  else if size = 8 && off % 8 = 0 then some ((d.reg64 off).getD (d.reg32 off + 2 ^ 32 * d.reg32 (off + 4)))
  else none

/-! ### Page heat (R338) -/

/-- Whether a heat window of a context has ended on a core since a page's last record, or its entry (R338; DEDUCED, log entry
41). -/
def State.windowEnded (s : State) (c g : Nat) (e : TlbEnt) : Bool :=
  let n := (s.d.ctx c).heatwin * 65536
  e.since / n < (s.d.core g).clk / n

/-- HEAT_WINDOW: the heat of a page that a core's TLB holds is recorded at the end of a heat window, or as its entry leaves; a
page that the TLB does not hold enters it (R333, R338; DEDUCED, log entry 41). -/
def execHeatWindow (core ctx page : Nat) (elements stalls : Word) (leaves : Bool) (s : State) : Host.Outcome State Fault Refusal :=
  let key := core * 64 + ctx
  match (s.d.tlb.getD key []).find page with
  | none => if (s.d.share ctx core).holds then .next (s.fillTlb core ctx (page * 65536)) else .next s
  | some e =>
    let t := s.heatRecord ctx core page e.shift elements stalls
    if leaves then .next { t with d := { t.d with tlb := t.d.tlb.upd key [] fun m => m.del page } }
    else if s.windowEnded ctx core e then
      .next { t with d := { t.d with tlb := t.d.tlb.upd key [] fun m => m.put page { e with since := (s.d.core core).clk } } }
    else .next s

/-! ### What caches and the watchdog do of themselves (R260, R268, R391) -/

/-- L1_LINE_DEPARTURE: a line leaves a core's L1 (R260). -/
def execL1LineDeparture (core line : Nat) (s : State) : Host.Outcome State Fault Refusal :=
  match (s.d.core core).l1.find line with
  | none => .next s
  | some _ => .next (s.mapCore core fun x => { x with l1 := x.l1.del line })

/-- L2_SECTOR_WRITEBACK: a sector leaves the home L2 (R268; DEDUCED, log entry 31). -/
def execL2SectorWriteback (sector : Nat) (s : State) : Host.Outcome State Fault Refusal :=
  .next { s with mem := s.mem.dropSector sector }

/-- WATCHDOG_EXPIRY: a context's count on a core has reached the limit (R390, R391). -/
def execWatchdogExpiry (ctx core : Nat) (s : State) : Host.Outcome State Fault Refusal :=
  let x := s.d.share ctx core
  if s.d.wdoglim ≠ 0 && x.holds && s.d.wdoglim * 2 ^ 20 ≤ x.watch then .next (s.endCtx ctx 0x32 2 core) else .next s

end Sys2Proof.Machine
end

