-- ==== Sys2Proof/Machine/Manage.lean ====
section
/-! DEFINITION. Deimos and what happens to the module: the mailbox commands, sensors and life histograms, the scrub, the
boot, failures of units and links, and the loss of power (R10, R247, R394-R398, R401-R414). -/

namespace Sys2Proof.Machine

/-! ### The mailbox (R410, R411) -/

/-- Deimos changed. -/
def State.mapDeimos (s : State) (f : Deimos → Deimos) : State := { s with d := { s.d with deimos := f s.d.deimos } }

/-- The command's result kept until its status is written (R410). -/
def State.mbResult (s : State) (status : Nat) : State :=
  { s with d := { s.d with mbox := { s.d.mbox with pending := false, result := status } } }

/-- A command performed where Deimos has it in hand; nothing otherwise (DEDUCED, log entry 46). -/
def State.mbRun (s : State) (code : Nat) (f : State → State × Nat) : Host.Outcome State Fault Refusal :=
  if s.d.mbox.pending && s.d.mbox.cmd = code then .next ((f s).1.mbResult (f s).2) else .next s

/-- The physical address of `n` bytes of host memory at a buffer's address; none outside it (R253). -/
def hostBuf (addr n : Nat) : Option Nat :=
  if addr + n ≤ 0x8000000000000 then some (0x8000000000000 + addr) else none

/-- Bytes written to a command's buffer: status 0, or 1 where the buffer is outside host memory. -/
def State.mbWrite (s : State) (addr : Nat) (bs : List Byte) : State × Nat :=
  match hostBuf addr bs.length with
  | some pa => (s.putMem pa bs, 0)
  | none => (s, 1)

/-- Whether every context is FREE (R411). -/
def Dev.allFree (d : Dev) : Bool := d.ctxs.all fun p => p.2.state == .free

/-- An entry of the event log, the oldest overwritten (R407). -/
def State.logEvent (s : State) : State :=
  let n := s.fresh
  n.2.mapDeimos fun m => { m with log := (m.log ++ [n.1]).drop (m.log.length + 1 - 65536) }

/-- SENSORS (R408, R411; DEDUCED, log entry 32). -/
def execSensors (s : State) : Host.Outcome State Fault Refusal :=
  s.mbRun 0x01 fun t => t.mbWrite t.d.mbox.arg0 (t.d.deimos.samples.flatMap fun v => bytesLE 8 v)

/-- LOGREAD (R411; DESIGN CHOICE, log entry 19). -/
def execLogread (s : State) : Host.Outcome State Fault Refusal :=
  s.mbRun 0x02 fun t =>
    let es := t.d.deimos.log.take t.d.mbox.arg1
    let r := t.mbWrite t.d.mbox.arg0 (es.flatMap fun e => (List.range 64).map (Config.logByte e))
    if r.2 = 0 then (r.1.mapDeimos fun m => { m with log := m.log.drop es.length }, 0) else r

/-- LIFEREAD: the histograms, the identity key and its certificate (R409, R411, R414; DESIGN CHOICE, log entry 19). -/
def execLiferead (s : State) : Host.Outcome State Fault Refusal :=
  s.mbRun 0x03 fun t => t.mbWrite t.d.mbox.arg0 (Config.lifeBytes t.d.deimos.histo ++ Config.publicKey ++ Config.certificate)

/-- RETIRED (R395, R411): the addresses of the retired frames (DEDUCED, log entry 37). -/
def execRetired (s : State) : Host.Outcome State Fault Refusal :=
  s.mbRun 0x04 fun t => t.mbWrite t.d.mbox.arg0 (t.d.deimos.retired.flatMap fun f => bytesLE 8 (f * 65536))

/-- The eight dies changed. -/
def State.mapDies (s : State) (f : Nat → Die → Die) : State := (List.range 8).foldl (fun t k => t.mapDie k (f k)) s

/-- SETPWR (R406, R408, R411; DEDUCED, log entry 34). A die under a thermal cut keeps its 32 until it has cooled (R408; DEDUCED,
log entry 33). -/
def execSetpwr (s : State) : Host.Outcome State Fault Refusal :=
  s.mbRun 0x05 fun t =>
    let budget := bitsOf t.d.mbox.arg0 15 0
    let ramp := bitsOf t.d.mbox.arg0 23 16
    if ramp = 0 then (t, 1)
    else ((t.mapDies fun k x => { x with budget := if t.d.deimos.thermal.getD k false then x.budget else budget, ramp := ramp }).mapDeimos fun m => { m with ceiling := budget }, 0)

/-- SETSPLIT (R254, R411). -/
def execSetsplit (s : State) : Host.Outcome State Fault Refusal :=
  s.mbRun 0x06 fun t =>
    if 16 < t.d.mbox.arg0 then (t, 1)
    else if !t.d.allFree then (t, 2)
    else ({ t with d := { t.d with iw := t.d.mbox.arg0 } }, 0)

/-- SETDEV (R401, R411; DEDUCED, log entry 34). -/
def execSetdev (s : State) : Host.Outcome State Fault Refusal :=
  s.mbRun 0x07 fun t =>
    if !t.d.allFree then (t, 2) else ({ t with d := { t.d with devnum := bitsOf t.d.mbox.arg0 11 0 } }, 0)

/-- A route table entry: the device and the mask of links (R411). -/
def routeOf (e : Nat) : Nat × Nat := (bitsOf e 11 0, bitsOf e 47 24)

/-- ROUTES (R404, R411). -/
def execRoutes (s : State) : Host.Outcome State Fault Refusal :=
  s.mbRun 0x08 fun t =>
    let n := t.d.mbox.arg1
    match hostBuf t.d.mbox.arg0 (8 * n) with
    | none => (t, 1)
    | some pa =>
      let es := (List.range n).map fun k => t.mem.nat (pa + 8 * k) 8
      if es.any fun e => bitsOf e 23 12 ≠ 0 || bitsOf e 63 48 ≠ 0 then (t, 1)
      else (t.mapDeimos fun m => { m with routes := es.map routeOf }, 0)

/-- SCRUB (R394, R411). -/
def execScrub (s : State) : Host.Outcome State Fault Refusal :=
  s.mbRun 0x09 fun t =>
    let h := t.d.mbox.arg0
    if 1 ≤ h && h ≤ 168 then (t.mapDeimos fun m => { m with scrubHours := h }, 0) else (t, 1)

/-- SETMODE (R413; DEDUCED, log entry 35). -/
def execSetmode (s : State) : Host.Outcome State Fault Refusal :=
  s.mbRun 0x0A fun t =>
    let v := t.d.mbox.arg0
    if !(v = 1 || v = 3 || v = 4 || v = 5) then (t, 1)
    else if t.d.bootState = 0 || t.d.bootState = 2 || (v = 1 && t.d.needsReset) then (t, 2)
    else ({ t with d := { t.d with bootState := v, needsReset := t.d.needsReset || v = 5 } }, 0)

/-! ### Firmware and attestation (R412, R414) -/

/-- FWSTAGE: an image from host memory is checked and written to the slot not booted from (R412; DESIGN CHOICE, log entry 20). -/
def execFwstage (s : State) : Host.Outcome State Fault Refusal :=
  s.mbRun 0x10 fun t =>
    match hostBuf t.d.mbox.arg0 t.d.mbox.arg1 with
    | none => (t, 1)
    | some pa =>
      let image := t.mem.bytes pa t.d.mbox.arg1
      if Config.imageOk image && t.d.deimos.fuse ≤ Config.imageVersion image then
        (t.mapDeimos fun m => { m with slots := m.slots.set (1 - m.bootSlot) image }, 0)
      else (t, 3)

/-- Whether Deimos, and the boot ROM, take the image of a slot: its signature and digests, and a version that the fuse counter allows
(R412). -/
def Deimos.slotOk (m : Deimos) (k : Nat) : Bool :=
  let image := m.slots.getD k []
  Config.imageOk image && m.fuse ≤ Config.imageVersion image

/-- FWACT: a verified slot is marked to boot next (R411, R412). -/
def execFwact (s : State) : Host.Outcome State Fault Refusal :=
  s.mbRun 0x11 fun t =>
    let k := t.d.mbox.arg0
    if 1 < k then (t, 1)
    else if t.d.deimos.slotOk k then
      (t.mapDeimos fun m => { m with nextSlot := k }, 0)
    else (t, 3)

/-- A list of bytes of length `n`, with zeros behind it. -/
def padTo (n : Nat) (bs : List Byte) : List Byte := bs.take n ++ List.replicate (n - bs.length) 0#8

/-- The signed part of an attestation report over a nonce (R414). -/
def Dev.reportBody (d : Dev) (nonce : List Byte) : List Byte :=
  (List.range 32).map (Config.shakeByte Config.publicKey) ++
  padTo 32 (bytesLE 4 d.deimos.fuse ++ bytesLE 4 d.bootWord ++ bytesLE 4 d.devnum) ++ padTo 32 nonce ++
  padTo 1696 (d.deimos.measures.flatMap fun m => padTo 64 m)

/-- ATTEST (R414; DESIGN CHOICE, log entry 20). -/
def execAttest (s : State) : Host.Outcome State Fault Refusal :=
  s.mbRun 0x20 fun t =>
    match hostBuf t.d.mbox.arg0 32 with
    | none => (t, 1)
    | some pa =>
      let body := t.d.reportBody (t.mem.bytes pa 32)
      t.mbWrite t.d.mbox.arg1 (body ++ (List.range 1280).map (Config.signByte body))

/-- The codes of the commands (R411). -/
def mbCodes : List Nat := [0x01, 0x02, 0x03, 0x04, 0x05, 0x06, 0x07, 0x08, 0x09, 0x0A, 0x10, 0x11, 0x20]

/-- MAILBOX_COMMAND_DONE: the status is written with BUSY cleared, and the MSI-X message follows (R410). -/
def execMailboxCommandDone (s : State) : Host.Outcome State Fault Refusal :=
  let m := s.d.mbox
  if !m.busy || (m.pending && mbCodes.contains m.cmd) then .next s
  else
    let x : Mailbox := { m with busy := false, pending := false, status := if m.pending then 4 else m.result }
    .next { s with d := { s.d with
      mbox := x, msix := if m.vec.testBit 31 then bitsOf m.vec 11 0 :: s.d.msix else s.d.msix } }

/-! ### Sensors, budgets and histograms (R408, R409) -/

/-- The values of a sample in the order of R408 (DEDUCED, log entry 32). -/
def Sample.values (x : Sample) : List Nat :=
  ((List.range 8).flatMap fun d => [x.dieTemp.getD d 0, x.dieVolt.getD d 0, x.dieAmp.getD d 0]) ++
  (List.range 2).map (fun k => x.ioTemp.getD k 0) ++ (List.range 16).map (fun k => x.stackTemp.getD k 0) ++ [x.power]

/-- Whether a die or one of its stacks is hotter than its limit, less a margin (R408). -/
def Sample.hot (x : Sample) (die margin : Nat) : Bool :=
  105 - margin < x.dieTemp.getD die 0 || 95 - margin < x.stackTemp.getD (2 * die) 0 || 95 - margin < x.stackTemp.getD (2 * die + 1) 0

/-- A budget lowered by one eighth, not below 32 (R408; DEDUCED, log entry 33). -/
def lowerBudget (b : Nat) : Nat := if b ≤ 32 then b else Nat.max 32 (b - b / 8)

/-- Whether two maps of budgets give the eight dies the same. -/
def Dev.sameBudgets (a b : Dev) : Bool := (List.range 8).all fun k => (a.die k).budget = (b.die k).budget

/-- One die's thermal cut taken or ended (R408). -/
def State.thermalDie (x : Sample) (s : State) (k : Nat) : State :=
  let cut := s.d.deimos.thermal.getD k false
  if !cut && Sample.hot x k 0 then
    ((s.mapDeimos fun m => { m with thermal := m.thermal.put k true }).mapDie k fun y => { y with budget := 32 }).logEvent
  else if cut && !Sample.hot x k 5 then
    ((s.mapDeimos fun m => { m with thermal := m.thermal.del k }).mapDie k fun y => { y with budget := s.d.deimos.ceiling }).logEvent
  else s

/-- The budgets of the dies without a thermal cut changed, with a log entry where one changes (R408). -/
def State.moveBudgets (s : State) (f : Nat → Nat) : State :=
  let t := s.mapDies fun k y => if s.d.deimos.thermal.getD k false then y else { y with budget := f y.budget }
  if t.d.sameBudgets s.d then t else t.logEvent

/-- The bin of a temperature: 5 °C from 20 °C to 120 °C (R409). -/
def tempBin (t : Nat) : Nat := Nat.min 19 ((t - 20) / 5)

/-- The seconds of a sample counted in the histograms (R409). -/
def State.countSample (s : State) (x : Sample) : State :=
  let dies := (List.range 8).foldl (fun t k =>
    (t.lifeCount (1000 + tempBin (x.dieTemp.getD k 0)) 1).lifeCount (3000 + x.dieVolt.getD k 0 / 10) 1) s
  (List.range 16).foldl (fun t k => t.lifeCount (2000 + tempBin (x.stackTemp.getD k 0)) 1) dies

/-- SENSOR_SAMPLE: a sample of every sensor, 1 ms after the one before (R408, R409; DEDUCED, log entry 33). -/
def execSensorSample (sample : Sample) (s : State) : Host.Outcome State Fault Refusal :=
  let m := s.d.deimos
  let powers := (sample.power :: m.powers).take 10
  let sum := powers.foldl (· + ·) 0
  let full := powers.length = 10
  let low := if full && sum < 25000 then m.lowSince + 1 else 0
  let tick := (m.ticks + 1) % 1000
  let s1 := s.mapDeimos fun y =>
    { y with samples := Sample.values sample, powers := powers, lowSince := if low = 100 then 0 else low, ticks := tick }
  let s2 := if tick = 0 then s1.countSample sample else s1
  let s3 := (List.range 8).foldl (State.thermalDie sample) s2
  let s4 :=
    if full && 27000 < sum then s3.moveBudgets lowerBudget
    else if low = 100 then s3.moveBudgets fun b => if m.ceiling ≤ b then b else Nat.min m.ceiling (b + b / 8)
    else s3
  .next s4

/-- LIFE_HISTOGRAM_FLUSH: the histograms are written to flash (R409). -/
def execLifeHistogramFlush (s : State) : Host.Outcome State Fault Refusal :=
  .next (s.mapDeimos fun m => { m with flash := m.histo })

/-- PATROL_SCRUB: lines of a stack with uncorrectable errors take marks, but for those the L2 holds dirty; rows that fail
are recorded, and the stack's next interval begins (R394, R395). -/
def execPatrolScrub (stack : Nat) (badLines badFrames : List Nat) (s : State) : Host.Outcome State Fault Refusal :=
  let here := fun (pa : Nat) => isDevice pa && homeStack s.d.iw pa = stack
  let isDirty := fun (sec : Nat) => ((s.mem.hbm.find sec).map HbmSector.dirty).getD false
  let lines := badLines.filter fun l => here (l * 64) && !isDirty (2 * l) && !isDirty (2 * l + 1)
  let marked : State := { s with mem := lines.foldl PMem.setMark s.mem }
  let counted := marked.lifeCount 4021 lines.length
  let rows := (lines.map fun l => hbmRow s.d.iw (l * 64)) ++
    (badFrames.filter fun f => (List.range 16).any fun k => here (f * 65536 + k * 4096)).map fun f => f * 16 + stack % 16
  .next ((rows.foldl State.rowFailing counted).mapDeimos fun m => { m with corrected := m.corrected.filter fun r => r.1 % 16 ≠ stack })

/-! ### The boot (R10, R391-R396, R412-R414) -/

/-- The passing cores of a die. -/
def BootResult.goodCores (r : BootResult) (k : Nat) : Nat := ((List.range 34).filter fun p => !r.badCores.contains (34 * k + p)).length

/-- The dies with fewer than 32 passing cores. -/
def BootResult.shortDies (r : BootResult) : List Nat := (List.range 8).filter fun k => BootResult.goodCores r k < 32

/-- The physical core that has a logical core's place but for repair (R10). -/
def ownPhys (g : Nat) : Nat := 34 * (g / 32) + g % 32

/-- The spare that serves each logical number of a die that a failed core leaves: the spare it has, else the lowest that is
left, in increasing order (R10, R397; DEDUCED, log entry 36). -/
def Deimos.spareMap (m : Deimos) (failed : List Nat) (k : Nat) : List (Nat × Nat) :=
  let had := m.spares.filter fun x => x.1 / 32 = k && failed.contains (ownPhys x.1) && !failed.contains x.2
  let need := ((List.range 32).map fun p => 32 * k + p).filter fun g => failed.contains (ownPhys g) && had.all fun x => x.1 ≠ g
  let left := [34 * k + 32, 34 * k + 33].filter fun p => !failed.contains p && had.all fun x => x.2 ≠ p
  had ++ need.zip left

/-- The slot that boots: the one chosen, else the other (R412). -/
def Deimos.bootsFrom (m : Deimos) : Option Nat :=
  if m.slotOk m.nextSlot then some m.nextSlot else if m.slotOk (1 - m.nextSlot) then some (1 - m.nextSlot) else none

/-- A mask of dies. -/
def dieMask (ks : List Nat) : Nat := ((List.range 8).filter fun k => ks.contains k).foldl (fun m k => m + 2 ^ k) 0

/-- REASON and DIEMASK of a boot (R396; DEDUCED, log entry 36). -/
def BootResult.reason (r : BootResult) (m : Deimos) : Nat × Nat :=
  if !(BootResult.shortDies r).isEmpty then (1, dieMask (BootResult.shortDies r))
  else if !r.badStacks.isEmpty then (2, dieMask (r.badStacks.map fun k => k / 2))
  else if m.bootsFrom.isNone then (3, 0)
  else (0, 0)

/-- What Deimos keeps over a reset of the device (R407, R412; DEDUCED, log entry 36). -/
def Deimos.kept (m : Deimos) : Deimos :=
  { Deimos.reset with
    log := m.log, histo := m.histo, flash := m.flash, failRows := m.failRows, retired := m.retired, spares := m.spares, failed := m.failed
    routes := m.routes, slots := m.slots, nextSlot := m.nextSlot, bootSlot := m.bootSlot, fuse := m.fuse }

/-- Memory after the contents of HBM are lost; failing rows stay (R393, R395). -/
def PMem.lost (m : PMem) : PMem := { PMem.reset with cells := m.cells.filter fun p => isHost p.1, dead := m.dead }

/-- The device reset: everything but what Deimos and the host keep (R393, R407, R413; DESIGN CHOICE, log entry 7). -/
def State.resetDevice (s : State) : State :=
  { s with
    w := Warp.absent, mem := s.mem.lost
    d := { Dev.reset with
      deimos := s.d.deimos.kept, msix := s.d.msix, linkOut := s.d.linkOut, linkCopy := s.d.linkCopy, nextId := s.d.nextId
      free := s.d.free } }

/-- The SHAKE256 digest of 512 bits of a message (R412, R414). -/
def digest512 (bs : List Byte) : List Byte := (List.range 64).map (Config.shakeByte bs)

/-- The measurements of a boot: the three stages of its image, and the configuration then active (R414). -/
def bootMeasures (image : List Byte) (k : Nat) : List (List Byte) :=
  ((List.range 3).map fun i => digest512 (Config.imageStage image i)) ++ [digest512 (Config.activeConfig k)]

/-- The granules of 4 KiB that a row, a frame × 16 + stack, covers under an interleave (R254, R395). -/
def rowGranules (iw row : Nat) : List Nat :=
  ((List.range 16).map fun k => row / 16 * 16 + k).filter fun g => homeStack iw (g * 4096) % 16 = row % 16

/-- The repairs of a boot: spares take the numbers of failed cores, failing rows are replaced, and rows without a spare stay
failing in frames that are retired (R395, R396, R409). `iw` is the interleave before the boot. -/
def State.repairBoot (s : State) (r : BootResult) (iw : Nat) : State :=
  let m := s.d.deimos
  let stays := m.failRows.filter fun k => r.retiredFrames.contains (k / 16)
  let gone := ((stays.map fun k => k / 16).eraseDups).filter fun f => !m.retired.contains f
  let failed := (m.failed ++ r.badCores).eraseDups
  let spares := (List.range 8).flatMap (m.spareMap failed)
  let s1 := s.mapDeimos fun y => { y with failRows := [], retired := y.retired ++ gone, spares := spares, failed := failed }
  let s2 : State := { s1 with mem := { s1.mem with dead := (s1.mem.dead ++ stays.flatMap (rowGranules iw)).eraseDups } }
  let s3 := (m.failRows.filter fun k => !stays.contains k).foldl (fun t k => t.lifeCount (6100 + k % 16) 1) s2
  let s4 := (spares.filter fun x => m.spares.all fun y => y.2 ≠ x.2).foldl (fun t x => t.lifeCount (6000 + x.1 / 32) 1) s3
  s4.lifeCount 6200 gone.length

/-- BOOT: a reset of the device, its tests and repairs, and the check and measurement of its firmware (R396, R412-R414). What
booted boots again until FWACT selects another slot (R418). -/
def execBoot (res : BootResult) (s : State) : Host.Outcome State Fault Refusal :=
  let s1 := s.resetDevice.repairBoot res s.d.iw
  let why := BootResult.reason res s1.d.deimos
  let s2 : State := { s1 with d := { s1.d with
    hlstat := res.rate % 256 + res.lanes % 256 * 256, bootState := if why.1 = 0 then 3 else 2, bootStat := why.1 + why.2 * 256 } }
  match (if why.1 = 0 then s1.d.deimos.bootsFrom else none) with
  | none => .next s2
  | some k => .next (s2.tick.mapDeimos fun m =>
      { m with bootSlot := k, nextSlot := k, fuse := Nat.max m.fuse (Config.imageVersion (m.slots.getD k [])), measures := bootMeasures (m.slots.getD k []) s2.d.free })

/-- POWER_LOSS: the module loses power: HBM's contents and the counts since the last flush go (R393, R409). -/
def execPowerLoss (s : State) : Host.Outcome State Fault Refusal :=
  .next (s.resetDevice.mapDeimos fun m => { m with histo := m.flash })

/-! ### Failures (R397, R398, R402, R404, R407) -/

/-- A record 0x3F to a context, and its end with cause 0x0003 (R390, R397, R398). `core` is 256 outside the cores (DEDUCED, log entry 81). -/
def State.failCtx (unit core die : Nat) (s : State) (c : Nat) : State :=
  (s.note { FaultRec.engine 0x3F 6 c (if core < 256 then core else die * 32) with d0 := BitVec.ofNat 32 unit }).endCtx c 0x32 3 core

/-- The frames that wait for a failed core alone dropped, each counted and recorded by the die whose queue it was in; others go elsewhere (R281, R397). -/
def State.dropSpawns (s : State) (g : Nat) : State :=
  let gone := s.d.dies.flatMap fun p => (p.2.spawn.filter fun e => e.cores == [g] && (s.d.ctx e.ctx).state != .ending).map fun e => (p.1 * 32, e)
  let keep := fun (x : Die) => { x with spawn := x.spawn.filter fun e => !(e.cores == [g]) }
  let s1 : State := { s with d := { s.d with dies := s.d.dies.map fun p => (p.1, keep p.2) } }
  gone.foldl (fun t e => t.dropEnt e.1 e.2) s1

/-- The physical core that serves a logical one (R10). -/
def Deimos.physCore (m : Deimos) (g : Nat) : Nat := ((m.spares.find? fun x => x.1 = g).map Prod.snd).getD (ownPhys g)

/-- What the copy engine of a failed core still had for contexts that have ended, gone. -/
def State.dropOrphans (s : State) (g : Nat) : State :=
  { s with d := { s.d with shares := s.d.shares.map fun p =>
      if p.1 % 256 = g && (s.d.ctx (p.1 / 256)).state == .free then (p.1, p.2.discarded false) else p } }

/-- CORE_FAILURE: the contexts that hold a slot on the core end, and the core is offline (R397); Deimos keeps that it failed for
the next boot. -/
def execCoreFailure (core unit : Nat) (s : State) : Host.Outcome State Fault Refusal :=
  if 256 ≤ core || unit = 0 || 7 < unit || (s.d.core core).offline then .next s
  else
    let cs := (s.d.holders core).map fun p => p.1 / 256
    let s0 := (s.mapDeimos fun m => { m with failed := (m.failed ++ [m.physCore core]).eraseDups }).lifeCount (5000 + unit) cs.length
    let s1 := (cs.foldl (State.failCtx unit core 0) s0).mapCore core fun x => { x with offline := true, grant := none }
    let s2 := cs.foldl (fun t c => t.haltCopies c core) s1
    .next ((s2.dropOrphans core).dropSpawns core)

/-- UNIT_FAILURE: a unit outside the cores, or Deimos, fails: every resident context ends, and the device is in recovery
mode (R398, R407). -/
def execUnitFailure (unit die : Nat) (s : State) : Host.Outcome State Fault Refusal :=
  if unit < 8 || 13 < unit || 8 ≤ die then .next s
  else
    let cs := (s.d.ctxs.filter fun p => p.2.state != .free && p.2.state != .ending).map Prod.fst
    let s1 := cs.foldl (State.failCtx unit 256 die) (s.lifeCount (5000 + unit) cs.length)
    .next { s1 with d := { s1.d with bootState := 5, needsReset := true } }

/-- The messages of one path dropped with reason 7, in order (R404; DEDUCED, log entry 43). -/
def State.dropPath (s : State) (c link : Nat) : State :=
  let onPath := fun (m : Msg) => m.item.tok.ctx = c && m.item.tok.device ≠ s.d.devnum &&
    (s.d.ctx c).paths.find m.item.tok.device = some link
  let lost := s.d.net.filter onPath
  let s1 : State := { s with d := { s.d with net := s.d.net.filter fun m => !onPath m } }
  let s2 := lost.foldl (fun t m => t.dropTok m.item.tok 7 (if m.sender < 256 then m.sender else 0)) s1
  s2.mapCtx c fun k => { k with paths := k.paths.filter fun p => p.2 ≠ link }

/-- LINK_DOWN: a device link goes down with every circuit bound to it (R404; DEDUCED, log entry 43). -/
def execLinkDown (link : Nat) (s : State) : Host.Outcome State Fault Refusal :=
  if !s.d.linkUp link then .next s
  else
    let s1 : State := { s with d := { s.d with links := s.d.links.upd link Link.absent fun x => { x with up := false } } }
    .next ((s1.d.ctxs.map Prod.fst).foldl (fun t c => t.dropPath c link) s1)

/-- DEVICE_LINK_UP: a device link trains, or changes its DEGRADED state (R401, R404). -/
def execDeviceLinkUp (link peer : Nat) (degraded : Bool) (s : State) : Host.Outcome State Fault Refusal :=
  if 24 ≤ link then .next s
  else .next { s with d := { s.d with
    links := s.d.links.put link { up := true, trained := true, degraded := degraded, peer := peer % 4096 } } }

/-- HOST_LINK_FAILURE: the host link fails; contexts keep running (R402). -/
def execHostLinkFailure (s : State) : Host.Outcome State Fault Refusal := .next { s with d := { s.d with hostDown := true } }

end Sys2Proof.Machine
end

