-- ==== Sys2Proof/Machine/Moves.lean ====
section
/-! DEFINITION. `MOVS` with its record and replay points, and `TCSET` (R56-R58, R121, R129, R285, R286). -/

namespace Sys2Proof.Machine

/-- The value of a special register in a lane (R56, R57). -/
def State.special (s : State) (r : SReg) (l : Nat) : Nat :=
  let w := s.w
  match r with
  | .fpl => w.frame.getD l 0
  | .tag => (w.tag.getD l 0).toNat
  | .lane => l
  | .nlane => popLanes w.filled
  | .blk => w.blk
  | .core => w.core % 32
  | .die => w.core / 32
  | .dev => s.d.devnum
  | .clk => (s.d.core w.core).clk

/-- The REG code of a record point; none for a register that is none (R285). -/
def recCode : SReg → Option Nat
  | .clk => some 0
  | .core => some 1
  | .die => some 2
  | .dev => some 3
  | _ => none

/-- The key of a lane's record entry: words 0 to 3 (R285). -/
def State.recKey (s : State) (code l : Nat) : List Word :=
  let w := s.w
  let f := (s.d.share w.ctx w.core).frames.find (w.frame.getD l 0)
  let id := match f with
    | some x => (x.fidLo, x.fidHi)
    | none => (0, 0)
  [id.1, id.2, BitVec.ofNat 32 (code * 32 + w.ord.getD l 0 % 512 * 128 + w.blk % 65536 * 65536), w.tag.getD l 0]

/-- Whether the buffer's limit is reached (R285). -/
def State.recFull (s : State) : Bool := let c := s.d.ctx s.w.ctx; c.reclim < c.recptr + 32

/-- One entry appended at RECPTR in the task's view, which advances by 32; none while a page of the pool is lacking for it
(R285, R343, R346; DEDUCED, log entry 61). -/
def State.recAppend (s : State) (code value l : Nat) : Option State :=
  let c := s.d.ctx s.w.ctx
  let ws := s.recKey code l ++ [BitVec.ofNat 32 value, BitVec.ofNat 32 (value / 2 ^ 32), 0, 0]
  (s.writeFor s.w.ctx s.w.task c.recptr (ws.flatMap fun x => bytesLE 4 x.toNat)).map fun t =>
    t.mapCtx s.w.ctx fun k => { k with recptr := k.recptr + 32 }

/-- The value of the replay entry with a lane's key: `n` entries are left (R286). -/
def State.recFind (s : State) (key : List Word) : Nat → Nat → Option Nat
  | 0, _ => none
  | n + 1, at_ =>
    if ofWords key = s.natVirt s.w.ctx at_ 16 then some (s.natVirt s.w.ctx (at_ + 16) 8)
    else State.recFind s key n (at_ + 32)

/-- What the record points of a word come to: the state, each lane's value, the cause that ends the context, and whether a
page of the pool was lacking. -/
structure RecRun where
  state : State
  vals : Map Nat
  cause : Option Nat
  lack : Bool := false

/-- One lane's record point (R285, R286). -/
def RecRun.point (r : SReg) (code : Nat) (x : RecRun) (l : Nat) : RecRun :=
  let s := x.state
  let c := s.d.ctx s.w.ctx
  let true_ := s.special r l
  let bump := fun (t : State) => t.mapWarp fun w => { w with ord := w.ord.put l (w.ord.getD l 0 + 1) }
  match c.mode with
  | 1 =>
    if s.recFull then { state := bump s, vals := x.vals.put l true_, cause := some 4, lack := x.lack }
    else match s.recAppend code true_ l with
      | some t => { state := bump t, vals := x.vals.put l true_, cause := x.cause, lack := x.lack }
      | none => { x with lack := true }
  | 2 => match s.recFind (s.recKey code l) ((c.reclim - c.recptr) / 32) c.recptr with
    | some v => { state := bump s, vals := x.vals.put l v, cause := x.cause }
    | none => { state := bump s, vals := x.vals.put l true_, cause := some 5 }
  | _ => { state := bump s, vals := x.vals.put l true_, cause := x.cause }

/-- The fault of the record buffer's next `n` entries in record mode: its code and address (R332, R342). -/
def State.recMiss (s : State) (n : Nat) : Option (Nat × Nat) :=
  let c := s.d.ctx s.w.ctx
  let len := if c.mode = 1 && decide (c.recptr + 32 * n ≤ c.reclim) then 32 * n else 0
  let pages := if len = 0 then [] else (List.range ((c.recptr + len + 65535) / 65536 - c.recptr / 65536)).map fun k => if k = 0 then c.recptr else (c.recptr / 65536 + k) * 65536
  pages.findSome? fun a => match s.walk s.w.ctx a with
    | none => some (0x20, a)
    | some x => if x.canWrite && !c.hostBarred a x.pa then none else some (0x21, a)

/-- The word parked where its record entry needs a page that the pool does not have (R346). -/
def State.recStarve (s : State) : State :=
  (s.mapCtx s.w.ctx fun k => { k with rpparked := satNat 16 (k.rpparked + 1) }).parkTransl 0x20 s.w.filled (s.d.ctx s.w.ctx).recptr 3

/-- The lanes whose record points a `MOVS` passes: every active lane, or the lowest filled one under `.S`. -/
def movsLanes (w : Warp) (x : Alu2) : List Nat :=
  if x.ctl.sc then (if w.scalarOn x.g then [lowLane w.filled] else []) else lanesOf (w.active x.g)

/-- The value a `MOVS` writes in a lane (DEDUCED, log entry 61). -/
def State.movsValue (s : State) (x : Alu2) (r : SReg) (l : Nat) : Nat :=
  if x.fn = 1 then (handleOf s.w.core (s.w.frame.getD l 0)).toNat else s.special r l

/-- `MOVS` (R129). -/
def execMovs (x : Alu2) (s : State) : Host.Outcome State Fault Refusal :=
  s.checked (.movs x) fun t =>
    let r : SReg := match x.a with
      | .sp y => y
      | _ => .tag
    let lanes := movsLanes t.w x
    let put := fun (f : Nat → Nat) (w : Warp) => w.alu2 x x.ty.regs f
    match recCode r with
    | none => (t.mapWarp (put (t.movsValue x r))).advance (.movs x)
    | some code =>
      match t.recMiss lanes.length with
      | some e => t.parkTransl e.1 t.w.filled e.2 1
      | none =>
        let run := lanes.foldl (RecRun.point r code) { state := t, vals := [], cause := none }
        let val := fun l => run.vals.getD (if x.ctl.sc then lowLane t.w.filled else l) 0
        let done := (run.state.mapWarp (put val)).advance (.movs x)
        if run.lack then t.recStarve
        else match run.cause with
        | some cause => done.endCtx t.w.ctx 0x32 cause t.w.core
        | none => done

/-- `TCSET` (R121): from IMM32, or from the low halves of A and B (DEDUCED, log entry 63). -/
def execTcset (x : SysI) (s : State) : Host.Outcome State Fault Refusal :=
  s.wordOn (.tcset x) fun w =>
    match x.b with
    | .imm32 v => { w with tilecoord := v }
    | .spec y =>
      { w with tilecoord := BitVec.ofNat 32 ((w.read32 x.a 0).toNat % 65536 * 65536 + (w.read32 y 0 1).toNat % 65536) }

end Sys2Proof.Machine
end

