-- ==== Sys2Proof/Machine/Pair.lean ====
section
/-! DEFINITION. The pair word: an integer slot and a floating-point slot (R82-R84, R51). -/

namespace Sys2Proof

/-- The predicate source field of a slot's `ISEL` (R77, R82). -/
def Slot.psel (x : Slot) : PSrc :=
  match x.c with
  | .v k => { neg := k.getLsbD 3, p := BitVec.ofNat 3 k.toNat }
  | _ => { neg := false, p := 7 }

/-- The predicate a compare slot writes. -/
def Slot.pdst (x : Slot) : Nat :=
  match x.d with
  | .v k => k.toNat
  | _ => 7

/-- Whether a slot writes a V register. -/
def Slot.writesV (x : Slot) (isX : Bool) : Bool := !x.isEmpty && !x.isCmp isX

namespace Machine

/-- The active lanes of a slot. -/
def Warp.slotActive (w : Warp) (x : Slot) : Lanes := w.active { pr := x.pr, pn := x.pn }

/-- The rounding code of a slot. -/
def Slot.mode (w : Warp) (x : Slot) : Rnd :=
  match decRnd x.rnd.toNat with
  | .ok r => rndOf w.fmode r
  | .error _ => .rne

/-- The result of slot X in a lane, by compact operation (R83). -/
def Warp.slotX (w : Warp) (x : Slot) (l : Nat) : Nat :=
  let a := w.src x.ty x.a l
  let b := w.src x.ty x.b l 1
  match x.cop.toNat with
  | 0x01 => intElems x.ty false (· + ·) a b
  | 0x02 => intElems x.ty false (· - ·) a b
  | 0x03 => intElems x.ty false (· * ·) a b
  | 0x04 => intElems x.ty false (· + ·) (intElems x.ty false (· * ·) a b) (w.src x.ty x.c l 2)
  | 0x05 => intElems x.ty false (fun p q => if q < p then q else p) a b
  | 0x06 => intElems x.ty false (fun p q => if p < q then q else p) a b
  | 0x07 => bitElems x.ty (· &&& ·) a b
  | 0x08 => bitElems x.ty (· ||| ·) a b
  | 0x09 => bitElems x.ty (· ^^^ ·) a b
  | 0x0A => bitElems x.ty (fun p q => p &&& notN x.ty.width q) a b
  | 0x0B => bitElems x.ty (shlN x.ty.width) a b
  | 0x0C => bitElems x.ty (shrN x.ty.width) a b
  | 0x0D => bitElems x.ty (sarN x.ty.width) a b
  | 0x0F => if (w.psrc x.psel).getLsbD l then a else b
  | 0x11 => leaN x.ty a (w.read32 x.b l 1).toNat (w.read32 x.c l 2).toNat
  | _ => a

/-- The result of slot Y in a lane (R83). -/
def Warp.slotY (w : Warp) (y : Slot) (l : Nat) : Nat :=
  let t := y.ty
  let mode := Slot.mode w y
  let daz := fmodeDaz w.fmode
  let a := w.src t y.a l 4
  let b := w.src t y.b l 5
  let c := w.src t y.c l 6
  match y.cop.toNat with
  | 0x01 => w.roundElems t mode l fun k => FV.add mode (t.fv daz a k) (t.fv daz b k)
  | 0x02 => w.roundElems t mode l fun k => FV.add mode (t.fv daz a k) (t.fv daz b k).negate
  | 0x03 => w.roundElems t mode l fun k => FV.mul (t.fv daz a k) (t.fv daz b k)
  | 0x04 => w.roundElems t mode l fun k => FV.add mode (FV.mul (t.fv daz a k) (t.fv daz b k)) (t.fv daz c k)
  | op => t.join fun k => t.ffmt.pick (op = 6) false daz (fmodeFtz w.fmode) (t.elem a k) (t.elem b k)

/-- The truth of a compare slot in a lane (R83). -/
def Warp.slotCmp (w : Warp) (x : Slot) (isX : Bool) (l : Nat) : Bool :=
  let a := w.src x.ty x.a l (if isX then 0 else 4)
  let b := w.src x.ty x.b l (if isX then 1 else 5)
  if isX then intCond x.ty x.rnd.toNat a b
  else fltCond x.rnd.toNat (FV.cmp (x.ty.fv (fmodeDaz w.fmode) a 0) (x.ty.fv (fmodeDaz w.fmode) b 0))

/-- A slot's writes, its values taken from the warp before the word (R84). -/
def Warp.putSlot (w old : Warp) (x : Slot) (isX : Bool) : Warp :=
  let act := old.slotActive x
  if x.isEmpty then w
  else if x.isCmp isX then w.putPred x.pdst act (maskOf (old.slotCmp x isX))
  else
    let f := if isX then old.slotX x else old.slotY x
    let w1 := w.putLanes x.d 1 act f
    if !isX && fmodeNanp old.fmode then w1.poison (maskOf fun l => act.getLsbD l && x.ty.anyNaN (f l)) else w1

/-- A slot's result as a last-result register: zero in inactive lanes (R51). -/
def Warp.slotLast (old : Warp) (x : Slot) (isX : Bool) : Map Word :=
  (lanesOf (old.slotActive x)).map fun l => (l, BitVec.ofNat 32 (if isX then old.slotX x l else old.slotY x l))

/-- L0 takes slot Y's result and L1 slot X's, each only where its slot writes a V register (R51). -/
def Warp.pairLast (w old : Warp) (p : PairW) : Warp :=
  let w1 := if p.y.writesV false then { w with l0 := old.slotLast p.y false, lprod := w.lprod ||| 1#2 } else w
  if p.x.writesV true then { w1 with l1 := old.slotLast p.x true, lprod := w1.lprod ||| 2#2 } else w1

/-- PAIR_WORD (R84): both slots read before either writes. -/
def execPairWord (p : PairW) (s : State) : Host.Outcome State Fault Refusal :=
  s.wordOn (.pairWord p) fun w => ((w.putSlot w p.x true).putSlot w p.y false).pairLast w p

end Machine

end Sys2Proof
end

