-- ==== Sys2Proof/Machine/Sfu.lean ====
section
/-! DEFINITION. The special functions (R146, R147): values to far more than the precision any bound asks for, the
correctly rounded result where the manual asks for one, and a free choice within the bound where it gives a bound. -/

namespace Sys2Proof

/-- Fraction bits of the fixed-point values below. -/
def fxBits : Nat := 320

/-- One in fixed point. -/
def fxOne : Int := ((2 ^ 320 : Nat) : Int)

/-- π × 2^512, rounded down. -/
def piFx512 : Int := 0x3243f6a8885a308d313198a2e03707344a4093822299f31d0082efa98ec4e6c89452821e638d01377be5466cf34e90c6cc0ac29b7c97c50dd3f84d5b5b5470917

/-- ln 2 × 2^320, rounded down. -/
def ln2Fx : Int := 0xb17217f7d1cf79abc9e3b39803f2f6af40f343267298b62d8a0d175b8baafa2be7b876206debac98

/-- Fixed-point product. -/
def fxMul (a b : Int) : Int := a * b / fxOne

/-- The Taylor series of the exponential: `n` more terms after the term `t` of number `k`. -/
def expGo : Nat → Nat → Int → Int → Int → Int
  | 0, _, _, _, acc => acc
  | n + 1, k, x, t, acc =>
    let t' := fxMul t x / ((k + 1 : Nat) : Int)
    expGo n (k + 1) x t' (acc + t')

/-- `e^x` for a fixed-point `x` from 0 to 1. -/
def fxExp (x : Int) : Int := expGo 80 0 x fxOne fxOne

/-- The alternating series of sine and cosine: term `t` of degree `k`. -/
def trigGo : Nat → Nat → Int → Int → Int → Int
  | 0, _, _, _, acc => acc
  | n + 1, k, xx, t, acc =>
    let t' := -(fxMul t xx / (((k + 1) * (k + 2) : Nat) : Int))
    trigGo n (k + 2) xx t' (acc + t')

/-- `sin x` for a fixed-point `x` from −1 to 1. -/
def fxSin (x : Int) : Int := trigGo 40 1 (fxMul x x) x x

/-- `cos x` for a fixed-point `x` from −1 to 1. -/
def fxCos (x : Int) : Int := trigGo 40 0 (fxMul x x) fxOne fxOne

/-- The series of the inverse hyperbolic tangent: power `p` of odd degree `k`. -/
def atanhGo : Nat → Nat → Int → Int → Int → Int
  | 0, _, _, _, acc => acc
  | n + 1, k, zz, p, acc =>
    let p' := fxMul p zz
    atanhGo n (k + 2) zz p' (acc + p' / ((k + 2 : Nat) : Int))

/-- `ln((1 + z) / (1 − z))` for a fixed-point `z` from 0 to 1/3. -/
def fxLogRatio (z : Int) : Int := 2 * atanhGo 110 1 (fxMul z z) z z

/-- A fixed-point magnitude. -/
def fxMag (x : Int) : Mag := .rat x.natAbs 1 (-320)

/-- `2^x` for the dyadic `x` of the sign given, with exponents limited to ±8192, beyond every format's range. -/
def exp2Mag (neg : Bool) (m : Nat) (e : Int) : Mag :=
  if cmpDyadic m e 8192 0 = .gt then .rat 1 1 (if neg then -8192 else 8192)
  else
    let x : Int := floorRat m 1 (e + 320)
    let y := if neg then -x else x
    let i := y / fxOne
    .rat (fxExp (fxMul (y - i * fxOne) ln2Fx)).natAbs 1 (i - 320)

/-- `e^−x` for the dyadic magnitude `x`, likewise. -/
def expNegMag (m : Nat) (e : Int) : Mag :=
  if cmpDyadic m e 8192 0 = .gt then .rat 1 1 (-8192)
  else
    let y := -((floorRat m 1 (e + 320) : Int) * fxOne / ln2Fx)
    let i := y / fxOne
    .rat (fxExp (fxMul (y - i * fxOne) ln2Fx)).natAbs 1 (i - 320)

/-- `log2 x` in fixed point, for the dyadic `x = m * 2^e` with `m` above zero. -/
def fxLog2 (m : Nat) (e : Int) : Int :=
  let k := m.log2
  let one : Int := ((2 ^ k : Nat) : Int)
  let z := ((m : Int) - one) * fxOne / ((m : Int) + one)
  ((k : Int) + e) * fxOne + fxLogRatio z * fxOne / ln2Fx

/-- `sin x` or `cos x` in fixed point, after the exact reduction of the argument by multiples of π / 2. -/
def fxTrig (isCos neg : Bool) (m : Nat) (e : Int) : Int :=
  let x : Int := floorRat m 1 (e + 512)
  let h := piFx512 / 2
  let n := (x + h / 2) / h
  let r := (x - n * h) / ((2 ^ 192 : Nat) : Int)
  let k := ((if isCos then n + 1 else n) % 4).toNat
  let v := match k with
    | 0 => fxSin r
    | 1 => fxCos r
    | 2 => -fxSin r
    | _ => -fxCos r
  if neg && !isCos then -v else v

/-- The special functions. -/
inductive SfuOp where
  | rcp | rsq | sqrt | exp2 | log2 | sin | cos | tanh | sigm
deriving DecidableEq, Repr

/-- A number for the free choice to be named by. -/
def SfuOp.code : SfuOp → Nat
  | .rcp => 0
  | .rsq => 1
  | .sqrt => 2
  | .exp2 => 3
  | .log2 => 4
  | .sin => 5
  | .cos => 6
  | .tanh => 7
  | .sigm => 8

/-- The exact value or a far finer approximation of it: a sign and a magnitude, or one of the special values of
R147. -/
inductive SfuVal where
  | special (v : FV)
  | real (neg : Bool) (x : Mag)
deriving DecidableEq, Repr

/-- A fixed-point value as a sign and a magnitude. -/
def SfuVal.ofFx (x : Int) : SfuVal := .real (x < 0) (fxMag x)

/-- The value of a special function (R146, R147). -/
def SfuOp.value (op : SfuOp) (a : FV) : SfuVal :=
  match op, a with
  | _, .nan => .special .nan
  | .rcp, .inf s => .special (.fin s 0 0)
  | .rcp, .fin s m e => if m = 0 then .special (.inf s) else .real s (.rat 1 m (-e))
  | .rsq, .inf s => .special (if s then .nan else .fin false 0 0)
  | .rsq, .fin s m e =>
    if m = 0 then .special (.inf s) else if s then .special .nan else .real false (.root 1 m (-e))
  | .sqrt, .inf s => .special (if s then .nan else .inf false)
  | .sqrt, .fin s m e =>
    if m = 0 then .special (.fin s 0 0) else if s then .special .nan else .real false (.root m 1 e)
  | .exp2, .inf s => .special (if s then .fin false 0 0 else .inf false)
  | .exp2, .fin s m e => if m = 0 then .special (.fin false 1 0) else .real false (exp2Mag s m e)
  | .log2, .inf s => .special (if s then .nan else .inf false)
  | .log2, .fin s m e =>
    if m = 0 then .special (.inf true)
    else if s then .special .nan
    else if m = 2 ^ m.log2 then .special (FV.ofInt ((m.log2 : Int) + e))
    else SfuVal.ofFx (fxLog2 m e)
  | .sin, .inf _ => .special .nan
  | .sin, .fin s m e => if m = 0 then .special (.fin s 0 0) else SfuVal.ofFx (fxTrig false s m e)
  | .cos, .inf _ => .special .nan
  | .cos, .fin s m e => if m = 0 then .special (.fin false 1 0) else SfuVal.ofFx (fxTrig true s m e)
  | .tanh, .inf s => .special (.fin s 1 0)
  | .tanh, .fin s m e =>
    if m = 0 then .special (.fin s 0 0)
    else match expNegMag (2 * m) e with
      | .rat n _ k => .real s (.rat (2 ^ (-k).toNat - n) (2 ^ (-k).toNat + n) 0)
      | .root _ _ _ => .special .nan
  | .sigm, .inf s => .special (if s then .fin false 0 0 else .fin false 1 0)
  | .sigm, .fin s m e =>
    if m = 0 then .special (.fin false 1 (-1))
    else match expNegMag m e with
      | .rat n _ k =>
        if s then .real false (.rat n (2 ^ (-k).toNat + n) 0)
        else .real false (.rat (2 ^ (-k).toNat) (2 ^ (-k).toNat + n) 0)
      | .root _ _ _ => .special .nan

/-- Whether `EXP2` of the operand is exact: an integer (R147). -/
def exp2Exact : FV → Option Int
  | .fin s m e =>
    if m = 0 then some 0
    else if 0 ≤ e then some (satInt (if s then -(m * 2 ^ e.toNat : Nat) else (m * 2 ^ e.toNat : Nat)) (-8192) 8192)
    else if m % 2 ^ (-e).toNat = 0 then some (if s then -((m / 2 ^ (-e).toNat : Nat) : Int) else ((m / 2 ^ (-e).toNat : Nat) : Int))
    else none
  | _ => none

/-- The bound of R146 in half units in the last place (1: correctly rounded), or an absolute bound of 2^−22. -/
inductive SfuBound where
  | rounded
  | ulps (n : Nat)
  | absolute
deriving DecidableEq, Repr

/-- The accuracy table (R146); for `LOG2` in binary32 of an operand from 0.5 to 2 the bound is absolute. -/
def SfuOp.bound (op : SfuOp) (f : FFmt) (a : FV) : SfuBound :=
  if f.eb = 11 then (match op with
    | .sqrt => .rounded
    | _ => .ulps 1)
  else if f.mb = 23 then (match op, a with
    | .rcp, _ | .sqrt, _ => .rounded
    | .rsq, _ => .ulps 1
    | .sin, _ | .cos, _ => .absolute
    | .log2, .fin _ m e => if cmpDyadic m e 1 (-1) ≠ .lt && cmpDyadic m e 1 1 ≠ .gt then .absolute else .ulps 2
    | _, _ => .ulps 2)
  else .rounded

/-- Whether `|v − y|` is at most `b * 2^eb` for a finite `v` and a real `y` of the sign and magnitude given. -/
def nearMag (v : FV) (neg : Bool) (x : Mag) (b : Nat) (eb : Int) : Bool :=
  match v with
  | .fin s m e =>
    let g := if e ≤ eb then e else eb
    let w : Int := (m * 2 ^ (e - g).toNat : Nat)
    let c : Int := if s = neg then w else -w
    let d : Int := (b * 2 ^ (eb - g).toNat : Nat)
    (c - d ≤ 0 || x.cmp (c - d).toNat g ≠ .lt) && (0 ≤ c + d && x.cmp (c + d).toNat g ≠ .gt)
  | _ => false

/-- Whether a value is within a bound of the exact one (DESIGN CHOICE, log entry 10). -/
def SfuBound.allows (b : SfuBound) (f : FFmt) (v : FV) (neg : Bool) (x : Mag) : Bool :=
  match b with
  | .rounded => false
  | .absolute => nearMag v neg x 1 (-22)
  | .ulps n =>
    let u := x.lg - (f.mb : Int)
    nearMag v neg x n (if f.emin ≤ u then u else f.emin)

/-- One element of a special function: the bits of the result in the format. Where the bound exceeds half a unit the
value is a free one within the bound, fixed by the operand's bits and the type (DESIGN CHOICE, log entry 10). -/
def sfuElement (op : SfuOp) (f : FFmt) (mode : Rnd) (daz ftz : Bool) (q : Word) (raw : Nat) : Nat :=
  let a := f.read daz raw
  match op.value a with
  | .special v => f.roundFV mode ftz q v
  | .real neg x =>
    match (if op = .exp2 then exp2Exact a else none) with
    | some n => f.roundFV mode ftz q (.fin false 1 n)
    | none =>
      let rounded := f.round mode ftz neg q x
      let pick := Config.sfuValue op.code f.width (raw % 2 ^ f.width) % 2 ^ f.width
      let v := f.read false pick
      if (op.bound f a).allows f v neg x && rounded % 2 ^ (f.width - 1) ≠ f.infBits false then f.roundFV .rne ftz 0 v
      else rounded

end Sys2Proof
end

