-- ==== Sys2Proof/Machine/Special.lean ====
section
/-! DEFINITION. The special function words (R146, R147). -/

namespace Sys2Proof.Machine

/-- A special function of each element (R146). -/
def Warp.sfu (w : Warp) (x : Alu2) (op : SfuOp) : Warp :=
  let mode := if op = .sqrt then rndOf w.fmode x.rnd else .rne
  w.putFlt x.ctl x.d x.ty (w.active x.g) fun l =>
    let a := w.src x.ty x.a l
    x.ty.join fun k =>
      sfuElement op x.ty.ffmt mode (fmodeDaz w.fmode) (fmodeFtz w.fmode) (w.srq l k) (x.ty.elem a k)

/-- `RCP` (R146). -/
def execRcp (x : Alu2) (s : State) : Host.Outcome State Fault Refusal := s.wordOn (.rcp x) fun w => w.sfu x .rcp

/-- `RSQ`. -/
def execRsq (x : Alu2) (s : State) : Host.Outcome State Fault Refusal := s.wordOn (.rsq x) fun w => w.sfu x .rsq

/-- `SQRT`: correctly rounded under RND. -/
def execSqrt (x : Alu2) (s : State) : Host.Outcome State Fault Refusal := s.wordOn (.sqrt x) fun w => w.sfu x .sqrt

/-- `EXP2`. -/
def execExp2 (x : Alu2) (s : State) : Host.Outcome State Fault Refusal := s.wordOn (.exp2 x) fun w => w.sfu x .exp2

/-- `LOG2`. -/
def execLog2 (x : Alu2) (s : State) : Host.Outcome State Fault Refusal := s.wordOn (.log2 x) fun w => w.sfu x .log2

/-- `SIN`. -/
def execSin (x : Alu2) (s : State) : Host.Outcome State Fault Refusal := s.wordOn (.sin x) fun w => w.sfu x .sin

/-- `COS`. -/
def execCos (x : Alu2) (s : State) : Host.Outcome State Fault Refusal := s.wordOn (.cos x) fun w => w.sfu x .cos

/-- `TANH`. -/
def execTanh (x : Alu2) (s : State) : Host.Outcome State Fault Refusal := s.wordOn (.tanh x) fun w => w.sfu x .tanh

/-- `SIGM`. -/
def execSigm (x : Alu2) (s : State) : Host.Outcome State Fault Refusal := s.wordOn (.sigm x) fun w => w.sfu x .sigm

end Sys2Proof.Machine
end

