-- ==== Sys2Proof/Machine/Dispatch.lean ====
section
/-! DEFINITION. The dispatch: one arm for each constructor of `Instr`, each a direct call of its meaning. -/

namespace Sys2Proof.Machine

def exec (i : Instr) (s : State) : Host.Outcome State Fault Refusal :=
  match i with
  | .endK x => Sys2Proof.Machine.execEndK x s
  | .endR x => Sys2Proof.Machine.execEndR x s
  | .trap x => Sys2Proof.Machine.execTrap x s
  | .nop x => Sys2Proof.Machine.execNop x s
  | .send x => Sys2Proof.Machine.execSend x s
  | .sendm x => Sys2Proof.Machine.execSendm x s
  | .arm x => Sys2Proof.Machine.execArm x s
  | .falloc x => Sys2Proof.Machine.execFalloc x s
  | .ffree x => Sys2Proof.Machine.execFfree x s
  | .ldf x => Sys2Proof.Machine.execLdf x s
  | .stf x => Sys2Proof.Machine.execStf x s
  | .tcset x => Sys2Proof.Machine.execTcset x s
  | .brk x => Sys2Proof.Machine.execBrk x s
  | .iadd x => Sys2Proof.Machine.execIadd x s
  | .isub x => Sys2Proof.Machine.execIsub x s
  | .iaddc x => Sys2Proof.Machine.execIaddc x s
  | .imul x => Sys2Proof.Machine.execImul x s
  | .imulh x => Sys2Proof.Machine.execImulh x s
  | .imad x => Sys2Proof.Machine.execImad x s
  | .imadw x => Sys2Proof.Machine.execImadw x s
  | .imin x => Sys2Proof.Machine.execImin x s
  | .imax x => Sys2Proof.Machine.execImax x s
  | .iabs x => Sys2Proof.Machine.execIabs x s
  | .and x => Sys2Proof.Machine.execAnd x s
  | .or x => Sys2Proof.Machine.execOr x s
  | .xor x => Sys2Proof.Machine.execXor x s
  | .andn x => Sys2Proof.Machine.execAndn x s
  | .shl x => Sys2Proof.Machine.execShl x s
  | .shr x => Sys2Proof.Machine.execShr x s
  | .sar x => Sys2Proof.Machine.execSar x s
  | .rot x => Sys2Proof.Machine.execRot x s
  | .bfe x => Sys2Proof.Machine.execBfe x s
  | .bfi x => Sys2Proof.Machine.execBfi x s
  | .popc x => Sys2Proof.Machine.execPopc x s
  | .clz x => Sys2Proof.Machine.execClz x s
  | .ctz x => Sys2Proof.Machine.execCtz x s
  | .brev x => Sys2Proof.Machine.execBrev x s
  | .hash x => Sys2Proof.Machine.execHash x s
  | .isetp x => Sys2Proof.Machine.execIsetp x s
  | .isel x => Sys2Proof.Machine.execIsel x s
  | .lea x => Sys2Proof.Machine.execLea x s
  | .mov x => Sys2Proof.Machine.execMov x s
  | .movi x => Sys2Proof.Machine.execMovi x s
  | .movs x => Sys2Proof.Machine.execMovs x s
  | .pand x => Sys2Proof.Machine.execPand x s
  | .por x => Sys2Proof.Machine.execPor x s
  | .pxor x => Sys2Proof.Machine.execPxor x s
  | .pnot x => Sys2Proof.Machine.execPnot x s
  | .fadd x => Sys2Proof.Machine.execFadd x s
  | .fsub x => Sys2Proof.Machine.execFsub x s
  | .fmul x => Sys2Proof.Machine.execFmul x s
  | .ffma x => Sys2Proof.Machine.execFfma x s
  | .fmin x => Sys2Proof.Machine.execFmin x s
  | .fmax x => Sys2Proof.Machine.execFmax x s
  | .fsetp x => Sys2Proof.Machine.execFsetp x s
  | .fclass x => Sys2Proof.Machine.execFclass x s
  | .frnd x => Sys2Proof.Machine.execFrnd x s
  | .fscale x => Sys2Proof.Machine.execFscale x s
  | .fdot2 x => Sys2Proof.Machine.execFdot2 x s
  | .fdot4 x => Sys2Proof.Machine.execFdot4 x s
  | .fcvt x => Sys2Proof.Machine.execFcvt x s
  | .icvt x => Sys2Proof.Machine.execIcvt x s
  | .cvtn x => Sys2Proof.Machine.execCvtn x s
  | .ptest x => Sys2Proof.Machine.execPtest x s
  | .pclr x => Sys2Proof.Machine.execPclr x s
  | .rcp x => Sys2Proof.Machine.execRcp x s
  | .rsq x => Sys2Proof.Machine.execRsq x s
  | .sqrt x => Sys2Proof.Machine.execSqrt x s
  | .exp2 x => Sys2Proof.Machine.execExp2 x s
  | .log2 x => Sys2Proof.Machine.execLog2 x s
  | .sin x => Sys2Proof.Machine.execSin x s
  | .cos x => Sys2Proof.Machine.execCos x s
  | .tanh x => Sys2Proof.Machine.execTanh x s
  | .sigm x => Sys2Proof.Machine.execSigm x s
  | .lshuf x => Sys2Proof.Machine.execLshuf x s
  | .lbcast x => Sys2Proof.Machine.execLbcast x s
  | .lvote x => Sys2Proof.Machine.execLvote x s
  | .lcnt x => Sys2Proof.Machine.execLcnt x s
  | .lscan x => Sys2Proof.Machine.execLscan x s
  | .lred x => Sys2Proof.Machine.execLred x s
  | .selcfg x => Sys2Proof.Machine.execSelcfg x s
  | .selpush x => Sys2Proof.Machine.execSelpush x s
  | .selpop x => Sys2Proof.Machine.execSelpop x s
  | .ld x => Sys2Proof.Machine.execLd x s
  | .st x => Sys2Proof.Machine.execSt x s
  | .lds x => Sys2Proof.Machine.execLds x s
  | .sts x => Sys2Proof.Machine.execSts x s
  | .ldx x => Sys2Proof.Machine.execLdx x s
  | .stx x => Sys2Proof.Machine.execStx x s
  | .stred x => Sys2Proof.Machine.execStred x s
  | .ldz x => Sys2Proof.Machine.execLdz x s
  | .stz x => Sys2Proof.Machine.execStz x s
  | .atom x => Sys2Proof.Machine.execAtom x s
  | .red x => Sys2Proof.Machine.execRed x s
  | .fence x => Sys2Proof.Machine.execFence x s
  | .cinvL1 x => Sys2Proof.Machine.execCinvL1 x s
  | .cinvL2 x => Sys2Proof.Machine.execCinvL2 x s
  | .cflush x => Sys2Proof.Machine.execCflush x s
  | .pref x => Sys2Proof.Machine.execPref x s
  | .bind x => Sys2Proof.Machine.execBind x s
  | .unbind x => Sys2Proof.Machine.execUnbind x s
  | .qpush x => Sys2Proof.Machine.execQpush x s
  | .qpop x => Sys2Proof.Machine.execQpop x s
  | .qfence x => Sys2Proof.Machine.execQfence x s
  | .wait x => Sys2Proof.Machine.execWait x s
  | .cpy x => Sys2Proof.Machine.execCpy x s
  | .vloop x => Sys2Proof.Machine.execVloop x s
  | .vlooprAdd x => Sys2Proof.Machine.execVlooprAdd x s
  | .vlooprMin x => Sys2Proof.Machine.execVlooprMin x s
  | .vlooprMax x => Sys2Proof.Machine.execVlooprMax x s
  | .pairWord x => Sys2Proof.Machine.execPairWord x s
  | .mldw x => Sys2Proof.Machine.execMldw x s
  | .mswap x => Sys2Proof.Machine.execMswap x s
  | .mstream x => Sys2Proof.Machine.execMstream x s
  | .mdrain x => Sys2Proof.Machine.execMdrain x s
  | .mzero x => Sys2Proof.Machine.execMzero x s
  | .mfmt x => Sys2Proof.Machine.execMfmt x s
  | .evpop x => Sys2Proof.Machine.execEvpop x s
  | .evwait x => Sys2Proof.Machine.execEvwait x s
  | .kvld x => Sys2Proof.Machine.execKvld x s
  | .posld x => Sys2Proof.Machine.execPosld x s
  | .massacc x => Sys2Proof.Machine.execMassacc x s
  | .evict x => Sys2Proof.Machine.execEvict x s
  | .seqlockAcq x => Sys2Proof.Machine.execSeqlockAcq x s
  | .seqlockRel x => Sys2Proof.Machine.execSeqlockRel x s
  | .seqlockTry x => Sys2Proof.Machine.execSeqlockTry x s
  | .rdef x => Sys2Proof.Machine.execRdef x s
  | .rstat x => Sys2Proof.Machine.execRstat x s
  | .csrr x => Sys2Proof.Machine.execCsrr x s
  | .csrw x => Sys2Proof.Machine.execCsrw x s
  | .ecall x => Sys2Proof.Machine.execEcall x s
  | .sret x => Sys2Proof.Machine.execSret x s
  | .perfrd x => Sys2Proof.Machine.execPerfrd x s
  | .resumeq x => Sys2Proof.Machine.execResumeq x s
  | .countersDrained uid => Sys2Proof.Machine.execCountersDrained uid s
  | .waitRelease uid => Sys2Proof.Machine.execWaitRelease uid s
  | .counterStallRelease uid => Sys2Proof.Machine.execCounterStallRelease uid s
  | .queueUnblock uid => Sys2Proof.Machine.execQueueUnblock uid s
  | .busyParkRelease uid => Sys2Proof.Machine.execBusyParkRelease uid s
  | .seqlockParkRelease uid => Sys2Proof.Machine.execSeqlockParkRelease uid s
  | .matrixIssueRelease uid => Sys2Proof.Machine.execMatrixIssueRelease uid s
  | .heldTokenVisible msg => Sys2Proof.Machine.execHeldTokenVisible msg s
  | .heldReleaseStore op => Sys2Proof.Machine.execHeldReleaseStore op s
  | .accessPerformed op piece upset => Sys2Proof.Machine.execAccessPerformed op piece upset s
  | .stredAddition op group => Sys2Proof.Machine.execStredAddition op group s
  | .atomicStep op lane => Sys2Proof.Machine.execAtomicStep op lane s
  | .tokenArrival src => Sys2Proof.Machine.execTokenArrival src s
  | .armArrival msg => Sys2Proof.Machine.execArmArrival msg s
  | .ffreeMessage msg => Sys2Proof.Machine.execFfreeMessage msg s
  | .collisionRetry ctx core => Sys2Proof.Machine.execCollisionRetry ctx core s
  | .parkedDescriptorScan core => Sys2Proof.Machine.execParkedDescriptorScan core s
  | .gatherTimeout ctx core grp => Sys2Proof.Machine.execGatherTimeout ctx core grp s
  | .warpFormation core => Sys2Proof.Machine.execWarpFormation core s
  | .sequencerWarpFormation core => Sys2Proof.Machine.execSequencerWarpFormation core s
  | .rangeSpawn ctx core => Sys2Proof.Machine.execRangeSpawn ctx core s
  | .spawnQueuePlacement die core => Sys2Proof.Machine.execSpawnQueuePlacement die core s
  | .faultRingRoom ctx => Sys2Proof.Machine.execFaultRingRoom ctx s
  | .copyCommand ctx core q => Sys2Proof.Machine.execCopyCommand ctx core q s
  | .copyChunk ctx core q late => Sys2Proof.Machine.execCopyChunk ctx core q late s
  | .copyCompletion ctx core q => Sys2Proof.Machine.execCopyCompletion ctx core q s
  | .matrixInstructionBegin core => Sys2Proof.Machine.execMatrixInstructionBegin core s
  | .mldwCompletion core => Sys2Proof.Machine.execMldwCompletion core s
  | .mstreamRow core => Sys2Proof.Machine.execMstreamRow core s
  | .mdrainRow core => Sys2Proof.Machine.execMdrainRow core s
  | .matrixEvent core => Sys2Proof.Machine.execMatrixEvent core s
  | .selectEntry ctx core => Sys2Proof.Machine.execSelectEntry ctx core s
  | .enckeCommand ctx core => Sys2Proof.Machine.execEnckeCommand ctx core s
  | .eviction die at_ => Sys2Proof.Machine.execEviction die at_ s
  | .charonMerge ctx child => Sys2Proof.Machine.execCharonMerge ctx child s
  | .taskCompletion ctx task => Sys2Proof.Machine.execTaskCompletion ctx task s
  | .launchProcessing ctx => Sys2Proof.Machine.execLaunchProcessing ctx s
  | .gangPlacement die idx cores => Sys2Proof.Machine.execGangPlacement die idx cores s
  | .powerGrant die => Sys2Proof.Machine.execPowerGrant die s
  | .rampWindow die => Sys2Proof.Machine.execRampWindow die s
  | .slotChoice core => Sys2Proof.Machine.execSlotChoice core s
  | .quantumExpiry ctx core => Sys2Proof.Machine.execQuantumExpiry ctx core s
  | .preemptionHalt ctx core => Sys2Proof.Machine.execPreemptionHalt ctx core s
  | .imageCut ctx core => Sys2Proof.Machine.execImageCut ctx core s
  | .shareRestore ctx core => Sys2Proof.Machine.execShareRestore ctx core s
  | .contextDiscardComplete ctx => Sys2Proof.Machine.execContextDiscardComplete ctx s
  | .ccfg ctx addr => Sys2Proof.Machine.execCcfg ctx addr s
  | .swapout ctx => Sys2Proof.Machine.execSwapout ctx s
  | .swapin ctx => Sys2Proof.Machine.execSwapin ctx s
  | .contextEnd ctx => Sys2Proof.Machine.execContextEnd ctx s
  | .contextContinue ctx => Sys2Proof.Machine.execContextContinue ctx s
  | .contextFree ctx => Sys2Proof.Machine.execContextFree ctx s
  | .resume ctx val => Sys2Proof.Machine.execResume ctx val s
  | .launch ctx addr => Sys2Proof.Machine.execLaunch ctx addr s
  | .invgo => Sys2Proof.Machine.execInvgo s
  | .invalidationDone => Sys2Proof.Machine.execInvalidationDone s
  | .rpadd ctx val => Sys2Proof.Machine.execRpadd ctx val s
  | .heldHostWrite idx => Sys2Proof.Machine.execHeldHostWrite idx s
  | .hostMemoryAccess acc => Sys2Proof.Machine.execHostMemoryAccess acc s
  | .eventSelectionWrite off val => Sys2Proof.Machine.execEventSelectionWrite off val s
  | .registerWrite off size val => Sys2Proof.Machine.execRegisterWrite off size val s
  | .sensors => Sys2Proof.Machine.execSensors s
  | .logread => Sys2Proof.Machine.execLogread s
  | .liferead => Sys2Proof.Machine.execLiferead s
  | .retired => Sys2Proof.Machine.execRetired s
  | .setpwr => Sys2Proof.Machine.execSetpwr s
  | .setsplit => Sys2Proof.Machine.execSetsplit s
  | .setdev => Sys2Proof.Machine.execSetdev s
  | .routes => Sys2Proof.Machine.execRoutes s
  | .scrub => Sys2Proof.Machine.execScrub s
  | .setmode => Sys2Proof.Machine.execSetmode s
  | .fwstage => Sys2Proof.Machine.execFwstage s
  | .fwact => Sys2Proof.Machine.execFwact s
  | .attest => Sys2Proof.Machine.execAttest s
  | .watchdogExpiry ctx core => Sys2Proof.Machine.execWatchdogExpiry ctx core s
  | .sensorSample sample => Sys2Proof.Machine.execSensorSample sample s
  | .lifeHistogramFlush => Sys2Proof.Machine.execLifeHistogramFlush s
  | .heatWindow core ctx page elements stalls leaves => Sys2Proof.Machine.execHeatWindow core ctx page elements stalls leaves s
  | .patrolScrub stack badLines badFrames => Sys2Proof.Machine.execPatrolScrub stack badLines badFrames s
  | .boot res => Sys2Proof.Machine.execBoot res s
  | .coreFailure core unit => Sys2Proof.Machine.execCoreFailure core unit s
  | .unitFailure unit die => Sys2Proof.Machine.execUnitFailure unit die s
  | .linkDown link => Sys2Proof.Machine.execLinkDown link s
  | .hostLinkFailure => Sys2Proof.Machine.execHostLinkFailure s
  | .mailboxCommandDone => Sys2Proof.Machine.execMailboxCommandDone s
  | .l1LineDeparture core line => Sys2Proof.Machine.execL1LineDeparture core line s
  | .l2SectorWriteback sector => Sys2Proof.Machine.execL2SectorWriteback sector s
  | .deviceLinkUp link peer degraded => Sys2Proof.Machine.execDeviceLinkUp link peer degraded s
  | .deviceLinkCopyTraffic ctx va bytes => Sys2Proof.Machine.execDeviceLinkCopyTraffic ctx va bytes s
  | .powerLoss => Sys2Proof.Machine.execPowerLoss s

end Sys2Proof.Machine
end

