-- ==== Sys2Proof/Machine/Soft.lean ====
section
/-! DEFINITION. Soft errors: what one becomes where it strikes, and the word that meets one in a register (R62, R392, R395,
R409). -/

namespace Sys2Proof

/-! ### The registers a word reads -/

/-- The destinations of a word with OEN and NODST (R74). -/
def outSpecs (c : Ctl) (d : Spec) : List Spec := (if c.nodst then [] else [d]) ++ (if c.oen then [.o c.oidx] else [])

/-- The destination registers that a word names, each the first of its group. -/
def Instr.dests : Instr → List Spec
  | .iadd x | .isub x | .imul x | .imin x | .imax x | .and x | .or x | .xor x | .andn x | .imulh x | .iabs x | .brev x | .hash x
  | .shl x | .shr x | .sar x | .rot x | .popc x | .clz x | .ctz x | .mov x | .fadd x | .fsub x | .fmul x | .fmin x | .fmax x
  | .fclass x | .frnd x | .rcp x | .rsq x | .sqrt x | .exp2 x | .log2 x | .sin x | .cos x | .tanh x | .sigm x | .fscale x => outSpecs x.ctl x.d
  | .imad x | .imadw x | .bfe x | .bfi x | .lea x | .ffma x | .fdot2 x | .fdot4 x | .fcvt x | .cvtn x => outSpecs x.ctl x.d
  | .icvt x => outSpecs x.ctl x.d
  | .iaddc x => outSpecs x.ctl x.d
  | .isel x => outSpecs x.ctl x.d
  | .movi x | .movs x => outSpecs x.ctl x.d
  | .falloc x | .qpop x | .evpop x | .evwait x | .rstat x | .perfrd x | .ecall x => [x.d]
  | .csrr x => [x.d]
  | .ldf x => [x.d]
  | .lshuf x | .lscan x | .lbcast x | .lred x | .selpop x => [x.d]
  | .lvote x | .lcnt x => [.v x.d]
  | .ld x | .lds x | .ldx x | .ldz x | .kvld x | .posld x => [x.d]
  | .atom x => [x.d]
  | .pairWord x => [x.x.d, x.y.d]
  | _ => []

/-- The register uses of a word that read: each destination stands once among its uses and reads nothing. -/
def Instr.reads (i : Instr) : List Use := i.dests.foldl (fun us d => us.eraseP fun u => u.spec = d) i.uses

/-- Whether a use names V register `r`, or O register `r`. -/
def Use.holdsLane (u : Use) (r : Nat) (isO : Bool) : Bool :=
  match u.spec with
  | .v n => !isO && n.toNat ≤ r && r < n.toNat + u.count
  | .o n => isO && n.toNat ≤ r && r < n.toNat + u.count
  | _ => false

/-- Whether a use names S register `r`. -/
def Use.holdsS (u : Use) (r : Nat) : Bool :=
  match u.spec with
  | .s n => n.toNat ≤ r && r < n.toNat + u.count
  | _ => false

namespace Machine

/-- The lanes in which a word executes: a terminator, which has no guard, in every filled lane (R52, R81, R82). -/
def Warp.lanesOfWord (w : Warp) (i : Instr) : Lanes :=
  match i with
  | .pairWord x => w.slotActive x.x ||| w.slotActive x.y
  | _ => if i.isTerm then w.filled else w.active (Raw.ofWord (encodeWord i)).guard

/-- Whether the word that a warp issues next reads the register that an error lies in (R392). -/
def State.wordMeets (s : State) (u : SoftError) : Bool :=
  match u with
  | .reg uid r l isO => match s.issue uid with
    | .word i t => (t.w.lanesOfWord i).getLsbD l && i.reads.any fun k => k.holdsLane r isO
    | .done _ => false
  | .sreg uid r => match s.issue uid with
    | .word i _ => i.reads.any fun k => k.holdsS r
    | .done _ => false
  | _ => false

/-- The record 0x30 of the word that a warp issues next, which meets an error in a register (R392). -/
def State.regError (s : State) (uid : Nat) (lanes : Lanes) (structure_ : Nat) : State :=
  match s.warp uid with
  | some w => s.noteOp uid s.d.nextId { w.faultRec 0x30 4 lanes with d0 := BitVec.ofNat 32 structure_ }
  | none => s

/-- An error in a V or O register: the lane that reads it is poisoned, and the value is unspecified (R392; DESIGN CHOICE,
log entry 11). -/
def State.spoilReg (s : State) (uid r l : Nat) (isO : Bool) : State :=
  let v := Config.upsetValue s.d.free
  let lane := maskOf fun j => j = l
  ((s.mapUid uid fun w => (if isO then w.putO r l v else w.putV r l v).poison lane).tick).regError uid lane 0x01

/-- An error in an S register: every filled lane of the warp whose word reads it is poisoned, and the value is unspecified (R392;
DESIGN CHOICE, log entry 11). -/
def State.spoilS (s : State) (uid r : Nat) : State :=
  let all := ((s.warp uid).map Warp.filled).getD 0
  ((s.mapUid uid fun w => (w.putS r (Config.upsetValue s.d.free)).poison w.filled).tick).regError uid all 0x02

/-! ### Marks and losses -/

/-- The `idx`-th entry of a queue takes a mark (R62). -/
def Share.spoilEntry (x : Share) (q idx : Nat) : Share :=
  { x with queues := x.queues.put q ((x.queues.getD q []).zipIdx.map fun e => if e.2 = idx then { e.1 with poison := true, err := 0x0B } else e.1) }

/-- An accumulator row takes a mark (R43). -/
def Accum.spoil (x : Accum) (row : Nat) : Accum :=
  { x with mark := row :: x.mark.filter fun k => k ≠ row, err := row :: x.err.filter fun k => k ≠ row }

/-- The matrix state with a row of an accumulator marked. -/
def Matrix.spoilRow (x : Matrix) (ac1 : Bool) (row : Nat) : Matrix :=
  if ac1 then { x with ac1 := x.ac1.spoil row } else { x with ac0 := x.ac0.spoil row }

/-- The matrix state with a plane marked. -/
def Matrix.spoilPlane (x : Matrix) (shadow : Bool) : Matrix :=
  if shadow then { x with shadow := { x.shadow with poison := true, err := true } } else { x with active := { x.active with poison := true, err := true } }

/-- The structure a soft error lies in (R392). -/
def SoftError.code : SoftError → Nat
  | .reg _ _ _ _ => 0x01
  | .sreg _ _ => 0x02
  | .control _ _ k | .corrected k => k
  | .coreWord _ _ _ => 0x04
  | .l1 _ _ | .icache _ _ => 0x07
  | .line _ hbm => if hbm then 0x0A else 0x08
  | .correctedRead _ => 0x0A
  | .tags _ _ _ _ => 0x09
  | .queue _ _ _ _ => 0x0B
  | .accRow _ _ _ _ | .plane _ _ _ => 0x0C
  | .select _ _ => 0x0D

/-- The structures whose errors end the context (R392). -/
def isControl (k : Nat) : Bool := k = 0x03 || k = 0x05 || k = 0x06 || k = 0x0E || k = 0x0F

/-- An error counted by Deimos where it strikes: an uncorrectable one of HBM is counted where it is met, and a block that
leaves an instruction cache is no error (R392, R409). -/
def State.countStrike (s : State) (u : SoftError) : State :=
  match u with
  | .corrected k => s.countError k true
  | .correctedRead _ => s.countError 0x0A true
  | .icache _ _ | .line _ true => s
  | v => s.countError v.code false

/-- What a soft error becomes (R392). Whoever meets a mark that an error set writes the record, and an error in a register is
met by the word that reads it (DESIGN CHOICE, log entry 82). -/
def State.strike (s0 : State) (u : SoftError) : State :=
  let s := s0.countStrike u
  match u with
  | .reg uid r l isO => s.spoilReg uid r l isO
  | .sreg uid r => s.spoilS uid r
  | .control c g k => if isControl k then s.endCtx c 0x31 k g else s
  | .coreWord c g b => s.mapShare c g fun x => { x with marks := x.marks.put b true }
  | .l1 g line => s.mapCore g fun x => { x with l1 := x.l1.del line }
  | .icache g key => s.mapCore g fun x => { x with icache := x.icache.del key }
  | .line pa hbm => s.spoilLine pa hbm
  | .tags c g pa may => s.loseLine c g pa may
  | .queue c g q idx => s.mapShare c g fun x => x.spoilEntry q idx
  | .accRow c g ac1 row => s.mapShare c g fun x => { x with mx := x.mx.spoilRow ac1 row }
  | .plane c g shadow => s.mapShare c g fun x => { x with mx := x.mx.spoilPlane shadow }
  | .select c g => s.mapShare c g fun x => { x with sel := { x.sel with poison := true, err := true } }
  | .correctedRead pa => if isDevice pa then s.correctedRead (hbmRow s.d.iw pa) else s
  | .corrected _ => s

end Machine

end Sys2Proof
end

