-- ==== Sys2Proof/Machine/Turns.lean ====
section
/-! DEFINITION. A turn of the machine: a warp issues its next word, or an event happens; the clocks that pass; and the
turn taken when the schedule holds none (DESIGN CHOICE, log entry 1). -/

namespace Sys2Proof.Machine

/-! ### Clocks (R57, R391) -/

/-- Whether a warp has an operation that waits for power leave (R391, R405). -/
def State.waitsLeave (s : State) (w : Warp) : Bool :=
  let x := s.d.share w.ctx w.core
  s.d.loops.any (fun o => o.uid = w.uid && o.leave ≠ 2) || x.mx.issued.any (fun m => m.uid = w.uid && m.leave = 1) ||
  (x.copyA.toList ++ x.copyB.toList).any fun k => k.entry.uid = w.uid && k.leave = 1

/-- Whether a warp is parked by a translation fault, `BRK` or `ECALL` (R391). -/
def State.isParkedWarp (s : State) (w : Warp) : Bool :=
  (match w.status with
    | .parked _ => true
    | _ => false) || s.d.heldByPark w.uid

/-- Whether the watchdog counts the clocks of a context on a core (R391). -/
def State.watched (s : State) (c g : Nat) : Bool :=
  s.allWarps.any fun w => w.ctx = c && w.core = g && w.status != .retired && !s.isParkedWarp w && !s.waitsLeave w

/-- The clocks that a turn passes on a core: those of every core, and those of it besides (R12, R57). -/
def clocksOf (dt : Nat) (extra : List (Nat × Nat)) (g : Nat) : Nat := extra.foldl (fun n p => if p.1 = g then n + p.2 else n) dt

/-- A core after some clocks: what happened in the clock before is past (R248). -/
def Core.pass (x : Core) (n : Nat) : Core := { x with clk := x.clk + n, now := [] }

/-- The cores after a turn's clocks. -/
def Dev.clocked (d : Dev) (dt : Nat) (extra : List (Nat × Nat)) : Map Core :=
  (List.range 256).foldl (fun m g =>
    let n := clocksOf dt extra g
    if n = 0 then m else m.put g ((m.getD g Core.reset).pass n)) d.cores

/-- Clocks pass, on each core its own number, and the watchdog counts them; the L2s keep what they hold (R12, R15, R57, R391;
DESIGN CHOICE, log entry 1). -/
def State.passClocks (s : State) (dt : Nat) (extra : List (Nat × Nat)) : State :=
  if dt = 0 && extra.isEmpty then s
  else
    let watch := fun (p : Nat × Share) =>
      if p.2.holds && s.watched (p.1 / 256) (p.1 % 256) then (p.1, { p.2 with watch := p.2.watch + clocksOf dt extra (p.1 % 256) }) else p
    { s with mem := s.mem.trimL2 s.d.iw, d := { s.d with shares := s.d.shares.map watch, cores := s.d.clocked dt extra } }

/-- Whether a status is one in which a word has issued that its warp now waits with (R54, R385). -/
def WStatus.issued : WStatus → Bool
  | .busyPark _ | .seqlockPark _ | .ringWait | .parked _ | .retired => true
  | _ => false

/-- Whether a warp has issued a word between two states (R391). -/
def State.issuedSince (s t : State) (uid : Nat) : Bool :=
  match s.warp uid, t.warp uid with
  | some w, some v => decide (w.issued < v.issued) || (v.status.issued && !w.status.issued)
  | some _, none => true
  | none, _ => false

/-- The watchdog's count of a warp's context on its core restarts where the warp has issued a word (R391). -/
def State.countIssue (s t : State) (uid : Nat) : State :=
  match s.warp uid with
  | some w =>
    if s.issuedSince t uid && (t.d.share w.ctx w.core).watch ≠ 0 then t.mapShare w.ctx w.core fun x => { x with watch := 0 } else t
  | none => t

/-- The same of an outcome. -/
def State.countOutcome (s : State) (uid : Nat) (o : Host.Outcome State Fault Refusal) : Host.Outcome State Fault Refusal :=
  match o with
  | .next t => .next (s.countIssue t uid)
  | x => x

/-! ### The greedy run (R242, R243) -/

/-- Whether a word carries YLD, which no terminator has (R74). -/
def Instr.yields (i : Instr) : Bool := encodeWord i / 2 ^ 56 % 2 = 1 && !i.isTerm

/-- A unit's run after a warp's turn to issue: one that issued goes on, one that did not, or whose word yields, has stalled
(R242). -/
def State.nextRun (s : State) (w : Warp) (goesOn : Bool) : IssueRun :=
  let r := s.d.run w.core w.unit
  if goesOn then { last := w.uid, stalled := [] }
  else
    let all := (s.issuers w.core w.unit).all fun v => r.stalled.contains v.uid
    { last := 0, stalled := w.uid :: if all then [] else r.stalled }

/-- The run noted after a warp's turn to issue a word. -/
def State.noteRun (s t : State) (uid : Nat) (i : Instr) : State :=
  match s.warp uid with
  | some w => t.mapCore w.core fun x => { x with runs := x.runs.put w.unit (s.nextRun w (s.issuedSince t uid && !Instr.yields i)) }
  | none => t

/-! ### Moves -/

/-- The issue of a warp's next word and its meaning (R67, R88). -/
def State.issueTurn (s : State) (uid : Nat) : Host.Outcome State Fault Refusal :=
  match s.issue uid with
  | .done t => .next t
  | .word i t => match s.countOutcome uid (exec i t) with
    | .next u => .next (s.noteRun u uid i)
    | x => x

/-- The warp whose waiting word an event performs. -/
def waiterOf : Instr → Option Nat
  | .countersDrained u => some u
  | .waitRelease u => some u
  | .queueUnblock u => some u
  | .busyParkRelease u => some u
  | .seqlockParkRelease u => some u
  | _ => none

/-- An event and its meaning; a waiting word that it performs counts as issued (R391). -/
def State.eventTurn (s : State) (e : Instr) : Host.Outcome State Fault Refusal :=
  match waiterOf e with
  | some uid => s.countOutcome uid (exec e s)
  | none => exec e s

/-- A soft error strikes; one in a register only as the word issues that reads it, since nothing else meets it (R392). -/
def State.upsetTurn (s : State) (u : SoftError) : Host.Outcome State Fault Refusal :=
  match u with
  | .reg uid _ _ _ | .sreg uid _ => if s.wordMeets u then (s.strike u).issueTurn uid else .next s
  | _ => .next (s.strike u)

/-- A move of the machine. -/
def State.move (s : State) (a : TurnAct) : Host.Outcome State Fault Refusal :=
  match a with
  | .issue uid => s.issueTurn uid
  | .event e => s.eventTurn e
  | .upset u => s.upsetTurn u

/-! ### The turn taken when none is scheduled (DESIGN CHOICE, log entry 1) -/

/-- The moves that operations in flight and messages may make. -/
def State.flightMoves (s : State) : List Instr :=
  (s.d.ops.flatMap fun o => .heldReleaseStore o.id :: (List.range o.pieces.length).flatMap fun i =>
    [.accessPerformed o.id i .none, .stredAddition o.id i, .atomicStep o.id i]) ++
  (s.d.loops.flatMap fun o => (List.range 32).map fun l => .accessPerformed o.id l .none) ++
  (s.d.net.flatMap fun m => [.heldTokenVisible m.id, .tokenArrival (.net m.id), .armArrival m.id, .ffreeMessage m.id])

/-- The moves that end a warp's wait. -/
def State.waitMoves (s : State) : List Instr :=
  s.allWarps.flatMap fun w =>
    [.countersDrained w.uid, .waitRelease w.uid, .counterStallRelease w.uid, .queueUnblock w.uid, .busyParkRelease w.uid,
      .seqlockParkRelease w.uid, .matrixIssueRelease w.uid]

/-- The moves of a context's share of a core. -/
def shareMoves (c g : Nat) : List Instr :=
  [.collisionRetry c g, .rangeSpawn c g, .copyCommand c g 0, .copyCommand c g 1, .copyChunk c g 0 false, .copyChunk c g 1 false,
    .copyCompletion c g 0, .copyCompletion c g 1, .selectEntry c g, .enckeCommand c g, .quantumExpiry c g, .preemptionHalt c g,
    .imageCut c g, .shareRestore c g, .watchdogExpiry c g]

/-- The moves of a core. -/
def coreMoves (g : Nat) : List Instr :=
  [.parkedDescriptorScan g, .matrixInstructionBegin g, .mldwCompletion g, .mstreamRow g, .mdrainRow g, .matrixEvent g,
    .spawnQueuePlacement (g / 32) g, .slotChoice g, .sequencerWarpFormation g, .warpFormation g]

/-- The moves of a die. -/
def State.dieMoves (s : State) (k : Nat) : List Instr :=
  let x := s.d.die k
  [.powerGrant k, .rampWindow k] ++ ((List.range x.encke.length).map fun i => .eviction k { idx := i, pick := 0 }) ++
  x.gangs.zipIdx.map fun e => .gangPlacement k e.2 ((s.gangCores k e.1).getD [])

/-- The moves of a context. -/
def Dev.ctxMoves (d : Dev) (c : Nat) : List Instr :=
  [.faultRingRoom c, .launchProcessing c, .contextDiscardComplete c] ++ ((d.ctx c).spill.map fun e => .shareRestore c e.item.tok.dest) ++
  ((d.ctx c).tasks.flatMap fun p => [.charonMerge c p.1, .taskCompletion c p.1])

/-- The moves of the mailbox, of an invalidation request and of held host writes. -/
def Dev.hostMoves (d : Dev) : List Instr :=
  [.invalidationDone, .sensors, .logread, .liferead, .retired, .setpwr, .setsplit, .setdev, .routes, .scrub, .setmode, .fwstage,
    .fwact, .attest, .mailboxCommandDone] ++
  ((List.range d.held.length).map fun i => .heldHostWrite i)

/-- The groups whose gather timers may run out. -/
def State.timeouts (s : State) : List Instr :=
  s.d.shares.flatMap fun p => (p.2.groups (s.d.ctx (p.1 / 256)).det false).map fun k => .gatherTimeout (p.1 / 256) (p.1 % 256) k

/-- The events tried, in order, when none is scheduled. -/
def State.tries (s : State) : List Instr :=
  let cores := ((s.d.shares.map fun (p : Nat × Share) => p.1 % 256) ++ (s.d.dies.flatMap fun (p : Nat × Die) => p.2.spawn.flatMap SpawnEnt.cores)).eraseDups
  s.flightMoves ++ s.waitMoves ++ (s.d.shares.flatMap fun p => shareMoves (p.1 / 256) (p.1 % 256)) ++ cores.flatMap coreMoves ++
  (s.d.dies.flatMap fun p => s.dieMoves p.1) ++ (s.d.ctxs.flatMap fun p => s.d.ctxMoves p.1) ++ s.d.hostMoves ++ s.timeouts

/-- Whether two machines differ in nothing but which warp is the issuing one: a word tried again in vain leaves such a
machine. -/
def State.alike (s t : State) : Bool :=
  { t with w := s.w, d := { t.d with warps := s.d.warps } } == s && t.allWarps.length == s.allWarps.length &&
  s.allWarps.all fun w => t.warp w.uid == some w

/-- Whether an event changes the machine. -/
def State.changes (s : State) (e : Instr) : Bool :=
  match exec e s with
  | .next t => !s.alike t
  | _ => false

/-- The warp that may issue and has issued fewest words. -/
def State.nextWarp (s : State) : Option Warp :=
  (s.allWarps.filter s.mayIssue).foldl (fun b w => match b with
    | none => some w
    | some v => if w.issued < v.issued then some w else some v) none

/-- The turn the machine takes of itself: the first event that changes anything, else the issue of a word, else 64
clocks pass. -/
def State.ownTurn (s : State) : Turn :=
  match s.tries.find? s.changes with
  | some e => { dt := 1, extra := [], act := .event e }
  | none => match s.nextWarp with
    | some w => { dt := 1, extra := [], act := .issue w.uid }
    | none => { dt := 64, extra := [], act := .issue 0 }

/-- The next turn and what is left of the schedule. -/
def State.takeTurn (s : State) : Turn × State :=
  match s.turns with
  | t :: ts => (t, { s with turns := ts })
  | [] => (s.ownTurn, s)

end Sys2Proof.Machine
end

