-- ==== Sys2Proof/Machine/Step.lean ====
section
/-! DEFINITION. The step: the next turn of the schedule, its clocks and its move; and the placing of a word where the
next step fetches it. -/

namespace Sys2Proof.Machine

/-- One step of the machine. -/
def step (s : State) : Host.Outcome State Fault Refusal :=
  let t := s.takeTurn
  (t.2.passClocks t.1.dt t.1.extra).move t.1.act

/-- The physical address of the issuing warp's next word, where a whole fetch block from it can be fetched. -/
def State.fetchPlace (s : State) : Option Nat :=
  if s.w.live && s.mayIssue s.w && s.w.codeVa % 32 = 0 && s.w.pc % 32 = 0 && s.w.pc + 32 ≤ s.w.hdr.clen * 32 then
    match s.translate s.w.core s.w.ctx s.w.codeVa with
    | some x => if x.canRead then some x.pa else none
    | none => none
  else none

/-- A machine with a warp of context 0 on core 0 whose code lies in the first page of memory (DESIGN CHOICE, log entry 22). -/
def State.withWarp (s : State) (seq : Bool) : State :=
  let t := s.fresh
  let h : Header := { Header.zero with clen := 1, vregs := 32, sregs := 32, seq := seq }
  let w : Warp := { Warp.absent with live := true, uid := t.1, seq := seq, hdr := h, filled := 1#32 }
  let page : TlbEnt := { pa := 0, shift := 16, attrs := 1 }
  let u : State := { t.2 with w := w }
  let v : State := { u with d := { u.d with tlb := u.d.tlb.upd 0 [] fun m => m.put 0 page } }
  ((v.mapCtx 0 fun c => { c with state := .active }).mapShare 0 0 fun x => { x with slot := some 0, saved := false, halted := false }).mapCore 0
    fun c => { c with offline := false }

/-- A machine whose next step fetches and runs one word, given by its bits; the bytes behind it are zero (DESIGN CHOICE, log entry 22). -/
def State.withFetchWord (s : State) (nbits w : Nat) : State :=
  let bs := bytesLE 32 (w % 2 ^ nbits)
  let seq := match decodeTableWord nbits w with
    | some i => i.seqOnly
    | none => false
  let t := if s.fetchPlace.isSome then s else s.withWarp seq
  let pa := t.fetchPlace.getD 0
  let m := t.mem.raw pa bs
  let t := t.forgetCode t.w.ctx t.w.codeVa 32
  { t with mem := { m with marks := m.marks.del (pa / 64) }, turns := [{ dt := 0, extra := [], act := .issue t.w.uid }] }

end Sys2Proof.Machine
end

