-- ==== Sys2Proof/Safety.lean ====
section
/-! DEFINITION. What counts as a safe run, and the words in which claims speak of a step: the invariant, a register's
content, a word's destinations, and what each shape of step leaves alone. -/

namespace Sys2Proof.Machine

/-- The invariant of every run: memory's bytes stand in canonical form (R253; DESIGN CHOICE, log entry 2). -/
abbrev State.Inv (s : State) : Prop := s.mem.wf = true

/-- A state from which the machine goes on: its step answers a next state, no fault and no refusal. -/
def State.GoesOn (s : State) : Prop := ∃ t, step s = .next t

/-- A safe state: the invariant holds and the machine goes on. -/
def State.Safe (s : State) : Prop := s.Inv ∧ s.GoesOn

/-- An event that ends a wait: the warp goes on with its word `i` from the state `t` in the event's own step. -/
def ReleasedTo (e i : Instr) (s t : State) : Prop := ∃ u, exec e s = .next u ∧ exec i t = .next u

/-! ### Registers -/

/-- A V, O or S register of a lane as it stands: its word and, for a V register whose operation was performed before a
`WAIT`, the old word an early read may give (R55). -/
def Warp.cell (w : Warp) (x : Spec) (l : Nat) : Word × Option Word :=
  match x with
  | .v n => (w.v.getD (n.toNat * 32 + l) 0, w.inflight.find (n.toNat * 32 + l))
  | .o n => (w.o.getD (n.toNat * 32 + l) 0, none)
  | .s n => (w.s.getD n.toNat 0, none)
  | _ => (0, none)

/-- The place of a register in the group of `n` (one or two) registers from `d` on (R20). -/
def Spec.indexIn (y d : Spec) (n : Nat) : Option Nat :=
  if y = d then some 0 else if n = 2 ∧ y = d.next then some 1 else none

/-- The place of a register in the destinations of a word: D unless NODST, and On under OEN (R74). -/
def destAt (c : Ctl) (d : Spec) (n : Nat) (y : Spec) : Option Nat :=
  match if c.nodst then none else Spec.indexIn y d n with
  | some j => some j
  | none => if c.oen then Spec.indexIn y (.o c.oidx) n else none

/-- Word `j` of a value of several registers, low word first (R3, R20). -/
def wordAt (x j : Nat) : Word := BitVec.ofNat 32 (x / 2 ^ (32 * j))

/-- A register after a write of a value's word `j`, or as it was. -/
def written (j : Option Nat) (x : Nat) (old : Word × Option Word) : Word × Option Word :=
  match j with
  | some j => (wordAt x j, none)
  | none => old

/-- The state at the next word with only registers of the issuing warp changed: the device, memory, the turns to come
and everything else of the warp are as before. -/
def RegsOnly (i : Instr) (s t : State) : Prop :=
  t = { s with w := { s.w with
    v := t.w.v, o := t.w.o, s := t.w.s, inflight := t.w.inflight, l0 := t.w.l0, l1 := t.w.l1, lprod := t.w.lprod,
    p := t.w.p, sp := t.w.sp, pz := t.w.pz, pc := s.w.pc + i.byteLen, issued := s.w.issued + 1 } }

/-- Predicates, scalar predicates and poison flags are as before. -/
def SameFlags (s t : State) : Prop := t.w.p = s.w.p ∧ t.w.sp = s.w.sp ∧ t.w.pz = s.w.pz

/-- The main files and L0 and L1 are as before. -/
def SameFiles (s t : State) : Prop :=
  t.w.v = s.w.v ∧ t.w.o = s.w.o ∧ t.w.s = s.w.s ∧ t.w.inflight = s.w.inflight ∧ t.w.l0 = s.w.l0 ∧ t.w.l1 = s.w.l1 ∧
    t.w.lprod = s.w.lprod

/-- L0 and L1 after a result of `n` registers (R51): an inactive lane takes zero; L1 takes the old L0, or the high word
of a pair. -/
def LastResult (act : Lanes) (n : Nat) (val : Nat → Nat) (s t : State) : Prop :=
  t.w.lprod.getLsbD 0 = true ∧
  (∀ l, l < 32 → t.w.l0.getD l 0 = if act.getLsbD l then wordAt (val l) 0 else 0) ∧
  (n = 1 → t.w.l1 = s.w.l0) ∧
  (n = 2 → t.w.lprod.getLsbD 1 = true ∧ ∀ l, l < 32 → t.w.l1.getD l 0 = if act.getLsbD l then wordAt (val l) 1 else 0)

/-- The lanes in which a word of OPC 0x10 to 0x3F acts: every lane reads a scalar result (R52, R122). -/
def Warp.actsIn (w : Warp) (g : Guard) (c : Ctl) (l : Nat) : Bool :=
  if c.sc then w.scalarOn g else (w.active g).getLsbD l

/-- A result of `n` registers: each destination of each lane in which the word acts holds its word of the value, every
other register is as before, and L0 and L1 follow unless the word is scalar (R51, R74, R122). -/
def Results (g : Guard) (c : Ctl) (d : Spec) (n : Nat) (val : Nat → Nat) (s t : State) : Prop :=
  (∀ y l, l < 32 → t.w.cell y l =
    if s.w.actsIn g c l then
      written (destAt c d n y) (val (if c.sc then 0 else l)) (s.w.cell y l)
    else s.w.cell y l) ∧
  (if c.sc then t.w.l0 = s.w.l0 ∧ t.w.l1 = s.w.l1 ∧ t.w.lprod = s.w.lprod else LastResult (s.w.active g) n val s t)

/-- Lanes of a V destination of `n` registers written, without L0, L1 or an O register (R148). -/
def LaneResults (act : Lanes) (d : Spec) (n : Nat) (val : Nat → Nat) (s t : State) : Prop :=
  (∀ y l, l < 32 → t.w.cell y l =
    if act.getLsbD l then
      written (Spec.indexIn y d n) (val l) (s.w.cell y l)
    else s.w.cell y l) ∧
  t.w.l0 = s.w.l0 ∧ t.w.l1 = s.w.l1 ∧ t.w.lprod = s.w.lprod

/-- A word completes with a result of `n` registers: only registers change, no flag does, and the value of each lane
meets `ok`. -/
def Completes (i : Instr) (g : Guard) (c : Ctl) (d : Spec) (n : Nat) (ok : Nat → Nat → Prop) (s : State) : Prop :=
  ∃ t val, exec i s = .next t ∧ RegsOnly i s t ∧ SameFlags s t ∧ Results g c d n val s t ∧ ∀ l, ok l (val l)

/-- A floating-point word completes: as above, and a lane in which it acts is poisoned where `bad` says so or, under
FMODE.NANP, where its result holds a NaN (R42, R132). -/
def FloatCompletes (i : Instr) (g : Guard) (c : Ctl) (d : Spec) (ty : Ty) (val : Nat → Nat) (bad : Nat → Bool) (s : State) :
    Prop :=
  ∃ t, exec i s = .next t ∧ RegsOnly i s t ∧ t.w.p = s.w.p ∧ t.w.sp = s.w.sp ∧ Results g c d ty.regs val s t ∧
    ∀ l, l < 32 → t.w.pz.getLsbD l =
      (s.w.pz.getLsbD l || ((s.w.active g).getLsbD l && (bad l || (fmodeNanp s.w.fmode && ty.anyNaN (val l)))))

/-- A cross-lane word completes: lanes of D written, L0 and L1 untouched, and every active lane poisoned where a
participant is or where `bad` says so (R148). -/
def LaneCompletes (i : Instr) (g : Guard) (d : Spec) (n : Nat) (val : Nat → Nat) (bad : Nat → Bool) (s : State) : Prop :=
  ∃ t, exec i s = .next t ∧ RegsOnly i s t ∧ t.w.p = s.w.p ∧ t.w.sp = s.w.sp ∧ LaneResults (s.w.active g) d n val s t ∧
    ∀ l, l < 32 → t.w.pz.getLsbD l =
      (s.w.pz.getLsbD l || ((s.w.active g).getLsbD l && (decide (s.w.pz &&& s.w.active g ≠ 0) || bad l)))

/-- Element `k` of an operand, as an integer of its type (R122). -/
def State.intElem (s : State) (t : Ty) (x : Opd) (l k : Nat) (place : Nat := 0) : Int :=
  t.int (t.elem (s.w.operand t x l place) k)

/-- Every element of a value is the one given. -/
def Elems (t : Ty) (v : Nat) (f : Nat → Nat) : Prop := ∀ k, k < t.count → t.elem v k = f k

/-! ### Memory words -/

/-- An operation of the issuing warp put in flight (R54, R259): the newest of the device's operations, its counter one
higher, the warp at its next word and nothing else changed. A word none of whose lanes accesses anything leaves nothing
outstanding. -/
def PutInFlight (i : Instr) (o : MemOp) (s t : State) : Prop :=
  if o.pieces = [] then t = s.advance i
  else o.id = s.d.nextId ∧ t = ({ s with
    w := s.w.countUp o.cls
    d := { s.d with ops := s.d.ops ++ [o], nextId := s.d.nextId + 1 } } : State).advance i

/-- Whether a word's check of a lane lets `n` bytes at an offset from a base be accessed: every byte translates with the
permission, and no copy for a revision has to be made first (R160, R332, R344). `kind` is 0 for a read, 1 a write, 2 both. -/
def State.Reaches (s : State) (base : GBase) (kind off n : Nat) : Prop :=
  ∀ k, k < n →
    s.accessFault s.w.ctx s.w.task ((base.va + off + k) % 2 ^ 64) kind (s.hit s.w.core s.w.ctx base ((off + k) % 2 ^ 64)) = none ∧
    (kind ≠ 0 → (s.d.ctx s.w.ctx).needsPage s.w.task ((base.va + off + k) % 2 ^ 64) = false)

/-- The pieces of a word's elements (R164): those of each lane of a mask make up its element of `n` bytes, no other lane
has any, and each is as `good` says. -/
def Covers (act : Lanes) (ps : List Piece) (n : Nat → Nat) (good : Nat → Piece → Prop) : Prop :=
  (∀ l k, l < 32 → act.getLsbD l = true → k < n l → ∃ p, p ∈ ps ∧ p.lane = l ∧ p.byteOfs ≤ k ∧ k < p.byteOfs + p.size) ∧
  (∀ l, l < 32 → act.getLsbD l = true → ((ps.filter fun p => p.lane = l).map Piece.size).sum = n l) ∧
  ∀ p, p ∈ ps → p.lane < 32 ∧ act.getLsbD p.lane = true ∧ p.byteOfs + p.size ≤ n p.lane ∧ good p.lane p

/-- A piece of a global access at the place its address translates to (R53, R160). -/
def GlobalPiece (s : State) (base : GBase) (off : Nat) (act : Nat → Nat → Act) (p : Piece) : Prop :=
  p.ok = true ∧ p.va = (base.va + off + p.byteOfs) % 2 ^ 64 ∧ p.act = act p.byteOfs p.size ∧
  ∃ h, s.hit s.w.core s.w.ctx base ((off + p.byteOfs) % 2 ^ 64) = some h ∧ p.place = .phys h.pa

/-- A piece naturally aligned, of at most 16 bytes (R164). -/
def Piece.Aligned (p : Piece) (a : Nat) : Prop :=
  (p.size = 1 ∨ p.size = 2 ∨ p.size = 4 ∨ p.size = 8 ∨ p.size = 16) ∧ a % p.size = 0

/-- A piece of a core memory access (R161, R162, R120). -/
def CorePiece (at_ : Nat × Nat) (act : Nat → Nat → Act) (p : Piece) : Prop :=
  p.ok = true ∧ p.place = .core at_.1 (at_.2 + p.byteOfs) ∧ p.act = act p.byteOfs p.size ∧ p.Aligned (at_.2 + p.byteOfs)

/-- Where a lane of a scratch word accesses, every check of R161 and R162 passing. -/
def State.ScratchAt (s : State) (x : MemW) (l : Nat) (at_ : Nat × Nat) : Prop :=
  let c := s.d.ctx s.w.ctx
  let n := eszBytes x.esz
  if x.sub = 0 then
    0 ≤ s.ownOfs x l ∧ s.ownOfs x l + n ≤ c.scratchBytes ∧ at_ = (s.w.core, c.scratchAt + (s.ownOfs x l).toNat)
  else ∃ win g m, s.remoteCore x l = some (win, g) ∧ s.memberWindow win g = some m ∧
    0 ≤ s.remoteOfs x l ∧ s.remoteOfs x l + n ≤ win.size ∧ s.inClass x.cp g = true ∧
    at_ = (g, c.scratchAt + m.base + (s.remoteOfs x l).toNat)

/-- Where a lane of a frame word accesses, all its words inside its frame (R120). -/
def State.FrameAt (s : State) (x : MemW) (l : Nat) (at_ : Nat × Nat) : Prop :=
  let ofs := s.w.memOfs x.b x.scl x.ofs.toInt l
  0 ≤ ofs ∧ ofs + eszWords x.esz ≤ s.frameSize l ∧ at_ = (s.w.core, (s.w.frame.getD l 0 + ofs.toNat) * 4)

/-! ### Memory and queues -/

/-- `n` bytes of memory from `a` on hold the number `x`, low byte first, and every other byte is as before. -/
def Stored (m m' : PMem) (a n x : Nat) : Prop :=
  ∀ b, m'.byte b = if a ≤ b ∧ b < a + n then BitVec.ofNat 8 (x / 2 ^ (8 * (b - a))) else m.byte b

/-- No atomic stands between its read and its write at a range of physical bytes (R269): not where the page tables put it, nor
in its task's view. -/
def State.NoSplit (s : State) (a n : Nat) : Prop :=
  ∀ o p, o ∈ s.d.ops → p ∈ o.pieces → p.act.isEnd = true →
    p.place.meets p.size (.phys a) n = false ∧ (s.placeOf o p).meets p.size (.phys a) n = false

/-- A warp parked before its next word (R115, R221, R335, R336): the lowest free park entry of its share taken under its next
generation, a record that names it sent to the ring, and the warp parked, or waiting with a record that must wait. -/
def ParkedOn (v : State) (kind sd : Nat) (r : FaultRec) (i : Instr) (t : State) : Prop :=
  let y := v.d.share v.w.ctx v.w.core
  let idx := y.freePark
  let gen := (y.parkGen kind idx + 1) % 64
  let p : Park := { kind := kind, gen := gen, uid := v.w.uid, sd := sd, used := true, held := none }
  let u := v.mapShare v.w.ctx v.w.core fun x => { x with park := x.park.put (parkKey kind idx) p }
  let k : WaitRec :=
    { body := { r with parked := true, resid := resid kind v.w.ctx v.w.core idx gen }
      uid := some v.w.uid, seq := v.d.nextId, holds := true, unit := false, after := v.markers v.w.uid v.d.nextId }
  t = ((u.record k).1.mapWarp fun w => { w with status := if (u.record k).2 then .ringWait else .parked idx }).advance i

/-- The descriptor of a sequence read at issue: aligned, in range, translated with the access allowed, no own access to
it outstanding (R209, R357). -/
def State.SeqAt (s : State) (a : Spec) (kind : Nat) (write : Bool) (d : SeqDesc) (pa : Nat) : Prop :=
  s.w.sPair a % 64 = 0 ∧ s.w.sPair a < 2 ^ 57 ∧ s.issueMiss (s.w.sPair a) kind = none ∧
  (∃ t, s.translate s.w.core s.w.ctx (s.w.sPair a) = some t ∧ pa = s.locate s.w.ctx s.w.task (s.w.sPair a) t.pa) ∧
  s.depsDone (s.memAfter write false) = true ∧ s.warpMeets (.phys pa) 64 = false ∧ d = SeqDesc.of (s.mem.nat pa 64)

/-- A queue of the issuing warp's share replaced, with `n` names used: every other queue, share and field of the device
is as before. -/
def QueueNow (q : Queue) (es : List QEntry) (n : Nat) (s t : State) : Prop :=
  let x := t.d.share s.w.ctx s.w.core
  t.mem = s.mem ∧ t.turns = s.turns ∧ t.d = { s.d with shares := t.d.shares, nextId := s.d.nextId + n } ∧
  (∀ k, k ≠ shareKey s.w.ctx s.w.core → t.d.shares.find k = s.d.shares.find k) ∧
  x = { s.d.share s.w.ctx s.w.core with queues := x.queues } ∧ x.queue q = es ∧
  ∀ p, p ≠ q → x.queue p = (s.d.share s.w.ctx s.w.core).queue p

/-- Entries taken from a queue of the issuing warp's share (R62): the queue replaced, and the record of an entry whose mark an
error set (R392); the warp is said apart. -/
def TookFrom (q : Queue) (es : List QEntry) (act : Lanes) (taken : List QEntry) (s t : State) : Prop :=
  ∃ v, QueueNow q es 0 s v ∧ v.w = s.w ∧ t = { v.noteTaken act taken with w := t.w }

/-- The issuing warp at its next word, running, with nothing else changed. -/
def WarpOn (i : Instr) (s t : State) : Prop := t.w = { s.w with status := .running }.advance i

/-- The issuing warp at its next word, running, with V registers and poison flags changed. -/
def WarpTook (i : Instr) (s t : State) : Prop :=
  t.w = { s.w with status := .running, v := t.w.v, inflight := t.w.inflight, pz := t.w.pz }.advance i

/-- The issuing warp at its next word, running, with only the main files, L0, L1 and poison flags changed. -/
def WarpGot (i : Instr) (s t : State) : Prop :=
  t.w = { s.w with
    status := .running, v := t.w.v, o := t.w.o, s := t.w.s, inflight := t.w.inflight
    l0 := t.w.l0, l1 := t.w.l1, lprod := t.w.lprod, pz := t.w.pz }.advance i

/-- The issuing warp blocked at a word (R63): nothing of the word is performed. -/
def Blocks (i : Instr) (s : State) : Prop := exec i s = .next { s with w := { s.w with status := .blocked i } }

/-- An entry that a word of the issuing warp placed (R62, R179, R180). -/
def EntryBy (s : State) (q : Queue) (rls : Bool) (e : QEntry) : Prop :=
  e.uid = s.w.uid ∧ e.task = s.w.task ∧ e.after = s.pushDeps q rls ∧ e.qafter = s.w.fencedBy q

/-! ### The matrix engine -/

/-- A matrix word of the issuing warp issued to the engine of its core (R193, R194): the instruction is the newest there,
carries the formats installed now, and the warp goes on. -/
def IssuesMx (i : Instr) (kind : MKind) (ev : Bool) (evid : Nat) (s : State) : Prop :=
  let y := s.d.share s.w.ctx s.w.core
  ∃ t m, exec i s = .next t ∧ t.mem = s.mem ∧ t.w = s.w.advance i ∧
    m.id = s.d.nextId ∧ m.uid = s.w.uid ∧ m.task = s.w.task ∧ m.kind = kind ∧ m.ev = ev ∧ m.evid = evid % 256 ∧
    m.act = y.mx.act ∧ m.wgt = y.mx.wgt ∧ m.fmode = s.w.fmode ∧ m.srseed = s.w.srseed ∧
    m.begun = false ∧ m.finished = false ∧ m.done = 0 ∧ m.poison = false ∧ m.leave = 0 ∧
    t.d = ({ s.d with nextId := s.d.nextId + 1 } : Dev).setShare s.w.ctx s.w.core
      { y with mx := { y.mx with issued := y.mx.issued ++ [m], owned := true, due := false } }

/-- A matrix word of the issuing warp stalls at its issue: its context's wait for the engine begins, and the warp keeps its
place (R193, R323, R324). -/
def StallsMx (i : Instr) (s : State) : Prop :=
  exec i s = .next ((s.startEngineWait s.w.ctx s.w.core).mapWarp fun w => { w with status := .matrixStall })

/-! ### Tokens -/

/-- Messages of one unit put on their circuits in order, each carrying the item it should (R262). -/
def Posted (items : List Item) (sender : Nat) (after : List (List Dep)) (s t : State) : Prop :=
  ∃ ms : List Msg, t.d.net = s.d.net ++ ms ∧ ms.map Msg.item = items ∧ ms.map Msg.after = after ∧
    ∀ m, m ∈ ms → m.sender = sender ∧ m.dest = m.item.tok.dest ∧ m.cclass = m.item.tok.cclass

/-- A table with its keys strictly rising. -/
def Rising {α : Type} (m : Map α) : Prop := m.Pairwise fun p q => p.1 < q.1

/-- An item as it is put on its circuit: it carries the task of the frame it goes to (R322). -/
def State.itemOf (s : State) (kind ctr : Nat) (t : Token) : Item :=
  { kind := kind, tok := t, ctr := ctr, task := s.d.frameTask t.ctx t.dest t.ofs }

/-- A message that its core takes now (R226, R248, R262, R328): it is the next of its circuit and of this device, its context
runs there, and nothing that must come first waits. -/
def State.Takes (s : State) (m : Msg) (kind : Nat) : Prop :=
  let t := m.item.tok
  s.d.msg m.id = some m ∧ m.item.kind = kind ∧ s.d.mayArrive m = true ∧ t.device = s.d.devnum ∧ m.dest = t.dest ∧
  s.d.mustRetry t.ctx t.dest = false ∧ (s.d.ctx t.ctx).state = .active ∧ t.badCore = false ∧
  (s.d.core t.dest).offline = false ∧ (s.d.share t.ctx t.dest).saved = false ∧ s.d.tooLate m.item m.dest = false ∧
  ∀ e, e ∈ (s.d.ctx t.ctx).spill → e.item.tok.dest ≠ t.dest

/-- A token that passes the checks of R226 at a live frame, its block's header being `h`. -/
def State.Meets (s : State) (t : Token) (f : Frame) (h : Header) : Prop :=
  let x := s.d.share t.ctx t.dest
  x.slot.isSome = true ∧ t.illFormed = false ∧ x.frames.find t.ofs = some f ∧ f.state = .live ∧ (∃ va, s.blockAt t.ctx f.task t.blk = some (va, h)) ∧
  h.ctrofs < f.size * 16 ∧ (t.control = false → t.slot < f.size * 16)

end Sys2Proof.Machine
end

