-- ==== Sys2Proof/Certificates/Slice0/Obligations.lean ====
section
/-! DEFINITION. The statements for the provers. Each says which rules of the manual it formalises. -/

open Sys2Proof Sys2Proof.Machine

/-! ### Integer words -/

/-- R122, R123: `IADD`, `ISUB`, `IMUL`, `IMIN`, `IMAX`, `IABS` and `IMAD` complete on all data, element by element: the
exact result is limited to the type under `.SAT` where the word takes it, else reduced modulo 2^w.
Where the manual leaves a point open, the reading is the model's: log entry 8. -/
def Obligations.IntegerArithmetic : Prop :=
  ∀ s : State,
  (∀ x : Alu2, s.wordFault (.iadd x) = none →
    Completes (.iadd x) x.g x.ctl x.d x.ty.regs (fun l v => Elems x.ty v fun k =>
      wrapInt x.ty.width (if x.xf
        then satInt (s.intElem x.ty (.spec x.a) l k + s.intElem x.ty x.b l k 1) x.ty.minInt x.ty.maxInt
        else s.intElem x.ty (.spec x.a) l k + s.intElem x.ty x.b l k 1)) s) ∧
  (∀ x : Alu2, s.wordFault (.isub x) = none →
    Completes (.isub x) x.g x.ctl x.d x.ty.regs (fun l v => Elems x.ty v fun k =>
      wrapInt x.ty.width (if x.xf
        then satInt (s.intElem x.ty (.spec x.a) l k - s.intElem x.ty x.b l k 1) x.ty.minInt x.ty.maxInt
        else s.intElem x.ty (.spec x.a) l k - s.intElem x.ty x.b l k 1)) s) ∧
  (∀ x : Alu2, s.wordFault (.imul x) = none →
    Completes (.imul x) x.g x.ctl x.d x.ty.regs (fun l v => Elems x.ty v fun k =>
      wrapInt x.ty.width (s.intElem x.ty (.spec x.a) l k * s.intElem x.ty x.b l k 1)) s) ∧
  (∀ x : Alu2, s.wordFault (.imin x) = none →
    Completes (.imin x) x.g x.ctl x.d x.ty.regs (fun l v => Elems x.ty v fun k =>
      wrapInt x.ty.width (min (s.intElem x.ty (.spec x.a) l k) (s.intElem x.ty x.b l k 1))) s) ∧
  (∀ x : Alu2, s.wordFault (.imax x) = none →
    Completes (.imax x) x.g x.ctl x.d x.ty.regs (fun l v => Elems x.ty v fun k =>
      wrapInt x.ty.width (max (s.intElem x.ty (.spec x.a) l k) (s.intElem x.ty x.b l k 1))) s) ∧
  (∀ x : Alu2, s.wordFault (.iabs x) = none →
    Completes (.iabs x) x.g x.ctl x.d x.ty.regs (fun l v => Elems x.ty v fun k =>
      wrapInt x.ty.width (if x.xf
        then satInt (s.intElem x.ty (.spec x.a) l k).natAbs x.ty.minInt x.ty.maxInt
        else (s.intElem x.ty (.spec x.a) l k).natAbs)) s) ∧
  (∀ x : Alu3, s.wordFault (.imad x) = none →
    Completes (.imad x) x.g x.ctl x.d x.ty.regs (fun l v => Elems x.ty v fun k =>
      wrapInt x.ty.width (s.intElem x.ty (.spec x.a) l k * s.intElem x.ty (.spec x.b) l k 1 +
        s.intElem x.ty (.spec x.c) l k 2)) s)

/-- R122, R123: `AND`, `OR`, `XOR` and `ANDN` complete, bit by bit of every element.
Where the manual leaves a point open, the reading is the model's: log entry 8. -/
def Obligations.IntegerLogic : Prop :=
  ∀ s : State, ∀ x : Alu2,
  let bits := fun (f : Bool → Bool → Bool) (l v : Nat) => ∀ k, k < x.ty.count → ∀ i, i < x.ty.width →
    (x.ty.elem v k).testBit i =
      f ((x.ty.elem (s.w.src x.ty x.a l) k).testBit i) ((x.ty.elem (s.w.operand x.ty x.b l 1) k).testBit i)
  (s.wordFault (.and x) = none → Completes (.and x) x.g x.ctl x.d x.ty.regs (bits (· && ·)) s) ∧
  (s.wordFault (.or x) = none → Completes (.or x) x.g x.ctl x.d x.ty.regs (bits (· || ·)) s) ∧
  (s.wordFault (.xor x) = none → Completes (.xor x) x.g x.ctl x.d x.ty.regs (bits (· ^^ ·)) s) ∧
  (s.wordFault (.andn x) = none → Completes (.andn x) x.g x.ctl x.d x.ty.regs (bits (fun a b => a && !b)) s)

/-- R125: the shifts complete for every count, element by element, or on the whole pair of a 64-bit type, whose count is
one 32-bit operand.
Where the manual leaves a point open, the reading is the model's: log entry 8. -/
def Obligations.IntegerShifts : Prop :=
  ∀ s : State, ∀ x : Alu2,
  let each := fun (f : Nat → Nat → Nat → Nat) (l v : Nat) =>
    if x.ty.wide then x.ty.elem v 0 = f 64 (x.ty.elem (s.w.src x.ty x.a l) 0) (s.w.opd32 x.b l 1).toNat
    else Elems x.ty v fun k => f x.ty.width (x.ty.elem (s.w.src x.ty x.a l) k) (x.ty.elem (s.w.operand x.ty x.b l 1) k)
  (s.wordFault (.shl x) = none → Completes (.shl x) x.g x.ctl x.d x.ty.regs
    (each fun w a c => if c < w then a * 2 ^ c % 2 ^ w else 0) s) ∧
  (s.wordFault (.shr x) = none → Completes (.shr x) x.g x.ctl x.d x.ty.regs
    (each fun w a c => if c < w then a / 2 ^ c else 0) s) ∧
  (s.wordFault (.sar x) = none → Completes (.sar x) x.g x.ctl x.d x.ty.regs
    (each fun w a c => wrapInt w (sextInt w a / ((2 ^ min c w : Nat) : Int))) s) ∧
  (s.wordFault (.rot x) = none → Completes (.rot x) x.g x.ctl x.d x.ty.regs
    (each fun w a c => (a * 2 ^ (c % w) + a / 2 ^ (w - c % w)) % 2 ^ w) s)

/-- R124: `IMULH`, `IMADW` and `IADDC` complete: the high half of a product, a 64-bit multiply-add, and a sum with a
carry in and out.
Where the manual leaves a point open, the reading is the model's: log entry 8. -/
def Obligations.IntegerWide : Prop :=
  ∀ s : State,
  (∀ x : Alu2, s.wordFault (.imulh x) = none →
    Completes (.imulh x) x.g x.ctl x.d 1 (fun l v => v =
      wrapInt 64 (s.intElem x.ty (.spec x.a) l 0 * s.intElem x.ty x.b l 0 1) / 2 ^ 32) s) ∧
  (∀ x : Alu3, s.wordFault (.imadw x) = none →
    Completes (.imadw x) x.g x.ctl x.d 2 (fun l v => v =
      wrapInt 64 (s.intElem x.ty (.spec x.a) l 0 * s.intElem x.ty (.spec x.b) l 0 1 + (s.w.src .u64 x.c l 2 : Int))) s) ∧
  (∀ x : AddcW, s.wordFault (.iaddc x) = none →
    ∃ t, exec (.iaddc x) s = .next t ∧ RegsOnly (.iaddc x) s t ∧ t.w.pz = s.w.pz ∧
      (x.ctl.sc = false →
        let sum := fun l => (s.w.src .u32 x.a l) + (s.w.src .u32 x.b l 1) + (if (s.w.psrc x.cin).getLsbD l then 1 else 0)
        Results x.g x.ctl x.d 1 (fun l => sum l % 2 ^ 32) s t ∧ t.w.sp = s.w.sp ∧
        ∀ n l, l < 32 → (t.w.pred n).getLsbD l =
          if n = x.cout.toNat ∧ n ≠ 7 ∧ (s.w.active x.g).getLsbD l then decide (2 ^ 32 ≤ sum l) else (s.w.pred n).getLsbD l) ∧
      (x.ctl.sc = true →
        let sum := (s.w.src .u32 x.a 0) + (s.w.src .u32 x.b 0 1) + (if s.w.spsrc x.cin then 1 else 0)
        Results x.g x.ctl x.d 1 (fun _ => sum % 2 ^ 32) s t ∧ t.w.p = s.w.p ∧
        ∀ n, t.w.spred n = if n = x.cout.toNat ∧ s.w.scalarOn x.g then decide (2 ^ 32 ≤ sum) else s.w.spred n))

/-- R128, and words of R123, R126 and R129: the bit counts, `BREV`, `HASH`, `BFE`, `BFI`, `MOVI` and `LEA` complete with the values of their
rows.
Where the manual leaves a point open, the reading is the model's: log entries 8, 83 and 94. -/
def Obligations.IntegerBits : Prop :=
  ∀ s : State,
  (∀ x : Alu2, s.wordFault (.popc x) = none → Completes (.popc x) x.g x.ctl x.d 1
    (fun l v => v = ((List.range x.ty.width).filter fun i => (s.w.src x.ty x.a l).testBit i).length) s) ∧
  (∀ x : Alu2, s.wordFault (.clz x) = none → Completes (.clz x) x.g x.ctl x.d 1
    (fun l v => v ≤ x.ty.width ∧
      (∀ i, i < x.ty.width → x.ty.width - v ≤ i → (s.w.src x.ty x.a l).testBit i = false) ∧
      (v < x.ty.width → (s.w.src x.ty x.a l).testBit (x.ty.width - 1 - v) = true)) s) ∧
  (∀ x : Alu2, s.wordFault (.ctz x) = none → Completes (.ctz x) x.g x.ctl x.d 1
    (fun l v => v ≤ x.ty.width ∧ (∀ i, i < v → (s.w.src x.ty x.a l).testBit i = false) ∧
      (v < x.ty.width → (s.w.src x.ty x.a l).testBit v = true)) s) ∧
  (∀ x : Alu2, s.wordFault (.brev x) = none → Completes (.brev x) x.g x.ctl x.d x.ty.regs
    (fun l v => v = brevN x.ty.width (s.w.src x.ty x.a l)) s) ∧
  (∀ x : Alu2, s.wordFault (.hash x) = none → Completes (.hash x) x.g x.ctl x.d 1
    (fun l v => v = (hash32 (BitVec.ofNat 32 (s.w.src x.ty x.a l))).toNat) s) ∧
  (∀ x : Alu3, s.wordFault (.bfe x) = none → Completes (.bfe x) x.g x.ctl x.d x.ty.regs
    (fun l v => v = bfeN x.ty (s.w.src x.ty x.a l) (s.w.read32 x.b l 1).toNat (s.w.read32 x.c l 2).toNat) s) ∧
  (∀ x : Alu3, s.wordFault (.bfi x) = none → Completes (.bfi x) x.g x.ctl x.d x.ty.regs
    (fun l v => v = bfiN x.ty.width (s.w.src x.ty x.a l) (s.w.src x.ty x.b l 1) (s.w.read32 x.c l 2).toNat) s) ∧
  (∀ x : Alu3, s.wordFault (.lea x) = none → Completes (.lea x) x.g x.ctl x.d x.ty.regs
    (fun l v => v = if x.ty.wide
      then wrapInt 64 ((s.w.src x.ty x.a l : Int) +
        (if x.ty.signed then (s.w.read32 x.b l 1).toInt else ((s.w.read32 x.b l 1).toNat : Int)) *
          ((2 ^ ((s.w.read32 x.c l 2).toNat % 64) : Nat) : Int))
      else ((s.w.src x.ty x.a l) + (s.w.read32 x.b l 1).toNat * 2 ^ ((s.w.read32 x.c l 2).toNat % 32)) % 2 ^ 32) s) ∧
  (∀ x : Alu2, s.wordFault (.movi x) = none → Completes (.movi x) x.g x.ctl x.d x.ty.regs
    (fun l v => v = s.w.operand x.ty x.b l 1) s)

/-- R130, R145, and the words of R127: the compares, the predicate words and `PTEST` complete: each active lane writes its
predicate, other lanes and predicates keep theirs, and P7 discards the write; `ISEL` copies one of its sources; `PCLR` clears
the poison flags of the active lanes; other FN values of `PTEST` and `PCLR` raise 0x01.
Where the manual leaves a point open, the reading is the model's: log entry 8. -/
def Obligations.Predicates : Prop :=
  ∀ s : State,
  let wrote := fun (i : Instr) (g : Guard) (c : Ctl) (pd : Nat) (f : Nat → Bool) (t : State) =>
    exec i s = .next t ∧ RegsOnly i s t ∧ SameFiles s t ∧ t.w.pz = s.w.pz ∧
    (c.sc = false → t.w.sp = s.w.sp ∧ ∀ n l, l < 32 → (t.w.pred n).getLsbD l =
      if n = pd ∧ n ≠ 7 ∧ (s.w.active g).getLsbD l then f l else (s.w.pred n).getLsbD l) ∧
    (c.sc = true → t.w.p = s.w.p ∧ ∀ n, t.w.spred n = if n = pd ∧ s.w.scalarOn g then f 0 else s.w.spred n)
  (∀ x : CmpW, s.wordFault (.isetp x) = none → ∃ t, wrote (.isetp x) x.g x.ctl x.pd.toNat
    (fun l =>
      let a := x.ty.int (s.w.src x.ty x.a l)
      let b := x.ty.int (s.w.operand x.ty x.b l 1)
      let both := s.w.src x.ty x.a l &&& s.w.operand x.ty x.b l 1
      match x.cond.toNat with
      | 0 => decide (a = b)
      | 1 => decide (a ≠ b)
      | 2 => decide (a < b)
      | 3 => decide (a ≤ b)
      | 4 => decide (a > b)
      | 5 => decide (a ≥ b)
      | 6 => decide (both ≠ 0)
      | _ => decide (both = 0)) t) ∧
  (∀ (i : Instr) (x : PredW) (f : Bool → Bool → Bool),
    (i = .pand x ∧ f = (· && ·)) ∨ (i = .por x ∧ f = (· || ·)) ∨ (i = .pxor x ∧ f = (· ^^ ·)) ∨
      (i = .pnot x ∧ f = fun a _ => !a) →
    s.wordFault i = none → ∃ t, wrote i x.g x.ctl x.pd.toNat
      (fun l => if x.ctl.sc then f (s.w.spsrc x.pa) (s.w.spsrc x.pb)
        else f ((s.w.psrc x.pa).getLsbD l) ((s.w.psrc x.pb).getLsbD l)) t) ∧
  (∀ x : PtestW, s.wordFault (.ptest x) = none → ∃ t, wrote (.ptest x) x.g x.ctl x.pd.toNat
    (fun l => if x.fn = 1 then decide (s.w.pz &&& s.w.filled ≠ 0) else s.w.pz.getLsbD l) t) ∧
  (∀ x : PtestW, s.wordFault (.pclr x) = none → ∃ t, exec (.pclr x) s = .next t ∧ RegsOnly (.pclr x) s t ∧ SameFiles s t ∧
    t.w.p = s.w.p ∧ t.w.sp = s.w.sp ∧
    ∀ l, l < 32 → t.w.pz.getLsbD l = (s.w.pz.getLsbD l && !(s.w.active x.g).getLsbD l)) ∧
  (∀ x : PtestW, 2 ≤ x.fn.toNat → exec (.ptest x) s = .next (s.raiseAll 0x01)) ∧
  (∀ x : PtestW, x.fn ≠ 0 → exec (.pclr x) s = .next (s.raiseAll 0x01)) ∧
  (∀ x : SelW, s.wordFault (.isel x) = none → Completes (.isel x) x.g x.ctl x.d x.ty.regs
    (fun l v => v = if (if x.ctl.sc then s.w.spsrc x.pc else (s.w.psrc x.pc).getLsbD l)
      then s.w.src x.ty x.a (if x.ctl.sc then 0 else l) else s.w.src x.ty x.b (if x.ctl.sc then 0 else l) 1) s)

/-! ### Floating-point words -/

/-- R132, R133, R137, R138: `FADD`, `FSUB`, `FMUL`, `FFMA`, `FRND`, `FSCALE` and `FDOT2` complete on all data: each
element is the exact result rounded once under the word's rounding code, its operands read under DAZ.
Where the manual leaves a point open, the reading is the model's: log entries 8, 48 and 49. -/
def Obligations.FloatArithmetic : Prop :=
  ∀ s : State,
  let num := fun (t : Ty) (y : Opd) (place l k : Nat) => t.fv (fmodeDaz s.w.fmode) (s.w.operand t y l place) k
  (∀ x : Alu2, s.wordFault (.fadd x) = none → FloatCompletes (.fadd x) x.g x.ctl x.d x.ty
    (fun l => s.w.roundElems x.ty (rndOf s.w.fmode x.rnd) l fun k =>
      FV.add (rndOf s.w.fmode x.rnd) (num x.ty (.spec x.a) 0 l k) (num x.ty x.b 1 l k)) (fun _ => false) s) ∧
  (∀ x : Alu2, s.wordFault (.fsub x) = none → FloatCompletes (.fsub x) x.g x.ctl x.d x.ty
    (fun l => s.w.roundElems x.ty (rndOf s.w.fmode x.rnd) l fun k =>
      FV.add (rndOf s.w.fmode x.rnd) (num x.ty (.spec x.a) 0 l k) (num x.ty x.b 1 l k).negate) (fun _ => false) s) ∧
  (∀ x : Alu2, s.wordFault (.fmul x) = none → FloatCompletes (.fmul x) x.g x.ctl x.d x.ty
    (fun l => s.w.roundElems x.ty (rndOf s.w.fmode x.rnd) l fun k =>
      FV.mul (num x.ty (.spec x.a) 0 l k) (num x.ty x.b 1 l k)) (fun _ => false) s) ∧
  (∀ x : Alu3, s.wordFault (.ffma x) = none → FloatCompletes (.ffma x) x.g x.ctl x.d x.ty
    (fun l => s.w.roundElems x.ty (rndOf s.w.fmode x.rnd) l fun k =>
      FV.add (rndOf s.w.fmode x.rnd) (FV.mul (num x.ty (.spec x.a) 0 l k) (num x.ty (.spec x.b) 1 l k))
        (num x.ty (.spec x.c) 2 l k)) (fun _ => false) s) ∧
  (∀ x : Alu2, s.wordFault (.frnd x) = none → FloatCompletes (.frnd x) x.g x.ctl x.d x.ty
    (fun l => s.w.roundElems x.ty (rndOf s.w.fmode x.rnd) l fun k =>
      (num x.ty (.spec x.a) 0 l k).integral (rndOf s.w.fmode x.rnd) (s.w.srq l k)) (fun _ => false) s) ∧
  (∀ x : Alu2, s.wordFault (.fscale x) = none → FloatCompletes (.fscale x) x.g x.ctl x.d x.ty
    (fun l => s.w.roundElems x.ty (rndOf s.w.fmode x.rnd) l fun k =>
      (num x.ty (.spec x.a) 0 l k).scale (s.w.opd32 x.b l 1).toInt) (fun _ => false) s) ∧
  (∀ x : Alu3, s.wordFault (.fdot2 x) = none → FloatCompletes (.fdot2 x) x.g x.ctl x.d .f32
    (fun l => s.w.roundElems .f32 (rndOf s.w.fmode x.rnd) l fun _ =>
      dotSum (rndOf s.w.fmode x.rnd) (num .f32 (.spec x.c) 2 l 0)
        [(num x.ty (.spec x.a) 0 l 0, num x.ty (.spec x.b) 1 l 0), (num x.ty (.spec x.a) 0 l 1, num x.ty (.spec x.b) 1 l 1)])
    (fun _ => false) s)

/-- R134, R135, R136: `FMIN`, `FMAX`, `FCLASS` and `FSETP` complete: the lesser or greater element, the class bit of the
raw code, and the condition of the two numbers.
Where the manual leaves a point open, the reading is the model's: log entry 8. -/
def Obligations.FloatSelect : Prop :=
  ∀ s : State,
  (∀ (i : Instr) (x : Alu2) (greater : Bool), (i = .fmin x ∧ greater = false) ∨ (i = .fmax x ∧ greater = true) →
    s.wordFault i = none → FloatCompletes i x.g x.ctl x.d x.ty
      (fun l => x.ty.join fun k => x.ty.ffmt.pick greater x.xf (fmodeDaz s.w.fmode) (fmodeFtz s.w.fmode)
        (x.ty.elem (s.w.src x.ty x.a l) k) (x.ty.elem (s.w.operand x.ty x.b l 1) k)) (fun _ => false) s) ∧
  (∀ x : Alu2, s.wordFault (.fclass x) = none → Completes (.fclass x) x.g x.ctl x.d 1
    (fun l v => v = 2 ^ x.ty.ffmt.classOf (x.ty.elem (s.w.src x.ty x.a l) 0)) s) ∧
  (∀ x : CmpW, s.wordFault (.fsetp x) = none → ∃ t, exec (.fsetp x) s = .next t ∧ RegsOnly (.fsetp x) s t ∧
    SameFiles s t ∧ t.w.pz = s.w.pz ∧ t.w.sp = s.w.sp ∧
    ∀ n l, l < 32 → (t.w.pred n).getLsbD l =
      if n = x.pd.toNat ∧ n ≠ 7 ∧ (s.w.active x.g).getLsbD l then
        fltCond x.cond.toNat (FV.cmp (x.ty.fv (fmodeDaz s.w.fmode) (s.w.src x.ty x.a l) 0)
          (x.ty.fv (fmodeDaz s.w.fmode) (s.w.operand x.ty x.b l 1) 0))
      else (s.w.pred n).getLsbD l)

/-- R146: the nine special functions complete: each element is a fixed function of the operand's bits and the type (a
free value within the bound where the bound exceeds half a unit: log entry 10). Only `SQRT` rounds under RND.
Where the manual leaves a point open, the reading is the model's: log entries 8 and 10. -/
def Obligations.SpecialFunctions : Prop :=
  ∀ (s : State) (i : Instr) (x : Alu2) (op : SfuOp),
    (i = .rcp x ∧ op = .rcp) ∨ (i = .rsq x ∧ op = .rsq) ∨ (i = .sqrt x ∧ op = .sqrt) ∨ (i = .exp2 x ∧ op = .exp2) ∨
      (i = .log2 x ∧ op = .log2) ∨ (i = .sin x ∧ op = .sin) ∨ (i = .cos x ∧ op = .cos) ∨ (i = .tanh x ∧ op = .tanh) ∨
      (i = .sigm x ∧ op = .sigm) →
    s.wordFault i = none → FloatCompletes i x.g x.ctl x.d x.ty
      (fun l => x.ty.join fun k => sfuElement op x.ty.ffmt (if op = .sqrt then rndOf s.w.fmode x.rnd else .rne)
        (fmodeDaz s.w.fmode) (fmodeFtz s.w.fmode) (s.w.srq l k) (x.ty.elem (s.w.src x.ty x.a l) k)) (fun _ => false) s

/-- R147: the special functions return the values of the table for the special operands, in every format and whatever the bound:
for −∞, −0, +0, +∞, every NaN code and, where the table names no function, a finite negative operand; a subnormal operand under
DAZ takes the column of its zero. `EXP2` of an exact integer n returns 2^n exactly, or beyond the range +∞ or +0, and `LOG2` of
2^n returns n exactly. A result whose rounding overflows is the infinity of its sign, and one that is correctly rounded
underflows as it rounds. -/
def Obligations.SpecialValues : Prop :=
  ∀ (f : FFmt) (daz ftz : Bool) (q : Word), f = fmt16 ∨ f = fmtB16 ∨ f = fmt32 ∨ f = fmt64 →
  let at_ := fun (op : SfuOp) (raw : Nat) => sfuElement op f .rne daz ftz q raw
  let zero := f.withSign false 0
  let negZero := f.withSign true 0
  let one := (2 ^ (f.eb - 1) - 1) * 2 ^ f.mb
  (at_ .rcp (f.infBits true) = negZero ∧ at_ .rcp negZero = f.infBits true ∧ at_ .rcp zero = f.infBits false ∧
    at_ .rcp (f.infBits false) = zero) ∧
  (at_ .rsq (f.infBits true) = f.nanBits ∧ at_ .rsq negZero = f.infBits true ∧ at_ .rsq zero = f.infBits false ∧
    at_ .rsq (f.infBits false) = zero) ∧
  (at_ .sqrt (f.infBits true) = f.nanBits ∧ at_ .sqrt negZero = negZero ∧ at_ .sqrt zero = zero ∧
    at_ .sqrt (f.infBits false) = f.infBits false) ∧
  (at_ .exp2 (f.infBits true) = zero ∧ at_ .exp2 negZero = one ∧ at_ .exp2 zero = one ∧
    at_ .exp2 (f.infBits false) = f.infBits false) ∧
  (at_ .log2 (f.infBits true) = f.nanBits ∧ at_ .log2 negZero = f.infBits true ∧ at_ .log2 zero = f.infBits true ∧
    at_ .log2 (f.infBits false) = f.infBits false ∧ at_ .log2 one = zero) ∧
  (at_ .sin (f.infBits true) = f.nanBits ∧ at_ .sin negZero = negZero ∧ at_ .sin zero = zero ∧
    at_ .sin (f.infBits false) = f.nanBits) ∧
  (at_ .cos (f.infBits true) = f.nanBits ∧ at_ .cos negZero = one ∧ at_ .cos zero = one ∧
    at_ .cos (f.infBits false) = f.nanBits) ∧
  (at_ .tanh (f.infBits true) = f.withSign true one ∧ at_ .tanh negZero = negZero ∧ at_ .tanh zero = zero ∧
    at_ .tanh (f.infBits false) = one) ∧
  (at_ .sigm (f.infBits true) = zero ∧ at_ .sigm negZero = one - 2 ^ f.mb ∧ at_ .sigm zero = one - 2 ^ f.mb ∧
    at_ .sigm (f.infBits false) = one) ∧
  (∀ (op : SfuOp) (raw : Nat), raw < 2 ^ f.width → f.isNaN raw = true → at_ op raw = f.nanBits) ∧
  (∀ (raw m : Nat) (e : Int), f.read daz raw = .fin true m e → m ≠ 0 →
    (∀ op, op = .rsq ∨ op = .sqrt ∨ op = .log2 → at_ op raw = f.nanBits) ∧
    ∀ op : SfuOp, op ≠ .rsq → op ≠ .sqrt → op ≠ .log2 → ∀ v, op.value (f.read daz raw) ≠ .special v) ∧
  (∀ (op : SfuOp) (neg : Bool) (m : Nat), daz = true → f.eb ≠ 11 → m < 2 ^ f.mb →
    at_ op (f.withSign neg m) = at_ op (if neg then negZero else zero)) ∧
  (let holds := fun (a : FV) (n : Int) => ∃ s m e, a = .fin s m e ∧
     (if 0 ≤ e then (if s then -1 else 1) * (m : Int) * 2 ^ e.toNat = n else (if s then -1 else 1) * (m : Int) = n * 2 ^ (-e).toNat)
   (∀ (raw : Nat) (n : Int), holds (f.read daz raw) n →
     (1 - f.bias ≤ n → n ≤ f.bias → at_ .exp2 raw = (n + f.bias).toNat * 2 ^ f.mb) ∧
     (f.emin ≤ n → n < 1 - f.bias → ftz = false → at_ .exp2 raw = 2 ^ (n - f.emin).toNat) ∧
     (f.bias < n → at_ .exp2 raw = f.infBits false) ∧ (n < f.emin - 1 → at_ .exp2 raw = zero)) ∧
   ∀ (raw k : Nat) (e : Int), f.read daz raw = .fin false (2 ^ k) e → holds (f.read false (at_ .log2 raw)) (k + e)) ∧
  ∀ (op : SfuOp) (raw : Nat) (neg : Bool) (x : Mag), op.value (f.read daz raw) = .real neg x →
    op ≠ .exp2 ∨ exp2Exact (f.read daz raw) = none →
    let r := f.round .rne ftz neg q x
    (r = f.infBits neg → at_ op raw = r) ∧ (op.bound f (f.read daz raw) = .rounded → at_ op raw = r)

/-- R141, R143, R144 and R138's `FDOT4`: the conversions complete. `FCVT` reads its elements wide or from code slots,
times the source scale, and rounds once, into wide elements or into code slots of D; `ICVT` rounds an integer, or rounds
and saturates a float; `CVTN` gives a block's scale code or its elements over that scale. A descriptor that `CVTN` or
`FDOT4` cannot use raises 0x06 and nothing of the word is performed.
Where the manual leaves a point open, the reading is the model's: log entries 8, 51 and 52. -/
def Obligations.Conversions : Prop :=
  ∀ s : State,
  let fd := fun n => nfmt (s.fdWord n)
  let mode := fun r => rndOf s.w.fmode r
  let daz := fmodeDaz s.w.fmode
  let narrow := fun (x : Alu3) (f : NFmt) (n : Nat) (code : Nat → Nat → NCode) (bad : Nat → Bool) (t : State) =>
    let old := if x.ctl.nodst then Spec.o x.ctl.oidx else x.d
    Results x.g x.ctl x.d 1 (fun l => f.putCodes (s.w.read32 old l 3).toNat (s.w.read32 x.b l 1).toNat n (code l)) s t ∧
    ∀ l, l < 32 → t.w.pz.getLsbD l = (s.w.pz.getLsbD l || ((s.w.active x.g).getLsbD l && (bad l ||
      (List.range n).any fun k => (code l k).poison || (fmodeNanp s.w.fmode && (code l k).isNaN))))
  (∀ x : Alu3, s.wordFault (.fcvt x) = none → x.xf = false → FloatCompletes (.fcvt x) x.g x.ctl x.d x.ty
    (fun l => s.w.roundElems x.ty (mode x.rnd) l (s.fcvtSrc s.w x l).num)
    (fun l => (List.range (fcvtCount x)).any fun k => (s.fcvtSrc s.w x l).bad k) s) ∧
  (∀ x : Alu3, s.wordFault (.fcvt x) = none → x.xf = true →
    let f := fd (x.mod2.toNat % 8)
    ∃ t, exec (.fcvt x) s = .next t ∧ RegsOnly (.fcvt x) s t ∧ t.w.p = s.w.p ∧ t.w.sp = s.w.sp ∧
      narrow x f (fcvtCount x) (fun l k => f.writeQuot (mode x.rnd) (fmodeWx s.w.fmode) (fmodeSat s.w.fmode) (s.w.srq l k)
        ((s.fcvtSrc s.w x l).num k)
        (f.skind.factor ((s.w.read32 x.c l 2).toNat / (if x.fn = 15 then 256 else 1) % 256)))
        (fun l => (List.range (fcvtCount x)).any fun k => (s.fcvtSrc s.w x l).bad k) t) ∧
  (∀ x : Alu3, s.wordFault (.icvt x) = none → x.ty.intScalar = true →
    let src := (icvtOfFn x.fn).getD .f32
    let a := fun l => src.fv daz (s.w.src src x.a l) 0
    ∃ t, exec (.icvt x) s = .next t ∧ RegsOnly (.icvt x) s t ∧ t.w.p = s.w.p ∧ t.w.sp = s.w.sp ∧
      Results x.g x.ctl x.d x.ty.regs (fun l => wrapInt x.ty.width
        ((a l).toIntSat (mode x.rnd) (s.w.srq l 0) x.ty.minInt x.ty.maxInt)) s t ∧
      ∀ l, l < 32 → t.w.pz.getLsbD l = (s.w.pz.getLsbD l || ((s.w.active x.g).getLsbD l && (a l).isNaN))) ∧
  (∀ x : Alu3, s.wordFault (.icvt x) = none → x.ty.intScalar = false →
    let src := (icvtOfFn x.fn).getD .f32
    FloatCompletes (.icvt x) x.g x.ctl x.d x.ty
      (fun l => s.w.roundElems x.ty (mode x.rnd) l fun _ => FV.ofInt (src.int (s.w.src src x.a l))) (fun _ => false) s) ∧
  (∀ x : Alu3, s.wordFault (.cvtn x) = none →
    let f := fd (x.mod2.toNat % 8)
    let mag := fun l => (Ty.fv .f32 daz (s.w.src .f32 x.c l 2) 0).abs
    if f.style = .int ∨ f.skind = .none then
      exec (.cvtn x) s = .next (s.raiseAll 0x06 (BitVec.ofNat 32 (x.mod2.toNat % 8)))
    else ∃ t, exec (.cvtn x) s = .next t ∧ RegsOnly (.cvtn x) s t ∧ t.w.p = s.w.p ∧ t.w.sp = s.w.sp ∧
      (x.fn = 1 → Results x.g x.ctl x.d 1 (fun l => (f.scaleCode (mag l)).1) s t ∧
        ∀ l, l < 32 → t.w.pz.getLsbD l =
          (s.w.pz.getLsbD l || ((s.w.active x.g).getLsbD l && (f.scaleCode (mag l)).2))) ∧
      (x.fn = 0 → narrow x f x.ty.count (fun l k => f.writeQuot (mode x.rnd) (fmodeWx s.w.fmode) (fmodeSat s.w.fmode)
        (s.w.srq l k) (x.ty.fv daz (s.w.src x.ty x.a l) k) (f.skind.value (f.scaleCode (mag l)).1))
        (fun l => (f.scaleCode (mag l)).2) t)) ∧
  (∀ x : Alu3, s.wordFault (.fdot4 x) = none →
    let f := fd x.fn.toNat
    let code := fun (y : Spec) (place l k : Nat) => f.read ((s.w.read32 y l place).toNat / 2 ^ (8 * k))
    if f.width ≤ 4 then exec (.fdot4 x) s = .next (s.raiseAll 0x06 (BitVec.ofNat 32 x.fn.toNat))
    else FloatCompletes (.fdot4 x) x.g x.ctl x.d .f32
      (fun l => s.w.roundElems .f32 (mode x.rnd) l fun _ => dotSum (mode x.rnd) (Ty.fv .f32 daz (s.w.src .f32 x.c l 2) 0)
        ((List.range 4).map fun k => ((code x.a 0 l k).1, (code x.b 1 l k).1)))
      (fun l => (List.range 4).any fun k => (code x.a 0 l k).2 || (code x.b 1 l k).2) s)

/-! ### Cross-lane words, moves and pairs -/

/-- R148 to R152: the cross-lane words complete. Every source is read before any lane is written, an inactive source lane
gives zero, and `LRED` combines the lanes by the fixed tree of R152, whose 32 leaves are the active lanes' values and the
identity elsewhere.
Where the manual leaves a point open, the reading is the model's: log entries 50 and 53. -/
def Obligations.CrossLane : Prop :=
  ∀ s : State,
  let on := fun (g : Guard) (l : Nat) => (s.w.active g).getLsbD l
  (∀ x : Alu2, s.wordFault (.lshuf x) = none → LaneCompletes (.lshuf x) x.g x.d x.ty.regs
    (fun l =>
      let b := (s.w.opd32 x.b l 1).toNat
      let src := match x.fn.toNat with
        | 0 => b % 32
        | 1 => l ^^^ (b % 32)
        | 2 => if b ≤ l then l - b else l
        | _ => if l + b < 32 then l + b else l
      if on x.g src then s.w.src x.ty x.a src (8 + l) else 0) (fun _ => false) s) ∧
  (∀ x : Alu2, s.wordFault (.lbcast x) = none → LaneCompletes (.lbcast x) x.g x.d x.ty.regs
    (fun l =>
      let src := if x.fn = 1 then lowLane (s.w.active x.g) else (s.w.opd32 x.b l 1).toNat % 32
      if on x.g src then s.w.src x.ty x.a src (8 + l) else 0) (fun _ => false) s) ∧
  (∀ x : VoteW, s.wordFault (.lvote x) = none → x.fn = 3 → LaneCompletes (.lvote x) x.g (.v x.d) 1
    (fun _ => (s.w.psrc x.pa &&& s.w.active x.g).toNat) (fun _ => false) s) ∧
  (∀ x : VoteW, s.wordFault (.lvote x) = none → x.fn ≠ 3 →
    let all := (List.range 32).all fun l => !on x.g l || (s.w.psrc x.pa).getLsbD l
    let some_ := (List.range 32).any fun l => on x.g l && (s.w.psrc x.pa).getLsbD l
    let r := if x.fn = 0 then all else if x.fn = 1 then some_ else all || !some_
    ∃ t, exec (.lvote x) s = .next t ∧ RegsOnly (.lvote x) s t ∧ SameFiles s t ∧ t.w.sp = s.w.sp ∧
      (∀ n l, l < 32 → (t.w.pred n).getLsbD l =
        if n = x.d.toNat ∧ n ≠ 7 ∧ on x.g l then r else (s.w.pred n).getLsbD l) ∧
      ∀ l, l < 32 → t.w.pz.getLsbD l = (s.w.pz.getLsbD l || (on x.g l && decide (s.w.pz &&& s.w.active x.g ≠ 0)))) ∧
  (∀ x : VoteW, s.wordFault (.lcnt x) = none → LaneCompletes (.lcnt x) x.g (.v x.d) 1
    (fun l => ((List.range 32).filter fun k =>
      on x.g k && (s.w.psrc x.pa).getLsbD k && (x.fn = 0 || decide (k < l))).length) (fun _ => false) s) ∧
  (∀ x : Alu2, s.wordFault (.lscan x) = none →
    let step := x.ty.combine (x.fn.toNat % 4) (foldRnd s.w.fmode x.rnd) (fmodeDaz s.w.fmode) (fmodeFtz s.w.fmode) 0
    let first := s.w.operand x.ty x.b 0 1
    let init := if x.ty.fltAll then x.ty.join fun k => x.ty.ffmt.flush (fmodeDaz s.w.fmode) (x.ty.elem first k) else first
    let upTo := fun n => ((lanesOf (s.w.active x.g)).filter fun k => decide (k < n)).foldl
      (fun r k => step r (s.w.src x.ty x.a k)) init
    let out := fun l => if 4 ≤ x.fn.toNat then upTo l else upTo (l + 1)
    LaneCompletes (.lscan x) x.g x.d x.ty.regs out
      (fun l => x.ty.fltAll && fmodeNanp s.w.fmode && x.ty.anyNaN (out l)) s) ∧
  (∀ x : Alu2, s.wordFault (.lred x) = none →
    let step := x.ty.combine (x.fn.toNat % 4) (foldRnd s.w.fmode x.rnd) (fmodeDaz s.w.fmode) (fmodeFtz s.w.fmode) 0
    let leaf := fun l => if on x.g l then s.w.src x.ty x.a l else x.ty.identity (x.fn.toNat % 4)
    let l1 := fun n => step (leaf (2 * n)) (leaf (2 * n + 1))
    let l2 := fun n => step (l1 (2 * n)) (l1 (2 * n + 1))
    let l3 := fun n => step (l2 (2 * n)) (l2 (2 * n + 1))
    let l4 := fun n => step (l3 (2 * n)) (l3 (2 * n + 1))
    let r := step (l4 0) (l4 1)
    LaneCompletes (.lred x) x.g x.d x.ty.regs (fun _ => r)
      (fun _ => x.ty.fltAll && fmodeNanp s.w.fmode && x.ty.anyNaN r) s)

/-- R121, R129, R71, R58: `MOV` between registers copies bits, `TCSET` writes TILECOORD, `NOP` only goes on, and `MOVS` gives a
special register that is no record point. R58: with RECORD and REPLAY off, `MOVS` of CLK, CORE, DIE or DEV writes that
register's value in each lane it acts in, L0 and L1 following (R51), counts one record point in each of those lanes and
changes nothing else.
Where the manual leaves a point open, the reading is the model's: log entries 8, 53, 61 and 63. -/
def Obligations.Moves : Prop :=
  ∀ s : State,
  (∀ x : Alu2, s.wordFault (.mov x) = none → (∀ q, x.d ≠ .q q) → (∀ q, x.a ≠ .q q) →
    Completes (.mov x) x.g x.ctl x.d x.ty.regs (fun l v => v = s.w.src x.ty x.a l) s) ∧
  (∀ x : SysI, s.wordFault (.tcset x) = none → exec (.tcset x) s = .next { s with w := { s.w with
    pc := s.w.pc + (Instr.tcset x).byteLen, issued := s.w.issued + 1
    tilecoord := match x.b with
      | .imm32 v => v
      | .spec y => ((s.w.read32 x.a 0).setWidth 16 ++ (s.w.read32 y 0 1).setWidth 16 : BitVec 32) } }) ∧
  (∀ x : NopW, s.wordFault (.nop x) = none → exec (.nop x) s = .next { s with w := { s.w with
    pc := s.w.pc + (Instr.nop x).byteLen, issued := s.w.issued + 1 } }) ∧
  (∀ (x : Alu2) (r : SReg), s.wordFault (.movs x) = none → x.a = .sp r →
    r = .fpl ∨ r = .tag ∨ r = .lane ∨ r = .nlane ∨ r = .blk →
    Completes (.movs x) x.g x.ctl x.d x.ty.regs (fun l v => v =
      if x.fn = 1 then (handleOf s.w.core (s.w.frame.getD l 0)).toNat
      else match r with
        | .fpl => s.w.frame.getD l 0
        | .tag => (s.w.tag.getD l 0).toNat
        | .lane => l
        | .nlane => popLanes s.w.filled
        | _ => s.w.blk) s) ∧
  (∀ (x : Alu2) (r : SReg), s.wordFault (.movs x) = none → x.a = .sp r →
    r = .clk ∨ r = .core ∨ r = .die ∨ r = .dev → (s.d.ctx s.w.ctx).mode = 0 →
    ∃ t val, exec (.movs x) s = .next t ∧
      t = { s with w := { s.w with
        v := t.w.v, o := t.w.o, s := t.w.s, inflight := t.w.inflight, l0 := t.w.l0, l1 := t.w.l1, lprod := t.w.lprod
        ord := t.w.ord, pc := s.w.pc + (Instr.movs x).byteLen, issued := s.w.issued + 1 } } ∧
      Results x.g x.ctl x.d x.ty.regs val s t ∧
      (∀ l, l < 32 → s.w.actsIn x.g x.ctl l = true → val (if x.ctl.sc then 0 else l) = match r with
        | .clk => (s.d.core s.w.core).clk
        | .core => s.w.core % 32
        | .die => s.w.core / 32
        | _ => s.d.devnum) ∧
      ∀ l, l < 32 → t.w.ord.getD l 0 = s.w.ord.getD l 0 +
        if (if x.ctl.sc then s.w.scalarOn x.g && decide (l = lowLane s.w.filled) else (s.w.active x.g).getLsbD l) then 1 else 0)

/-- R82 to R84, R51: a pair word completes: both slots read before either writes, each slot writes its own destination
in its own active lanes, and L0 and L1 take slot Y's and slot X's results where those write a V register.
Where the manual leaves a point open, the reading is the model's: log entry 4. -/
def Obligations.Pairs : Prop :=
  ∀ (s : State) (p : PairW), s.wordFault (.pairWord p) = none →
    let xOn := fun l => (s.w.slotActive p.x).getLsbD l
    let yOn := fun l => (s.w.slotActive p.y).getLsbD l
    ∃ t, exec (.pairWord p) s = .next t ∧ RegsOnly (.pairWord p) s t ∧ t.w.sp = s.w.sp ∧ t.w.s = s.w.s ∧
      (∀ y l, l < 32 → t.w.cell y l =
        if p.y.writesV false ∧ y = p.y.d ∧ yOn l then (BitVec.ofNat 32 (s.w.slotY p.y l), none)
        else if p.x.writesV true ∧ y = p.x.d ∧ xOn l then (BitVec.ofNat 32 (s.w.slotX p.x l), none)
        else s.w.cell y l) ∧
      (∀ l, l < 32 → p.y.writesV false → t.w.l0.getD l 0 = if yOn l then BitVec.ofNat 32 (s.w.slotY p.y l) else 0) ∧
      (∀ l, l < 32 → p.x.writesV true → t.w.l1.getD l 0 = if xOn l then BitVec.ofNat 32 (s.w.slotX p.x l) else 0) ∧
      (p.y.writesV false = false → t.w.l0 = s.w.l0) ∧ (p.x.writesV true = false → t.w.l1 = s.w.l1) ∧
      (∀ n l, l < 32 → (t.w.pred n).getLsbD l =
        if p.y.isEmpty = false ∧ p.y.isCmp false ∧ n = p.y.pdst ∧ n ≠ 7 ∧ yOn l then s.w.slotCmp p.y false l
        else if p.x.isEmpty = false ∧ p.x.isCmp true ∧ n = p.x.pdst ∧ n ≠ 7 ∧ xOn l then s.w.slotCmp p.x true l
        else (s.w.pred n).getLsbD l) ∧
      ∀ l, l < 32 → t.w.pz.getLsbD l = (s.w.pz.getLsbD l ||
        (p.y.writesV false && yOn l && fmodeNanp s.w.fmode && p.y.ty.anyNaN (s.w.slotY p.y l)))

/-! ### Memory words -/

/-- R166 to R168, R164, R53, R160: `LD` and `LDX` whose lanes' bytes all translate put one operation in flight, whose
pieces make up each active lane's element at its address; registers, predicates and memory stay. A stale base register is
bound anew first.
Where the manual leaves a point open, the reading is the model's: log entries 54 and 68. -/
def Obligations.GlobalLoads : Prop :=
  ∀ (s t : State) (x : MemW) (i : Instr) (base : GBase) (off : Nat → Nat),
    (i = .ld x ∧ t = s.rebind x.a ∧ base = t.w.gbase x.a ∧ off = t.ldOff x) ∨
      (i = .ldx x ∧ t = s ∧ base = .virt 0 ∧ off = t.ldxOff x) →
    s.wordFault i = none → s.w.ldc ≠ 255 →
    (∀ l, l < 32 → (t.w.active x.g).getLsbD l = true →
      (base.va + off l) % 2 ^ 64 < 2 ^ 57 ∧ t.Reaches base 0 (off l) (t.lanePlace x l).2.1) →
    ∃ u o, exec i s = .next u ∧ PutInFlight i o t u ∧
      o = { t.loadOp i x (t.w.active x.g) with id := o.id, pieces := o.pieces } ∧
      Covers (t.w.active x.g) o.pieces (fun l => (t.lanePlace x l).2.1) fun l p =>
        GlobalPiece t base (off l) (fun _ _ => .load) p ∧ (x.esz ≠ 7 → p.Aligned p.va)

/-- R166 to R168, R164, R44: `ST` and `STX` whose lanes may all write put one operation in flight, whose pieces carry the
data of each active lane that is not poisoned; no byte of memory changes yet but the record of suppressed elements.
Where the manual leaves a point open, the reading is the model's: log entries 54, 55 and 68. -/
def Obligations.GlobalStores : Prop :=
  ∀ (s t : State) (x : MemW) (i : Instr) (base : GBase) (off : Nat → Nat),
    (i = .st x ∧ t = s.rebind x.a ∧ base = t.w.gbase x.a ∧ off = t.ldOff x) ∨
      (i = .stx x ∧ t = s ∧ base = .virt 0 ∧ off = t.ldxOff x) →
    s.wordFault i = none → s.w.stc ≠ 255 →
    let act := t.w.active x.g
    let va := fun l => (base.va + off l) % 2 ^ 64
    let t1 := t.sinkNote (act &&& t.w.poisoned) va
    (∀ l, l < 32 → act.getLsbD l = true → va l < 2 ^ 57 ∧ t1.Reaches base 1 (off l) (t.lanePlace x l).2.1) →
    ∃ u o, exec i s = .next u ∧ PutInFlight i o t1 u ∧
      o = { t.storeOp i x.ctl.rls with id := o.id, pieces := o.pieces } ∧
      (act &&& t.w.poisoned = 0 → u.mem = s.mem) ∧
      Covers (act &&& ~~~ t.w.poisoned) o.pieces (fun l => (t.lanePlace x l).2.1) fun l p =>
        if x.esz = 7 then
          let f := nfmt (t.fdWord x.scope.toNat)
          let sh := (t.lanePlace x l).2.2.1
          let bits := (t.lanePlace x l).2.2.2
          GlobalPiece t1 base (off l) (fun k n =>
            .bits (dataPart ((t.w.read32 x.d l 3).toNat % 2 ^ f.width * 2 ^ sh) k n) (dataPart ((2 ^ bits - 1) * 2 ^ sh) k n)) p
        else GlobalPiece t1 base (off l) (fun k n => .store (dataPart (t.w.storeWords x.d (eszWords x.esz) l) k n)) p ∧
          p.Aligned p.va

/-- R120, R161, R162: `LDS`, `STS`, `LDF` and `STF` whose lanes all pass their checks put one operation in flight over core
memory; a store's pieces carry the lane's data and its poison mark (R43).
Where the manual leaves a point open, the reading is the model's: log entry 68. -/
def Obligations.CoreMemoryWords : Prop :=
  ∀ (s : State) (x : MemW) (at_ : Nat → Nat × Nat),
  let act := s.w.active x.g
  let n := fun (_ : Nat) => eszBytes x.esz
  let data := fun l => s.w.storeWords x.d (eszWords x.esz) l
  let load := fun (i : Instr) => ∃ u o, exec i s = .next u ∧ PutInFlight i o s u ∧
    o = { s.loadOp i x act with scratch := true, id := o.id, pieces := o.pieces } ∧
    Covers act o.pieces n fun l p => CorePiece (at_ l) (fun _ _ => .load) p ∧ p.poisonMark = false
  let store := fun (i : Instr) => ∃ u o, exec i s = .next u ∧ PutInFlight i o s u ∧
    o = { s.storeOp i x.ctl.rls with scratch := true, id := o.id, pieces := o.pieces } ∧
    Covers act o.pieces n fun l p =>
      CorePiece (at_ l) (fun k m => .store (dataPart (data l) k m)) p ∧ p.poisonMark = s.w.poisoned.getLsbD l
  ((∀ l, l < 32 → act.getLsbD l = true → s.ScratchAt x l (at_ l)) →
    (s.wordFault (.lds x) = none → s.w.ldc ≠ 255 → load (.lds x)) ∧
    (s.wordFault (.sts x) = none → s.w.stc ≠ 255 → store (.sts x))) ∧
  ((∀ l, l < 32 → act.getLsbD l = true → s.FrameAt x l (at_ l)) →
    (s.wordFault (.ldf x) = none → s.w.ldc ≠ 255 → load (.ldf x)) ∧
    (s.wordFault (.stf x) = none → s.w.stc ≠ 255 → store (.stf x)))

/-- R169 to R171: `ATOM` and `RED` put in flight one read-modify-write for each active lane that is not poisoned, `STRED`
one addition for each address such lanes name, of the sum of their values in lane order; memory stays as it is.
Where the manual leaves a point open, the reading is the model's: log entries 54 and 68. -/
def Obligations.AtomicWords : Prop :=
  ∀ (s : State) (x : MaW),
  let t := s.rebind x.a
  let act := t.w.active x.g
  let live := act &&& ~~~ t.w.poisoned
  let base := t.w.gbase x.a
  let n := eszBytes x.esz
  let va := fun l => (base.va + t.maOff x l) % 2 ^ 64
  let t1 := t.sinkNote (act &&& t.w.poisoned) va
  let val := fun (c : Spec) (k l : Nat) => t.w.src (maTy x) c l k % 2 ^ (8 * n)
  let whole := fun (h : Hit) => isDevice h.pa || (decide (x.scope = 5) && h.sysAtomic)
  let one := fun (p : Piece) (l : Nat) (a : Bool → Act) => p.ok = true ∧ p.va = va l ∧ p.size = n ∧ p.byteOfs = 0 ∧
    ∃ h, t1.hit t1.w.core t1.w.ctx base (t.maOff x l) = some h ∧ p.place = .phys h.pa ∧ p.act = a (whole h)
  let atomic := fun (i : Instr) (dst : Bool) => ∃ u o, exec i s = .next u ∧ PutInFlight i o t1 u ∧
    o = { t.storeOp i x.ctl.rls with
      cls := if dst then .ld else .st, isAtomic := true, dreg := regNum x.d, nreg := if dst then eszWords x.esz else 0
      id := o.id, pieces := o.pieces } ∧
    o.pieces.map Piece.lane = lanesOf live ∧
    ∀ p, p ∈ o.pieces → one p p.lane fun w => .atom x.op (val x.c 2 p.lane) (if x.op = 9 then val x.c2 3 p.lane else 0) w
  (∀ l, l < 32 → act.getLsbD l = true →
    va l % n = 0 ∧ va l < 2 ^ 57 ∧ t1.Reaches base 2 (t.maOff x l) 1) →
  (s.wordFault (.atom x) = none → (if x.d.isV then s.w.ldc else s.w.stc) ≠ 255 → atomic (.atom x) x.d.isV) ∧
  (s.wordFault (.red x) = none → s.w.stc ≠ 255 → atomic (.red x) false) ∧
  (s.wordFault (.stred x) = none → s.w.stc ≠ 255 →
    ∃ u o, exec (.stred x) s = .next u ∧ PutInFlight (.stred x) o t1 u ∧
      o = { t.storeOp (.stred x) x.ctl.rls with id := o.id, pieces := o.pieces } ∧
      o.pieces.Pairwise (fun p q => p.va ≠ q.va) ∧
      (∀ l, l < 32 → live.getLsbD l = true → ∃ p, p ∈ o.pieces ∧ p.va = va l) ∧
      ∀ p, p ∈ o.pieces → live.getLsbD p.lane = true ∧ one p p.lane fun w =>
        .red (decide (x.sub = 1)) (((lanesOf live).filter fun k => va k = va p.lane).map (val x.c 2)) w)

/-- R160, R161, R162, R120, R251: where a lane of a memory word fails a check the word takes that check's fault for exactly
the lanes that fail it, with the lowest such lane's address or detail, and performs nothing.
Where the manual leaves a point open, the reading is the model's: log entries 60 and 68. -/
def Obligations.MemoryChecks : Prop :=
  ∀ s : State,
  (∀ (x : MaW) (i : Instr), i = .atom x ∨ i = .red x ∨ i = .stred x → s.wordFault i = none →
    s.w.ldc ≠ 255 → s.w.stc ≠ 255 →
    let t := s.rebind x.a
    let va := fun l => ((t.w.gbase x.a).va + t.maOff x l) % 2 ^ 64
    let bad := badLanes (t.w.active x.g) fun l => va l % eszBytes x.esz ≠ 0
    bad ≠ 0 → exec i s = .next (t.raise { code := 0x07, lanes := bad, address := va (lowLane bad) })) ∧
  (∀ (x : MemW) (i : Instr), i = .ld x ∨ i = .st x → s.wordFault i = none → s.w.ldc ≠ 255 → s.w.stc ≠ 255 →
    let t := s.rebind x.a
    let va := fun l => ((t.w.gbase x.a).va + t.ldOff x l) % 2 ^ 64
    let bad := badLanes (t.w.active x.g) fun l => 2 ^ 57 ≤ va l
    bad ≠ 0 → exec i s = .next (t.raise { code := 0x0D, lanes := bad, address := va (lowLane bad) })) ∧
  (∀ (x : MemW) (i : Instr), i = .lds x ∨ i = .sts x → x.sub = 0 → s.wordFault i = none → s.w.ldc ≠ 255 → s.w.stc ≠ 255 →
    let bad := badLanes (s.w.active x.g) fun l =>
      s.ownOfs x l < 0 || ((s.d.ctx s.w.ctx).scratchBytes : Int) < s.ownOfs x l + eszBytes x.esz
    bad ≠ 0 → exec i s = .next (s.raise { code := 0x0A, lanes := bad, d0 := BitVec.ofInt 32 (s.ownOfs x (lowLane bad)) })) ∧
  (∀ (x : MemW) (i : Instr), i = .lds x ∨ i = .sts x → x.sub ≠ 0 → s.wordFault i = none → s.w.ldc ≠ 255 → s.w.stc ≠ 255 →
    let bad := badLanes (s.w.active x.g) fun l => (s.remoteCore x l).isNone
    bad ≠ 0 → exec i s = .next (s.raise { code := 0x0B, lanes := bad, d0 := BitVec.ofNat 32 (s.remotePtr x (lowLane bad)) })) ∧
  (∀ (x : MemW) (i : Instr), i = .ldf x ∨ i = .stf x → s.wordFault i = none → s.w.ldc ≠ 255 → s.w.stc ≠ 255 →
    let bad := badLanes (s.w.active x.g) fun l => s.w.memOfs x.b x.scl x.ofs.toInt l < 0 ||
      (s.frameSize l : Int) < s.w.memOfs x.b x.scl x.ofs.toInt l + eszWords x.esz
    bad ≠ 0 → exec i s = .next (s.raise { code := 0x11, lanes := bad }))

/-- R160, R335, R250, R251: an `LD`, `LDX`, `ST` or `STX` of which the element of some active lanes does not translate and
every other active lane's may be accessed is issued and parks its warp at the next word. Its record has code 0x20, class 1
and exactly the lanes that do not translate, the lowest one's address, DETAIL0 0 for a load and 1 for a store, PARKED, and
the RESID of a park entry taken for it. The operation keeps the elements of those lanes, which are not performed, as are
none of a store under RLS; a load's other lanes go on.
Where the manual leaves a point open, the reading is the model's: log entries 60 and 71. -/
def Obligations.TranslationFault : Prop :=
  ∀ (s t : State) (x : MemW) (i : Instr) (base : GBase) (off : Nat → Nat) (st : Bool),
    (i = .ld x ∧ st = false ∧ t = s.rebind x.a ∧ base = t.w.gbase x.a ∧ off = t.ldOff x) ∨
      (i = .ldx x ∧ st = false ∧ t = s ∧ base = .virt 0 ∧ off = t.ldxOff x) ∨
      (i = .st x ∧ st = true ∧ t = s.rebind x.a ∧ base = t.w.gbase x.a ∧ off = t.ldOff x) ∨
      (i = .stx x ∧ st = true ∧ t = s ∧ base = .virt 0 ∧ off = t.ldxOff x) →
    s.wordFault i = none → s.w.ldc ≠ 255 → s.w.stc ≠ 255 →
    let act := t.w.active x.g
    let n := fun l => (t.lanePlace x l).2.1
    let va := fun l => (base.va + off l) % 2 ^ 64
    let kind := if st then 1 else 0
    let t1 := if st then t.sinkNote (act &&& t.w.poisoned) va else t
    let bad := badLanes act fun l => (t1.hit t1.w.core t1.w.ctx base (off l)).isNone
    bad ≠ 0 →
    (∀ l, l < 32 → act.getLsbD l = true → va l < 2 ^ 57 ∧ (bad.getLsbD l = false → t1.Reaches base kind (off l) (n l)) ∧
      (st = true → ∀ k, k < n l → (t1.d.ctx t1.w.ctx).needsPage t1.w.task ((base.va + off l + k) % 2 ^ 64) = false)) →
    ∃ u o v, exec i s = .next u ∧
      o = { (if st then t.storeOp i x.ctl.rls else t.loadOp i x act) with id := t1.d.nextId, pieces := o.pieces } ∧
      v = ({ t1 with
        w := t1.w.countUp o.cls, d := { t1.d with ops := t1.d.ops ++ [o], nextId := t1.d.nextId + 1 } } : State) ∧
      ParkedOn v 1 0 { v.w.faultRec 0x20 1 bad with address := va (lowLane bad), d0 := BitVec.ofNat 32 kind } i u ∧
      (∀ l k, l < 32 → act.getLsbD l = true → (st = true → t.w.poisoned.getLsbD l = false) → k < n l →
        ∃ p, p ∈ o.pieces ∧ p.lane = l ∧ p.byteOfs ≤ k ∧ k < p.byteOfs + p.size) ∧
      ∀ p, p ∈ o.pieces → act.getLsbD p.lane = true ∧ (bad.getLsbD p.lane = true → p.ok = false) ∧
        (o.rls = true → p.ok = false) ∧ (st = false → bad.getLsbD p.lane = false → p.ok = true) ∧
        (p.ok = true → ∃ h, t1.hit t1.w.core t1.w.ctx base ((off p.lane + p.byteOfs) % 2 ^ 64) = some h ∧ p.place = .phys h.pa)

/-- R172, R174: an `LDZ` that may read its header puts the loads of the pairs its lanes name in flight; a lane whose index
is not below WRITTEN receives the pair of value 0 and index 0xFFFFFFFF at once. With no active lane it only goes on.
Where the manual leaves a point open, the reading is the model's: log entry 53. -/
def Obligations.StreamLoads : Prop :=
  ∀ (s : State) (x : MemW), s.wordFault (.ldz x) = none →
    let t := s.rebind x.a
    let act := t.w.active x.g
    let base := t.w.gbase x.a
    let off := wrapInt 64 x.ofs.toInt
    let hva := (base.va + off) % 2 ^ 64
    (act = 0 → exec (.ldz x) s = .next (t.advance (.ldz x))) ∧
    ∀ h : Hit, act ≠ 0 → s.w.ldc ≠ 255 → hva % 32 = 0 → hva < 2 ^ 57 → t.hit t.w.core t.w.ctx base off = some h → h.r = true →
      let at_ := Place.phys (t.locate t.w.ctx t.w.task hva h.pa)
      t.depsDone t.w.acqAfter = true → t.warpMeets at_ 32 = false →
      let g := t.readPlace t.w.ctx t.w.core (x.cp = 1 && !h.nol1) at_ 32
      let hdr := streamHdr g.val
      let k := fun l => (t.w.read32 x.b l 1).toNat
      let va := fun l => (hdr.buf + 8 * k l) % 2 ^ 64
      g.bad = false → hdr.ok = true →
      (∀ l, l < 32 → act.getLsbD l = true → k l < hdr.written → va l < 2 ^ 57 ∧ t.Reaches (.virt 0) 0 (va l) 8) →
      let past := (lanesOf act).filter fun l => hdr.written ≤ k l
      let v := g.state.deliverNow past (regNum x.d) 2 fun _ => 0xFFFFFFFF00000000
      ∃ u o, exec (.ldz x) s = .next u ∧ PutInFlight (.ldz x) o v u ∧ u.mem = s.mem ∧
        o.cls = .ld ∧ o.dreg = regNum x.d ∧ o.nreg = 2 ∧ o.uid = s.w.uid ∧ o.isWrite = false ∧
        (∀ l j, l < 32 → act.getLsbD l = true → hdr.written ≤ k l → j < 2 →
          v.w.v.getD ((regNum x.d + j) * 32 + l) 0 = if j = 0 then 0#32 else 0xFFFFFFFF#32) ∧
        Covers (maskOf fun l => act.getLsbD l && decide (k l < hdr.written)) o.pieces (fun _ => 8) fun l p =>
          p.size = 4 ∧ GlobalPiece t (.virt 0) (va l) (fun _ _ => .load) p

/-- R172, R173: an `STZ` with room for every pair reserves as many positions as it keeps lanes, in one write of the
header, and puts the pairs in flight, the lanes in order; no other byte of memory changes.
Where the manual leaves a point open, the reading is the model's: log entry 69. -/
def Obligations.StreamStores : Prop :=
  ∀ (s : State) (x : MemW), s.wordFault (.stz x) = none →
    let t := s.rebind x.a
    let act := t.w.active x.g
    let base := t.w.gbase x.a
    let off := wrapInt 64 (t.w.memOfs x.b x.scl x.ofs.toInt 0)
    let hva := (base.va + off) % 2 ^ 64
    (act = 0 → exec (.stz x) s = .next (t.advance (.stz x))) ∧
    ∀ h : Hit, act ≠ 0 → s.w.stc ≠ 255 → hva % 32 = 0 → hva < 2 ^ 57 → t.hit t.w.core t.w.ctx base off = some h →
      t.accessFault t.w.ctx t.w.task hva 2 (some h) = none → (t.d.ctx t.w.ctx).needsPage t.w.task hva = false →
      let pa := t.locate t.w.ctx t.w.task hva h.pa
      t.depsDone (t.w.acqAfter ++ t.w.relAfter) = true → t.warpMeets (.phys pa) 32 = false → t.mem.marked pa 32 = false →
      t.NoSplit pa 32 →
      let hdr := streamHdr (t.mem.nat pa 32)
      let keeps := maskOf fun l => act.getLsbD l &&
        decide (if x.sub = 1 then (t.w.read32 x.d l 3).toNat % 2 ^ 31 ≠ 0 else t.w.read32 x.d l 3 ≠ 0)
      let rank := fun l => ((lanesOf keeps).filter fun k => k < l).length
      let m := (lanesOf keeps).length
      hdr.ok = true → keeps ≠ 0 → keeps &&& t.w.poisoned = 0 → hdr.needed + m ≤ hdr.capacity →
      hdr.buf + 8 * (hdr.needed + m) ≤ 2 ^ 57 →
      let status := t.mem.nat (pa + 20) 4
      let v := (t.markDirty t.w.ctx t.w.task hva 32).modifyBytes t.w.core (pa + 12)
        (bytesLE 8 ((hdr.needed + m) + (hdr.needed + m) * 2 ^ 32) ++ bytesLE 4 status)
      (∀ l, l < 32 → keeps.getLsbD l = true → v.Reaches (.virt 0) 1 (hdr.buf + 8 * (hdr.needed + rank l)) 8) →
      ∃ u o, exec (.stz x) s = .next u ∧ PutInFlight (.stz x) o v u ∧
        Stored s.mem u.mem (pa + 12) 8 ((hdr.needed + m) + (hdr.needed + m) * 2 ^ 32) ∧
        Covers keeps o.pieces (fun _ => 8) fun l p =>
          p.size = 4 ∧ GlobalPiece v (.virt 0) (hdr.buf + 8 * (hdr.needed + rank l))
            (fun k _ => .store ((if k = 0 then t.w.read32 x.d l 3 else t.w.read32 x.d.next l 3).toNat)) p

/-- R175 to R178, R181: `FENCE`, `CINV.L1`, `CINV.L2`, `CFLUSH.L2`, `PREF`, `BIND`, `UNBIND` and `WAIT`. A fence makes later
words wait for the operations and loop nests outstanding; `CINV.L1` empties the core's L1 once the acquire fences hold; a cache
operation over a range puts one operation in flight with the range's lines that translate; `PREF` changes nothing but, under
`.CA`, the lines that the core's L1 holds; `WAIT` goes on where the counters stand at or below its limits, else the warp waits.
Where the manual leaves a point open, the reading is the model's: log entries 5, 54, 57 and 80. -/
def Obligations.OrderingWords : Prop :=
  ∀ (s : State) (x : SysW),
  (s.wordFault (.fence x) = none → ∃ t, exec (.fence x) s = .next t ∧
    t = ({ s with w := { s.w with relAfter := t.w.relAfter, acqAfter := t.w.acqAfter } } : State).advance (.fence x) ∧
    (x.fn.getLsbD 0 = true → x.mod ≠ 0 → ∀ o, o ∈ s.d.ops → o.uid = s.w.uid → ⟨o.id, 32⟩ ∈ t.w.relAfter) ∧
    (x.fn.getLsbD 1 = true → x.mod ≠ 0 → ∀ o, o ∈ s.d.ops → o.uid = s.w.uid → o.cls = .ld ∨ o.isAtomic = true →
      ⟨o.id, 32⟩ ∈ t.w.acqAfter) ∧
    (x.fn.getLsbD 0 = true → x.mod = 0 → ∀ o p, o ∈ s.d.ops → o.uid = s.w.uid →
      (∀ q, q ∈ o.pieces → q.act.isWide = false) → p ∈ o.pieces → ⟨o.id, p.lane⟩ ∈ t.w.relAfter) ∧
    (x.mod ≠ 0 → ∀ o, o ∈ s.d.loops → o.uid = s.w.uid →
      (x.fn.getLsbD 0 = true → ⟨o.id, 32⟩ ∈ t.w.relAfter) ∧ (x.fn.getLsbD 1 = true → ⟨o.id, 32⟩ ∈ t.w.acqAfter)) ∧
    (∀ d, d ∈ s.w.relAfter → s.depDone d = false → d ∈ t.w.relAfter) ∧
    ∀ d, d ∈ s.w.acqAfter → s.depDone d = false → d ∈ t.w.acqAfter) ∧
  (s.wordFault (.cinvL1 x) = none → s.depsDone s.w.acqAfter = true →
    exec (.cinvL1 x) s = .next ((s.mapCore s.w.core fun c => { c with l1 := [] }).advance (.cinvL1 x))) ∧
  (∀ i a, (i = .cinvL2 x ∧ a = Act.inval) ∨ (i = .cflush x ∧ a = Act.flush) → s.wordFault i = none → s.w.stc ≠ 255 →
    let start := s.w.sPair x.a
    let len := (s.w.read32 x.b 0 1).toNat
    ∃ t o, exec i s = .next t ∧ PutInFlight i o s t ∧ o.cls = .st ∧ o.uid = s.w.uid ∧
      (∀ p, p ∈ o.pieces → p.size = 64 ∧ p.act = a ∧ p.va % 64 = 0 ∧ p.va < start + len ∧ start < p.va + 64 ∧
        ∃ y, s.translate s.w.core s.w.ctx p.va = some y ∧ p.place = .phys y.pa) ∧
      ∀ n y, 64 * n < start + len → start < 64 * n + 64 → 0 < len → s.translate s.w.core s.w.ctx (64 * n) = some y →
        ∃ p, p ∈ o.pieces ∧ p.va = 64 * n) ∧
  (s.wordFault (.bind x) = none → ∃ t, exec (.bind x) s = .next t ∧
    t = ({ s with w := { s.w with t := t.w.t } } : State).advance (.bind x) ∧
    (∀ n, n ≠ tNum x.d → t.w.t.find n = s.w.t.find n) ∧
    let v := s.w.sPair x.a
    let len := (s.w.read32 x.b 0 1).toNat
    t.w.t.find (tNum x.d) = some (match (if v < 2 ^ 57 then s.translate s.w.core s.w.ctx v else none) with
      | some y => { state := .bound, vbase := v, pbase := y.pa, limit := min len y.room, len := len, r := y.canRead,
                    w := y.canWrite, nol1 := y.noL1, sysAtomic := y.sysAtomic }
      | none => { state := .bound, vbase := v, pbase := 0, limit := 0, len := len, r := false, w := false, nol1 := false,
                  sysAtomic := false })) ∧
  (s.wordFault (.unbind x) = none → ∃ t, exec (.unbind x) s = .next t ∧
    t = ({ s with w := { s.w with t := t.w.t } } : State).advance (.unbind x) ∧
    ∀ n, t.w.t.find n = if n = tNum x.d then none else s.w.t.find n) ∧
  (∀ y : MemW, s.wordFault (.pref y) = none → y.cp ≠ 1 → exec (.pref y) s = .next ((s.rebind y.a).advance (.pref y))) ∧
  (∀ y : MemW, s.wordFault (.pref y) = none → y.cp = 1 →
    let v := s.rebind y.a
    let l1 := (s.d.core s.w.core).l1
    ∃ t new, exec (.pref y) s = .next t ∧
      t = ({ v with d := { v.d with cores := t.d.cores } } : State).advance (.pref y) ∧
      (∀ g, t.d.core g = if g = s.w.core then { s.d.core g with l1 := new } else s.d.core g) ∧
      (∀ j line, l1.find j = some line → new.find j = some line) ∧
      (∀ j line, new.find j = some line → l1.find j = some line ∨ line = s.mem.bytes (j * 64) 64) ∧
      ∀ l h, l < 32 → (v.w.active y.g).getLsbD l = true →
        let va := ((v.w.gbase y.a).va + v.ldOff y l) % 2 ^ 64
        let pa := s.locate s.w.ctx s.w.task va h.pa
        va < 2 ^ 57 → v.hit v.w.core v.w.ctx (v.w.gbase y.a) (v.ldOff y l) = some h → h.r = true → h.nol1 = false →
        s.mem.marked pa 1 = false → (new.find (pa / 64)).isSome = true ∨ 4096 ≤ new.length) ∧
  (∀ y : SysJ, s.wordFault (.wait y) = none →
    let lim := fun k => y.imm.toNat / 2 ^ (8 * k) % 256
    if s.w.ldc ≤ lim 0 ∧ s.w.stc ≤ lim 1 ∧ s.w.cpc ≤ lim 2 ∧ s.w.tlc ≤ lim 3 then
      exec (.wait y) s = .next (({ s with w := { s.w with
        status := .running, inflight := if lim 0 = 0 then [] else s.w.inflight } } : State).advance (.wait y))
    else exec (.wait y) s = .next { s with w := { s.w with status := .waitLimits y } })

/-- R62, R63, R66, R129, R179, R180: `QPUSH` and `MOV` place entries at a queue's tail where it has room for all of them, and
`QPOP` and `MOV` take the oldest where they are present; a `MOV` from queue to queue does both at once; else the warp is
blocked with nothing performed. An entry taken whose mark an error set is recorded once for the word.
Where the manual leaves a point open, the reading is the model's: log entries 53 and 82. -/
def Obligations.QueueWords : Prop :=
  ∀ s : State,
  let queue := fun q => (s.d.share s.w.ctx s.w.core).queue q
  let row := fun (act : Lanes) (a : Spec) => (List.range 32).map fun l => if act.getLsbD l then s.w.read32 a l else 0
  (∀ (x : SysW) (q : Queue), s.wordFault (.qpush x) = none → x.d = .q q →
    let n := x.fn.toNat + 1
    let act := s.w.active x.g
    if q.depth < (queue q).length + n then Blocks (.qpush x) s
    else ∃ t es, exec (.qpush x) s = .next t ∧ QueueNow q (queue q ++ es) n s t ∧ WarpOn (.qpush x) s t ∧ es.length = n ∧
      ∀ k, k < n → ∃ e, es[k]? = some e ∧ EntryBy s q x.ctl.rls e ∧ e.id = s.d.nextId + k ∧
        e.data = row act (x.a.plus k) ∧ e.poison = decide (s.w.pz &&& act ≠ 0)) ∧
  (∀ (x : SysW) (q : Queue), s.wordFault (.qpop x) = none → x.a = .q q →
    let n := x.fn.toNat + 1
    let act := s.w.active x.g
    if (queue q).length < n then Blocks (.qpop x) s
    else ∃ t, exec (.qpop x) s = .next t ∧ TookFrom q ((queue q).drop n) act ((queue q).take n) s t ∧ WarpTook (.qpop x) s t ∧
      (∀ y l, l < 32 → (act.getLsbD l = false ∨ ∀ k, k < n → y ≠ x.d.plus k) → t.w.cell y l = s.w.cell y l) ∧
      (∀ k e l, k < n → (queue q)[k]? = some e → l < 32 → act.getLsbD l = true →
        t.w.cell (x.d.plus k) l = (e.data.getD l 0, none)) ∧
      ∀ l, l < 32 → t.w.pz.getLsbD l =
        (s.w.pz.getLsbD l || (act.getLsbD l && ((queue q).take n).any QEntry.poison))) ∧
  (∀ (x : Alu2) (q : Queue), s.wordFault (.mov x) = none → x.d = .q q → (∀ p, x.a ≠ .q p) →
    let act := s.w.active x.g
    if q.depth ≤ (queue q).length then Blocks (.mov x) s
    else ∃ t e, exec (.mov x) s = .next t ∧ QueueNow q (queue q ++ [e]) 1 s t ∧ WarpOn (.mov x) s t ∧
      EntryBy s q false e ∧ e.data = row act x.a ∧ e.poison = decide (s.w.pz &&& act ≠ 0)) ∧
  (∀ (x : Alu2) (q k : Queue), s.wordFault (.mov x) = none → x.d = .q q → x.a = .q k →
    let act := s.w.active x.g
    match queue k with
    | [] => Blocks (.mov x) s
    | e :: es =>
      if q.depth ≤ (queue q).length then Blocks (.mov x) s
      else ∃ t v r, exec (.mov x) s = .next t ∧ TookFrom k es act [e] s v ∧ v.w = s.w ∧
        QueueNow q ((v.d.share s.w.ctx s.w.core).queue q ++ [r]) 1 v t ∧ WarpTook (.mov x) s t ∧ SameFiles s t ∧
        EntryBy s q false r ∧ r.data = ((List.range 32).map fun l => if act.getLsbD l then e.data.getD l 0 else 0) ∧
        r.poison = decide (t.w.pz &&& act ≠ 0) ∧
        ∀ l, l < 32 → t.w.pz.getLsbD l = (s.w.pz.getLsbD l || (act.getLsbD l && e.poison))) ∧
  (∀ (x : Alu2) (q : Queue), s.wordFault (.mov x) = none → x.a = .q q → (∀ p, x.d ≠ .q p) →
    let act := s.w.active x.g
    match queue q with
    | [] => Blocks (.mov x) s
    | e :: es => ∃ t, exec (.mov x) s = .next t ∧ TookFrom q es act [e] s t ∧
        WarpGot (.mov x) s t ∧
        LastResult act 1 (fun l => (e.data.getD l 0).toNat) s t ∧
        (∀ l, l < 32 → t.w.pz.getLsbD l = (s.w.pz.getLsbD l || (act.getLsbD l && e.poison))) ∧
        ∀ y l, l < 32 → t.w.cell y l =
          if act.getLsbD l then written (destAt x.ctl x.d 1 y) (e.data.getD l 0).toNat (s.w.cell y l) else s.w.cell y l) ∧
  (∀ x : SysW, s.wordFault (.qfence x) = none → ∃ t, exec (.qfence x) s = .next t ∧
    t = ({ s with w := { s.w with qfences := t.w.qfences } } : State).advance (.qfence x) ∧
    ∃ set, t.w.qfences.getLast? = some (x.mod.toNat, set) ∧
      ∀ q b e, q.fenceBit = some b → x.mod.toNat.testBit b = true → e ∈ queue q → e.id ∈ set)

/-- R153, R155, R182, R206, R213: `CPY` and `EVICT` place a command of 16 S registers, the select words a request, at the
tail of their queue where it has room; `EVPOP` and `EVWAIT`, matrix words that take the engine of their core (R194, R324),
take the oldest event. Where there is no room, or no event for `EVWAIT`, the warp is blocked; `EVPOP` of an empty queue gives
zeros; a warp stalls at either while another context owns the engine. An entry taken whose mark an error set poisons the active
lanes and is recorded once for the word.
Where the manual leaves a point open, the reading is the model's: log entries 58 and 82. -/
def Obligations.CommandWords : Prop :=
  ∀ s : State,
  let queue := fun q => (s.d.share s.w.ctx s.w.core).queue q
  let command := fun (a : Spec) => ((List.range 16).map fun k => s.w.read32 (a.plus k) 0) ++ List.replicate 16 0#32
  let placed := fun (i : Instr) (q : Queue) (rls : Bool) (ok : QEntry → Prop) =>
    if q.depth ≤ (queue q).length then Blocks i s
    else ∃ t e, exec i s = .next t ∧ QueueNow q (queue q ++ [e]) 1 s t ∧ EntryBy s q rls e ∧ ok e ∧ WarpOn i s t
  (∀ x : SysC, s.wordFault (.cpy x) = none → s.w.cpc ≠ 255 →
    let q : Queue := if x.fn.getLsbD 0 then .qcb else .qca
    if q.depth ≤ (queue q).length then Blocks (.cpy x) s
    else ∃ t e, exec (.cpy x) s = .next t ∧ QueueNow q (queue q ++ [e]) 1 s t ∧ EntryBy s q true e ∧
      e.data = command x.a ∧ e.counted = true ∧ e.poison = decide (s.w.poisoned ≠ 0) ∧
      t.w = { s.w with status := .running, cpc := s.w.cpc + 1 }.advance (.cpy x)) ∧
  (∀ x : SysW, s.wordFault (.evict x) = none → placed (.evict x) .qek true fun e =>
    e.data = command x.a ∧ e.poison = decide (s.w.poisoned ≠ 0)) ∧
  (∀ x : Alu2, s.wordFault (.selcfg x) = none → placed (.selcfg x) .qsi false fun e =>
    e.sel = 0 ∧ e.selA = s.w.read32 x.a 0 ∧ e.selB = s.w.opd32 x.b 0 1 ∧ (e.data.getD 0 0).toNat = x.fn.toNat) ∧
  (∀ x : Alu2, s.wordFault (.selpush x) = none →
    let act := s.w.active x.g
    if Queue.depth .qsi ≤ (queue .qsi).length then Blocks (.selpush x) s
    else ∃ t e, exec (.selpush x) s = .next t ∧ QueueNow .qsi (queue .qsi ++ [e]) 1 s t ∧ EntryBy s .qsi false e ∧
      e.sel = (if x.fn = 1 then 2 else 1) ∧ e.selB = s.w.opd32 x.b 0 1 ∧ e.lanes = act ∧
      e.data = ((List.range 32).map fun l => if act.getLsbD l then s.w.read32 x.a l else 0) ∧
      e.poison = decide (s.w.pz &&& act ≠ 0) ∧
      t.w = { s.w with status := .running, pz := t.w.pz }.advance (.selpush x) ∧
      ∀ l, l < 32 → t.w.pz.getLsbD l = (s.w.pz.getLsbD l || (act.getLsbD l && decide (s.w.pz &&& act ≠ 0)))) ∧
  (∀ x : Alu2, s.wordFault (.selpop x) = none → ∀ e,
    (queue .qso).find? (fun e => e.uid = s.w.uid) = some e →
    let act := s.w.active x.g
    ∃ t, exec (.selpop x) s = .next t ∧ TookFrom .qso ((queue .qso).filter fun k => k.id ≠ e.id) act [e] s t ∧
      WarpTook (.selpop x) s t ∧
      (∀ y l, l < 32 → t.w.cell y l = if act.getLsbD l ∧ y = x.d then (e.data.getD l 0, none) else s.w.cell y l) ∧
      ∀ l, l < 32 → t.w.pz.getLsbD l = (s.w.pz.getLsbD l || (act.getLsbD l && e.poison))) ∧
  (∀ x : Alu2, s.wordFault (.selpop x) = none → (∀ e, e ∈ queue .qso → e.uid ≠ s.w.uid) →
    (∀ e, e ∈ queue .qsi → e.uid = s.w.uid → e.sel < 3) → (queue .qsi).length < Queue.depth .qsi →
    ∃ t e, exec (.selpop x) s = .next t ∧ QueueNow .qsi (queue .qsi ++ [e]) 1 s t ∧ EntryBy s .qsi false e ∧
      e.sel = (if x.fn = 1 then 4 else 3) ∧ e.selA = s.w.read32 x.a 0 ∧
      t.w = { s.w with status := .blocked (.selpop x) }) ∧
  (∀ (x : SysW) (i : Instr) (ws : List Word), i = .evpop x ∨ i = .evwait x → s.wordFault i = none →
    let act := s.w.active x.g
    let took := fun (es taken : List QEntry) (t : State) => TookFrom .qce es act taken s.ownEngine t ∧
      t.w.pc = s.w.pc + i.byteLen ∧ t.w.v = s.w.v ∧ t.w.o = s.w.o ∧ t.w.p = s.w.p ∧ t.w.sp = s.w.sp ∧
      (∀ l, l < 32 → t.w.pz.getLsbD l = (s.w.pz.getLsbD l || (act.getLsbD l && taken.any QEntry.poison))) ∧
      ∀ n : BitVec 8, t.w.cell (.s n) 0 =
        match (List.range 8).find? fun k => x.d.plus k = .s n with
        | some k => (ws.getD k 0, none)
        | none => s.w.cell (.s n) 0
    if s.matrixStalls s.w.ctx s.w.core false then StallsMx i s
    else match queue .qce with
    | [] => (i = .evpop x → ws = [] → ∃ t, exec i s = .next t ∧ took [] [] t) ∧
        (i = .evwait x → exec i s = .next { s.ownEngine with w := { s.w with status := .blocked i } })
    | e :: es => ws = e.data → ∃ t, exec i s = .next t ∧ took es [e] t)

/-- R209 to R212, R355 to R359: over a sequence whose descriptor is valid and not BUSY, `KVLD` loads the row of each active
lane's token (and its original position) and `POSLD` its mass or original position, lanes that resolve to nothing taking
the constants; `MASSACC` puts one saturating addition in flight for each counter that its lanes name. With no active lane each
only goes on.
Where the manual leaves a point open, the reading is the model's: log entries 64 and 66. -/
def Obligations.SequenceWords : Prop :=
  ∀ (s : State) (d : SeqDesc) (pa : Nat),
  d.busy = false → d.ok = true → s.mem.marked pa 64 = false →
  (∀ (i : Instr) (g : Guard), (∃ x, i = .kvld x ∧ g = x.g) ∨ (∃ x, i = .posld x ∧ g = x.g) ∨ (∃ x, i = .massacc x ∧ g = x.g) →
    s.wordFault i = none → s.w.active g = 0 → exec i s = .next (s.advance i)) ∧
  let loads := fun (i : Instr) (act : Lanes) (a b dst : Spec) (orig : Bool) (nreg none_ : Nat) (n : Nat)
      (place : Nat → Nat → Nat → Nat → Nat) =>
    let at_ := fun l => s.resolve d orig (s.w.read32 b l 1).toNat
    s.wordFault i = none → s.w.ldc ≠ 255 → act ≠ 0 → s.SeqAt a 0 false d pa →
    (∀ l, l < 32 → act.getLsbD l = true → s.resolveMark d orig (s.w.read32 b l 1).toNat = none) →
    (∀ l, l < 32 → act.getLsbD l = true → at_ l = .absent ∨ ∃ k v slot, at_ l = .at k v slot ∧
      ∀ m, m < n → place k v slot m < 2 ^ 57 ∧ s.Reaches (.virt 0) 0 (place k v slot m) 1) →
    ∃ u o v, exec i s = .next u ∧ PutInFlight i o v u ∧ u.mem = s.mem ∧
      v = s.deliverNow ((lanesOf act).filter fun l => at_ l = .absent) (regNum dst) nreg (fun _ => none_) ∧
      o.cls = .ld ∧ o.isWrite = false ∧ o.uid = s.w.uid ∧ o.dreg = regNum dst ∧ o.nreg = nreg ∧ o.seqAt = pa ∧
      (∀ l, l < 32 → act.getLsbD l = true → at_ l ≠ .absent → ∃ p, p ∈ o.pieces ∧ p.lane = l) ∧
      ∀ p, p ∈ o.pieces → act.getLsbD p.lane = true ∧ p.ok = true ∧ p.act = .load ∧ p.byteOfs + p.size ≤ n ∧
        ∃ k v slot y, at_ p.lane = .at k v slot ∧ p.va = place k v slot p.byteOfs ∧
          s.translate s.w.core s.w.ctx p.va = some y ∧ p.place = .phys y.pa
  (∀ x : MemW,
    let n := eszBytes x.esz
    let pos := x.sub.getLsbD 1
    x.ofs.toNat % n = 0 → x.ofs.toNat + n ≤ d.rbytes →
    loads (.kvld x) (s.w.active x.g) x.a x.b x.d (x.sub.getLsbD 0) (eszWords x.esz + if pos then 1 else 0)
      (if pos then 0xFFFFFFFF * 2 ^ (8 * n) else 0) (if pos then n + 4 else n) fun k v slot m =>
        if m < n then (if x.scl = 0 then k else v) + slot * d.rbytes + x.ofs.toNat + m
        else k + 64 * d.rbytes + 256 + 4 * slot + (m - n)) ∧
  (∀ x : MemW,
    let mass := x.sub.getLsbD 1
    loads (.posld x) (s.w.active x.g) x.a x.b x.d (x.sub.getLsbD 0) 1 (if mass then 0 else 0xFFFFFFFF) 4 fun k _ slot m =>
      k + 64 * d.rbytes + (if mass then 0 else 256) + 4 * slot + m) ∧
  (∀ x : MaW,
    let act := s.w.active x.g
    let prob := fun l => q824OfF32 (s.w.read32 x.c l 2)
    let counter := fun l => match s.resolve d (x.sub.getLsbD 0) (s.w.read32 x.b l 1).toNat, prob l with
      | .at k _ slot, some _ => some (k + 64 * d.rbytes + 4 * slot)
      | _, _ => none
    s.wordFault (.massacc x) = none → s.w.stc ≠ 255 → act ≠ 0 → s.SeqAt x.a 2 true d pa →
    (∀ l, l < 32 → act.getLsbD l = true → s.resolveMark d (x.sub.getLsbD 0) (s.w.read32 x.b l 1).toNat = none ∧
      (s.resolve d (x.sub.getLsbD 0) (s.w.read32 x.b l 1).toNat = .absent ∨
        ∃ k v slot, s.resolve d (x.sub.getLsbD 0) (s.w.read32 x.b l 1).toNat = .at k v slot) ∧
      ∀ a, counter l = some a → a + 4 < 2 ^ 57 ∧ s.Reaches (.virt 0) 2 a 1) →
    ∃ u o v, exec (.massacc x) s = .next u ∧ PutInFlight (.massacc x) o v u ∧ u.mem = s.mem ∧
      v = ({ s with w := { s.w with pz := v.w.pz } } : State) ∧
      (∀ l, l < 32 → v.w.pz.getLsbD l = (s.w.pz.getLsbD l || (act.getLsbD l && (prob l).isNone))) ∧
      o.cls = .st ∧ o.isWrite = true ∧ o.uid = s.w.uid ∧ o.seqAt = pa ∧ o.pieces.Pairwise (fun p q => p.va ≠ q.va) ∧
      (∀ l a, l < 32 → act.getLsbD l = true → counter l = some a → ∃ p, p ∈ o.pieces ∧ p.va = a) ∧
      ∀ p, p ∈ o.pieces → p.ok = true ∧ p.size = 4 ∧
        p.act = .mass ((((lanesOf act).filter fun l => counter l = some p.va).map fun l => (prob l).getD 0).foldl q824Add 0) ∧
        ∃ y, s.translate s.w.core s.w.ctx p.va = some y ∧ p.place = .phys y.pa)

/-- R215: `SEQLOCK.ACQ` sets BUSY of a valid sequence that is not BUSY and goes on; of a BUSY one it parks its warp.
`SEQLOCK.TRY` does not park, and SPd tells whether it set BUSY. `SEQLOCK.REL` puts the clearing of BUSY in flight behind
the warp's earlier writes.
Where the manual leaves a point open, the reading is the model's: log entries 66 and 77. -/
def Obligations.SequenceLocks : Prop :=
  ∀ (s : State) (x : SysW) (d : SeqDesc) (pa : Nat), s.SeqAt x.a 2 true d pa →
  let va := s.w.sPair x.a + 32
  let at_ := s.locate s.w.ctx s.w.task va (s.busyAt (s.w.sPair x.a))
  let own := (s.d.ctx s.w.ctx).needsPage s.w.task va = false
  let set := fun (u : State) => Stored s.mem u.mem at_ 4 (s.mem.nat at_ 4 / 2 * 2 + 1)
  s.NoSplit at_ 4 →
  (s.wordFault (.seqlockAcq x) = none → d.busy = false → d.ok = true → own →
    ∃ u, exec (.seqlockAcq x) s = .next u ∧ u.w = s.w.advance (.seqlockAcq x) ∧ set u ∧ u.d.ops = s.d.ops) ∧
  (s.wordFault (.seqlockAcq x) = none → d.busy = true →
    exec (.seqlockAcq x) s = .next { s with w := { s.w with status := .seqlockPark (.seqlockAcq x) } }) ∧
  (s.wordFault (.seqlockTry x) = none → d.busy = false → d.ok = true → own →
    ∃ u, exec (.seqlockTry x) s = .next u ∧ u.w = { s.w with sp := u.w.sp }.advance (.seqlockTry x) ∧ set u ∧
      ∀ n, n < 4 → u.w.spred n = if n = tryPred x then true else s.w.spred n) ∧
  (s.wordFault (.seqlockTry x) = none → d.busy = true → s.w.live = true → s.w.status = .running →
    ∃ u, exec (.seqlockTry x) s = .next u ∧ u.w = { s.w with sp := u.w.sp }.advance (.seqlockTry x) ∧ u.mem = s.mem ∧
      u.d = s.d ∧ ∀ n, n < 4 → u.w.spred n = if n = tryPred x then false else s.w.spred n) ∧
  (s.wordFault (.seqlockRel x) = none → d.ok = true → (s.d.ctx s.w.ctx).needsPage s.w.task (s.w.sPair x.a) = false →
    ∃ u o p, exec (.seqlockRel x) s = .next u ∧ u.w = s.w.advance (.seqlockRel x) ∧ u.mem = s.mem ∧
      u.d = { s.d with ops := s.d.ops ++ [o], nextId := s.d.nextId + 1 } ∧ o.pieces = [p] ∧ o.counted = false ∧
      o.isWrite = true ∧ p.act = .bits 0 1 ∧ p.va = va ∧ p.size = 4 ∧
      ∀ q, q ∈ s.d.ops → q.uid = s.w.uid → q.isWrite = true → ⟨q.id, 32⟩ ∈ o.after)

/-- R85, R186 to R190: a loop word whose control word is valid, whose bases are aligned and whose operands are in range puts a
nest in flight, counted in TLC, that asks for leave where it has more than 4,096 iterations. An invalid control word raises
0x05, an operand that leaves own scratch 0x0A with the lowest byte offset it reaches, a misaligned base, used or not, 0x07,
and an operand that leaves the virtual address space 0x0D, in this order and each for every filled lane.
Where the manual leaves a point open, the reading is the model's: log entries 67 and 70. -/
def Obligations.LoopWords : Prop :=
  ∀ (s : State) (x : LoopW) (i : Instr) (r : Option Nat),
    (i = .vloop x ∧ r = none) ∨ (i = .vlooprAdd x ∧ r = some 0) ∨ (i = .vlooprMin x ∧ r = some 1) ∨
      (i = .vlooprMax x ∧ r = some 2) →
    s.wordFault i = none → s.w.tlc ≠ 255 →
    let o := s.loopOf x r
    let scratch := (s.d.ctx s.w.ctx).scratchBytes
    (loopCtlBad o.control r x.st2 = true → exec i s = .next (s.raiseAll 0x05)) ∧
    (∀ j, loopCtlBad o.control r x.st2 = false → j ∈ o.used → o.inScratch j = true → o.outside scratch j = true →
      (∀ k, k ∈ o.used → k < j → o.inScratch k = true → o.outside scratch k = false) →
      exec i s = .next (s.raiseAll 0x0A (o.lowOfs j))) ∧
    (loopCtlBad o.control r x.st2 = false → (∀ j, j ∈ o.used → o.inScratch j = true → o.outside scratch j = false) →
      (∃ b, b ∈ o.bases ∧ b % o.esize ≠ 0) → exec i s = .next (s.raiseAll 0x07)) ∧
    (loopCtlBad o.control r x.st2 = false → (∀ j, j ∈ o.used → o.inScratch j = true → o.outside scratch j = false) →
      (∀ b, b ∈ o.bases → b % o.esize = 0) → (∃ j, j ∈ o.used ∧ o.inScratch j = false ∧ o.outside scratch j = true) →
      exec i s = .next (s.raiseAll 0x0D)) ∧
    (loopCtlBad o.control r x.st2 = false → (∀ j, j ∈ o.used → o.outside scratch j = false) →
      (∀ b, b ∈ o.bases → b % o.esize = 0) →
      ∃ u q, exec i s = .next u ∧ u.w = { s.w with tlc := s.w.tlc + 1 }.advance i ∧ u.mem = s.mem ∧
        q = { o with id := s.d.nextId, leave := q.leave, lanes := q.lanes } ∧
        q.lanes.map LoopLane.lane = lanesOf s.w.filled ∧
        (∀ y, y ∈ q.lanes → y.next = 0 ∧ y.stuck = false ∧ y.parts = List.replicate 4 (o.ty.identity (r.getD 0))) ∧
        (o.total ≤ 4096 → q.leave = 2 ∧ u.d = { s.d with loops := s.d.loops ++ [q], nextId := s.d.nextId + 1 }) ∧
        (4096 < o.total → q.leave = 1 ∧
          u.d = ({ s.d with loops := s.d.loops ++ [q], nextId := s.d.nextId + 1 } : Dev).setDie (s.w.core / 32)
            { s.d.die (s.w.core / 32) with reqs := (s.d.die (s.w.core / 32)).reqs ++
              [LeaveReq.mk 1 s.w.ctx s.w.core s.d.nextId 1 (s.d.core s.w.core).clk] }))

/-! ### Accesses performed -/

/-- R164, R165, R54, R55, R259: a load piece that may be performed, and that no other piece of its word meets, delivers
what its place holds: the bytes join those of its lane; a lane with no piece left receives its destination registers; an
operation with no piece left is finished. Memory stays.
Where the manual leaves a point open, the reading is the model's: log entries 5, 55 and 80. -/
def Obligations.LoadsPerformed : Prop :=
  ∀ (s : State) (id j : Nat) (o : MemOp) (p : Piece),
    s.op id = some o → o.pieces[j]? = some p → p.act = .load → s.loadGroup o p = [j] → s.pieceReady o [j] j p = true →
    let g := s.readPlace o.ctx o.core p.l1 (s.placeOf o p) p.size
    g.bad = false → g.code = 0 → o.marked = [] →
    let o1 := { o with
      pieces := (o.without [j]).pieces
      buf := o.buf.put p.lane (o.buf.getD p.lane 0 + g.val * 2 ^ (8 * p.byteOfs)) }
    let rest := o1.pieces.any fun q => q.lane = p.lane
    ∃ t, exec (.accessPerformed id j .none) s = .next t ∧ t.mem = s.mem ∧
      (rest = true → t = g.state.setOp o1) ∧
      (rest = false → o1.pieces ≠ [] → t = (g.state.deliverLane o1 p.lane).setOp o1) ∧
      (o1.pieces = [] → s.w.live = true → s.w.uid = o.uid →
        let v := ((o.ext.getD p.lane .zero).value (o1.buf.getD p.lane 0)).1
        t.d.ops = s.d.ops.filter (fun q => q.id ≠ o.id) ∧ t.w.pc = s.w.pc ∧ t.w.p = s.w.p ∧ t.w.sp = s.w.sp ∧
        t.w.s = s.w.s ∧ t.w.o = s.w.o ∧ (o.counted = true → o.cls = .ld → t.w.ldc = s.w.ldc - 1 ∧ t.w.stc = s.w.stc) ∧
        ∀ r l, l < 32 → p.lane < 32 → t.w.v.getD (r * 32 + l) 0 =
          if l = p.lane ∧ o.dreg ≤ r ∧ r < o.dreg + o.nreg then BitVec.ofNat 32 (v / 2 ^ (32 * (r - o.dreg)))
          else s.w.v.getD (r * 32 + l) 0)

/-- R165, R167, R168, R259: a store piece that may be performed, alone in its line's request and with no later lane of the
word writing its bytes, leaves its data at its place, in memory or in core memory, and no other byte changes. A store
under RLS is performed so once its release holds. -/
def Obligations.StoresPerformed : Prop :=
  ∀ (s : State) (e : Instr) (id j : Nat) (o : MemOp) (p : Piece),
    s.op id = some o → o.marked = [] → o.pieces[j]? = some p → s.pieceReady o [j] j p = true → s.storeGroup o j p = [j] →
    (∀ q, q ∈ o.pieces.drop (j + 1) → q.ok = true → q.lane ≠ p.lane →
      (s.placeOf o q).meets q.size (s.placeOf o p) p.size = false) →
    (e = .accessPerformed id j .none ∨ (e = .heldReleaseStore id ∧ o.rls = true ∧ o.pieces = [p])) →
    let own := fun (pa : Nat) (p : Piece) =>
      (s.d.ctx o.ctx).needsPage o.task p.va = false ∧ (s.d.ctx o.ctx).hostBarred p.va pa = false
    (∀ pa data, p.act = .store data → p.place = .phys pa → own pa p →
      ∃ t, exec e s = .next t ∧ Stored s.mem t.mem (s.locate o.ctx o.task p.va pa) p.size data ∧ t.turns = s.turns) ∧
    (∀ pa data mask, p.act = .bits data mask → p.place = .phys pa → own pa p →
      let a := s.locate o.ctx o.task p.va pa
      let old := s.mem.nat a p.size
      ∃ t, exec e s = .next t ∧ Stored s.mem t.mem a p.size (old - (old &&& mask) + data)) ∧
    (∀ g b data, p.act = .store data → p.place = .core g b →
      ∃ t, exec e s = .next t ∧ t.mem = s.mem ∧
        let y := t.d.share o.ctx g
        (∀ k, y.coreByte k = if b ≤ k ∧ k < b + p.size then BitVec.ofNat 8 (data / 2 ^ (8 * (k - b)))
          else (s.d.share o.ctx g).coreByte k) ∧
        (0 < p.size → ∀ k, k ∈ coreWords b p.size → (y.marks.find k).isSome = p.poisonMark)) ∧
    (∀ pa add, p.act = .mass add → p.place = .phys pa → p.size = 4 → own pa p →
      let a := s.locate o.ctx o.task p.va pa
      s.mem.marked a 4 = false →
      ∃ t, exec e s = .next t ∧ Stored s.mem t.mem a 4 (min (s.mem.nat a 4 + add) 0xFFFFFFFF))

/-- R169 to R171: an atomic's step reads the old value and writes the result of its operation at once, the old value
going to the lane's one or two destination registers; an addition of a reduction store leaves the sum. On memory of the host
outside SYSATOMIC the read comes first and the write of its result, and the delivery, in a second step. Every other byte is as
before.
Where the manual leaves a point open, the reading is the model's: log entry 56. -/
def Obligations.AtomicsPerformed : Prop :=
  ∀ (s : State) (e : Instr) (id j : Nat) (o : MemOp) (p : Piece) (pa : Nat),
    s.op id = some o → o.marked = [] → o.pieces[j]? = some p → s.pieceReady o [j] j p = true → p.place = .phys pa →
    (s.d.ctx o.ctx).needsPage o.task p.va = false → (s.d.ctx o.ctx).hostBarred p.va pa = false →
    let a := s.locate o.ctx o.task p.va pa
    let old := s.mem.nat a p.size
    s.mem.marked a p.size = false →
    let atomic := e = .accessPerformed id j .none ∨
      (e = .atomicStep id p.lane ∧ ∀ k q, k < j → o.pieces[k]? = some q → q.lane ≠ p.lane)
    let adding := e = .accessPerformed id j .none ∨ e = .stredAddition id j
    let delivers := fun (v : Nat) (t : State) => s.w.live = true → s.w.uid = o.uid → o.ext = [] → ∀ k, k < o.nreg →
      t.w.v.getD ((o.dreg + k) * 32 + p.lane) 0 = wordAt v k
    (∀ op data cmp, p.act = .atom op data cmp true → atomic →
      ∃ t, exec e s = .next t ∧ Stored s.mem t.mem a p.size (atomResult op p.size old data cmp) ∧ delivers old t) ∧
    (∀ flt vs, p.act = .red flt vs true → (flt && (s.d.ctx o.ctx).det && isDevice a) = false →
      adding → ∃ t, exec e s = .next t ∧ Stored s.mem t.mem a p.size (redSum flt p.size old (groupSum flt p.size vs))) ∧
    (∀ op data cmp, p.act = .atom op data cmp false → atomic →
      ∃ t, exec e s = .next t ∧ t.mem = s.mem ∧ ∃ o2 q, t.op id = some o2 ∧ o2.pieces[j]? = some q ∧
        q.act = .atomEnd (some (atomResult op p.size old data cmp)) ∧ q.place = p.place ∧ o2.buf.getD p.lane 0 = old) ∧
    (∀ flt vs, p.act = .red flt vs false → adding →
      ∃ t, exec e s = .next t ∧ t.mem = s.mem ∧ ∃ o2 q, t.op id = some o2 ∧ o2.pieces[j]? = some q ∧
        q.act = .atomEnd (some (redSum flt p.size old (groupSum flt p.size vs))) ∧ q.place = p.place) ∧
    (∀ v, p.act = .atomEnd (some v) → atomic ∨ adding →
      ∃ t, exec e s = .next t ∧ Stored s.mem t.mem a p.size v ∧ delivers (o.buf.getD p.lane 0) t) ∧
    (p.act = .atomEnd none → atomic ∨ adding →
      ∃ t, exec e s = .next t ∧ t.mem = s.mem ∧ delivers (o.buf.getD p.lane 0) t)

/-- R188 to R190: a lane's next iteration of a `VLOOP` nest, which no fault or earlier access holds back, reads its
operands and writes the operation's result at operand 2, in memory or in own scratch, where a poisoned lane's result carries a
mark; one of a reduction combines its term into partial n mod 4. Once every lane of a reduction has ended, the partials of each
lane, and then the lanes by the tree, are combined and the result is written at operand 2 once, and the nest is done. Nothing
else of memory changes. -/
def Obligations.LoopIterations : Prop :=
  ∀ (s : State) (id l : Nat) (o : LoopOp) (x : LoopLane),
    s.op id = none → s.d.loops.find? (fun q => q.id = id) = some o → o.leave = 2 → s.mayRun o.ctx o.core = true →
    o.lanes.find? (fun y => y.lane = l) = some x → o.marked = [] →
    let n := o.iter l x.next
    let r := s.loopReads o n
    let v := fun j => r.vals.getD j 0
    let goes := x.next < o.share l ∧ x.stuck = false ∧ s.iterFault o n = none ∧
      (∀ j, j ∈ o.touches → s.loopBehind o l (s.operandPlace o j n) = false) ∧ r.bad = false ∧ r.err = none
    let ends := o.share l ≤ x.next ∧ o.ended = true ∧ o.parked = none ∧ s.loopFault o 2 0 1 = none ∧
      s.loopBehind o (lowLane o.filled) (s.operandPlace o 2 0) = false
    let scratch := fun (m val : Nat) (mark : Bool) (t : State) =>
      let b := (s.d.ctx o.ctx).scratchAt + o.addr 2 m
      let y := t.d.share o.ctx o.core
      t.mem = s.mem ∧
      (∀ k, y.coreByte k = if b ≤ k ∧ k < b + o.esize then BitVec.ofNat 8 (val / 2 ^ (8 * (k - b)))
        else (s.d.share o.ctx o.core).coreByte k) ∧
      ∀ k, k ∈ coreWords b o.esize → (y.marks.find k).isSome = mark
    (∀ h, goes → o.reduce = none → o.inScratch 2 = false → s.hit o.core o.ctx (.virt (o.addr 2 n)) 0 = some h →
      (s.d.ctx o.ctx).needsPage o.task (o.addr 2 n) = false →
      let tag := ((s.warp o.uid).map fun w => w.tag.getD l 0).getD 0
      let val := o.compute (srQ o.srseed tag l n) v
      ∃ t, exec (.accessPerformed id l .none) s = .next t ∧
        Stored s.mem t.mem (s.locate o.ctx o.task (o.addr 2 n) h.pa) o.esize val) ∧
    (∀ w, goes → o.reduce = none → o.inScratch 2 = true → s.warp o.uid = some w →
      let val := o.compute (srQ o.srseed (w.tag.getD l 0) l n) v
      let w1 := if o.poisons false val then w.poison (maskOf fun k => k = l) else w
      ∃ t, exec (.accessPerformed id l .none) s = .next t ∧ scratch n val (w1.poisoned.getLsbD l) t) ∧
    (∀ k, goes → o.reduce = some k →
      ∃ t q y, exec (.accessPerformed id l .none) s = .next t ∧ t.mem = s.mem ∧
        t.d.loops.find? (fun q => q.id = id) = some q ∧ q.lanes.find? (fun y => y.lane = l) = some y ∧
        y.next = x.next + 1 ∧ y.parts = x.parts.set (x.next % 4) (o.accumulate (x.parts.getD (x.next % 4) 0) v)) ∧
    (∀ k, ends → o.reduce = some k →
      let part := fun (y : LoopLane) (j : Nat) => y.parts.getD j 0
      let val := laneTree o.combine fun m => match o.lanes.find? fun y => y.lane = m with
        | some y => o.combine (o.combine (part y 0) (part y 1)) (o.combine (part y 2) (part y 3))
        | none => o.ty.identity k
      let done := fun (t : State) => t.d.loops = s.d.loops.filter fun q => q.id ≠ id
      (∀ h, o.inScratch 2 = false → s.hit o.core o.ctx (.virt (o.addr 2 0)) 0 = some h →
        (s.d.ctx o.ctx).needsPage o.task (o.addr 2 0) = false →
        ∃ t, exec (.accessPerformed id l .none) s = .next t ∧ done t ∧
          Stored s.mem t.mem (s.locate o.ctx o.task (o.addr 2 0) h.pa) o.esize val) ∧
      (∀ w, o.inScratch 2 = true → s.warp o.uid = some w →
        ∃ t, exec (.accessPerformed id l .none) s = .next t ∧ done t ∧
          scratch 0 val (o.poisons (decide (w.poisoned ≠ 0)) val) t))

/-! ### The matrix engine and the governor -/

/-- R193, R194, R199 to R205, R324: a matrix word whose rows, alignment, scratch range and formats pass is issued to its
core's engine; `MFMT` installs two formats that fit. A word stalls while another context owns the engine, or while 16
instructions wait to begin.
Where the manual leaves a point open, the reading is the model's: log entries 58, 59 and 60. -/
def Obligations.MatrixWords : Prop :=
  ∀ s : State,
  let y := s.d.share s.w.ctx s.w.core
  let scratch := (s.d.ctx s.w.ctx).scratchBytes
  let free := s.matrixStalls s.w.ctx s.w.core true = false
  let rows := fun (n first : Nat) => 1 ≤ n ∧ first + n ≤ 512
  (∀ i, (∃ x, i = .mldw x) ∨ (∃ x, i = .mswap x) ∨ (∃ x, i = .mstream x) ∨ (∃ x, i = .mdrain x) ∨ (∃ x, i = .mzero x) →
    s.wordFault i = none → s.matrixStalls s.w.ctx s.w.core true = true → StallsMx i s) ∧
  (∀ x : SysW, s.wordFault (.mfmt x) = none → s.matrixStalls s.w.ctx s.w.core false = true → StallsMx (.mfmt x) s) ∧
  (∀ x : SysW, s.wordFault (.mfmt x) = none → s.matrixStalls s.w.ctx s.w.core false = false →
    let a := s.mfmtOf (x.mod.toNat / 16)
    let b := s.mfmtOf (x.mod.toNat % 16)
    (a.fits b = true → exec (.mfmt x) s =
      .next ((s.mapMx s.w.ctx s.w.core fun m => { m with act := a, wgt := b, owned := true, due := false }).advance (.mfmt x))) ∧
    (a.fits b = false → exec (.mfmt x) s = .next (s.raiseAll 0x06 (mfmtIndex x.mod)))) ∧
  (∀ x : SysC, s.wordFault (.mldw x) = none → free →
    let sc := x.fn.getLsbD 0
    let ofs := if sc then (s.w.read32 x.a 0).toNat else 0
    (sc = true → ofs % 128 = 0 ∧ ofs + 128 * y.mx.wgt.tile ≤ scratch) →
    IssuesMx (.mldw x) (.mldw sc ofs) (x.fn.getLsbD 1) (s.w.read32 x.d 0).toNat s) ∧
  (∀ x : SysW, s.wordFault (.mswap x) = none → free → IssuesMx (.mswap x) .mswap false 0 s) ∧
  (∀ (x : SysC) (f : MFormat), s.wordFault (.mstream x) = none → free →
    let sc := x.fn.getLsbD 1
    let n := (s.w.read32 x.a 0).toNat
    let first := (s.w.read32 x.b 0).toNat
    let ofs := if sc then (s.w.read32 x.c 0).toNat else 0
    rows n first → (sc = true → ofs % 128 = 0 ∧ ofs + 128 * y.mx.act.rowEntries * n ≤ scratch) →
    y.mx.projected.1 = some f →
    if y.mx.act.fits f then
      IssuesMx (.mstream x) (.mstream (x.fn.getLsbD 0) sc (x.fn.getLsbD 3) n first ofs) (x.fn.getLsbD 2)
        (s.w.read32 x.d 0).toNat s
    else exec (.mstream x) s = .next (s.raiseAll 0x06 (fdIndex y.mx.act f))) ∧
  (∀ x : SysC, s.wordFault (.mdrain x) = none → free →
    let n := (s.w.read32 x.a 0).toNat
    let first := (s.w.read32 x.b 0).toNat
    let dest := x.fn.toNat / 2 % 4
    let ot := x.mod2.toNat / 16
    let fd := s.fdWord (x.mod2.toNat / 2 % 8)
    let addr := if dest = 1 then (s.w.read32 x.c 0).toNat else if dest = 2 then s.w.sPair x.c else 0
    rows n first → (dest ≠ 0 → addr % 64 = 0) → (dest = 1 → addr + drainSize ot fd * n ≤ scratch) →
    (dest = 2 → addr + drainSize ot fd * n ≤ 2 ^ 57) → (ot = 3 → drainFd fd = true) →
    IssuesMx (.mdrain x) (.mdrain (x.fn.getLsbD 0) dest n first addr (rndOf s.w.fmode (drainRnd x.mod)) ot fd (x.mod2.getLsbD 0))
      (x.fn.getLsbD 3) (s.w.read32 x.d 0).toNat s) ∧
  (∀ x : SysW, s.wordFault (.mzero x) = none → free →
    let all := x.fn.getLsbD 1
    let n := if all then 512 else (s.w.read32 x.a 0).toNat
    let first := if all then 0 else (s.w.read32 x.b 0).toNat
    (rows n first → IssuesMx (.mzero x) (.mzero (x.fn.getLsbD 0) n first) false 0 s) ∧
    (¬ rows n first → exec (.mzero x) s = .next (s.raiseAll 0x0E)))

/-- R193, R201 to R203: the engine's steps. A swap exchanges the planes and a zero clears its rows as they begin; a load
takes QMW's entries into SHADOW, which is loaded with the last; a stream's row leaves the rounded sums in its accumulator
row, marked where a source was, and touches no other row. An error that marked what a load or a row takes is recorded, once
for the instruction.
Where the manual leaves a point open, the reading is the model's: log entries 59 and 82. -/
def Obligations.MatrixSteps : Prop :=
  ∀ (s : State) (g c : Nat) (m : MInstr), s.engineOwner g = some c → s.engineRuns c g = true →
  let x := s.d.share c g
  (nextBegin (fun k => s.depsDone k.after && (k.leave = 0 || k.leave = 2)) [] x.mx.issued = some m →
    (m.kind.heavy = true → m.leave = 2) →
    ∃ t, exec (.matrixInstructionBegin g) s = .next t ∧ t.mem = s.mem ∧ t.w = s.w ∧
      let y := (t.d.share c g).mx
      (m.kind = .mswap → y.active = x.mx.shadow ∧ y.shadow = x.mx.active ∧ y.ac0 = x.mx.ac0 ∧ y.ac1 = x.mx.ac1) ∧
      (∀ a n first, m.kind = .mzero a n first → y.active = x.mx.active ∧ y.acc (!a) = x.mx.acc (!a) ∧
        ∀ r, (y.acc a).row r = if first ≤ r ∧ r < first + n then List.replicate 128 0#32 else (x.mx.acc a).row r) ∧
      (∀ sc ofs, m.kind = .mldw sc ofs → y.shadow.loaded = false ∧ y.shadow.fmt = m.wgt ∧ y.active = x.mx.active)) ∧
  (x.mx.issued.find? (fun k => k.begun && !k.finished && k.kind.isLoad) = some m → ∀ ofs, m.kind = .mldw false ofs →
    let es := s.readyHead c g (m.wgt.tile - m.done) (x.queue .qmw)
    ∃ t : State, exec (.mldwCompletion g) s = .next (t.engineMark c g m (metCode (es.map QEntry.err))) ∧ t.mem = s.mem ∧ t.w = s.w ∧
      let y := t.d.share c g
      y.queue .qmw = (x.queue .qmw).drop es.length ∧ y.mx.active = x.mx.active ∧ y.mx.ac0 = x.mx.ac0 ∧ y.mx.ac1 = x.mx.ac1 ∧
      y.mx.shadow.loaded = decide (m.wgt.tile ≤ m.done + es.length) ∧
      y.mx.shadow.poison = (x.mx.shadow.poison || es.any QEntry.poison) ∧
      (x.mx.shadow.fmt.block = 0 → ∀ k e, es[k]? = some e →
        y.mx.shadow.data.find (m.done + k) = some (e.data.flatMap fun v => bytesLE 4 v.toNat))) ∧
  (x.mx.issued.find? (fun k => k.begun && !k.finished && k.kind.isStream) = some m →
    ∀ a z n first ofs, m.kind = .mstream a false z n first ofs → (m.kind.heavy = true → m.leave = 2) →
    let es := s.readyHead c g m.act.rowEntries (x.queue .qma)
    es.length = m.act.rowEntries →
    let ms := es.map QEntry.asEntry
    let scale := if m.act.block = 0 then [] else (ms.getD 0 { bytes := [], bad := false, code := 0 }).bytes
    let data := ((if m.act.block = 0 then ms else ms.drop 1).map MEntry.bytes).flatten
    let old := fun j => if z then 0#32 else ((x.mx.acc a).row (first + m.done)).getD j 0
    ∃ t : State, exec (.mstreamRow g) s = .next (t.engineMark c g m (x.mx.streamCode a z (first + m.done) ms)) ∧ t.mem = s.mem ∧
      t.w = s.w ∧
      let y := t.d.share c g
      y.queue .qma = (x.queue .qma).drop m.act.rowEntries ∧ y.mx.active = x.mx.active ∧ y.mx.acc (!a) = x.mx.acc (!a) ∧
      (∀ j, j < 128 → ((y.mx.acc a).row (first + m.done)).getD j 0 = streamElem m.act x.mx.active scale data (old j) j) ∧
      (∀ r, r ≠ first + m.done → (y.mx.acc a).row r = (x.mx.acc a).row r) ∧
      (es.any QEntry.poison = true ∨ x.mx.active.poison = true → (first + m.done) ∈ (y.mx.acc a).mark))

/-- R204, R206, R193, R326: a drain's row leaves the engine for QMO, own scratch or memory, each where it says and nowhere
else; a finished instruction that carries .EV places its event in QCE; a stalled matrix word may issue again once its
stall has cleared; a restored context that owned a core's engine takes it again where it is free. A row whose mark an error
set is recorded, once for the instruction.
Where the manual leaves a point open, the reading is the model's: log entries 59 and 82. -/
def Obligations.MatrixDrains : Prop :=
  (∀ (s : State) (g c : Nat) (m : MInstr) (a : Bool) (dest n first addr : Nat) (rnd : Rnd) (ot : Nat) (fd : Word) (zr : Bool),
    s.engineOwner g = some c → s.engineRuns c g = true →
    let x := s.d.share c g
    x.mx.issued.find? (fun k => k.begun && !k.finished && k.kind.isDrain && x.drainRoom k) = some m →
    m.kind = .mdrain a dest n first addr rnd ot fd zr → m.suppressed = [] →
    let row := first + m.done
    let es := ((x.mx.acc a).row row).zipIdx.map fun v => drainElem m ot fd rnd row v.2 v.1
    let bad := (x.mx.acc a).mark.contains row || es.any Prod.snd
    let bs := drainBytes ot fd (es.map Prod.fst)
    let size := drainSize ot fd
    let at_ := addr + m.done * size
    let noted := fun (u t : State) => t.w = s.w ∧ t.mem = (u.engineMark c g m ((x.mx.acc a).rowCode row)).mem
    (dest = 0 → (rowQEntries bs bad).length ≤ x.room .qmo →
      ∃ t u new, exec (.mdrainRow g) s = .next t ∧ noted u t ∧ u.mem = s.mem ∧
        (t.d.share c g).queue .qmo = x.queue .qmo ++ new ∧ new.map QEntry.data = (rowQEntries bs bad).map QEntry.data ∧
        (∀ e, e ∈ new → e.poison = bad) ∧ (t.d.share c g).words = x.words) ∧
    (dest = 1 → ∃ t u, exec (.mdrainRow g) s = .next t ∧ noted u t ∧ u.mem = s.mem ∧
      ∀ k, (t.d.share c g).coreByte k =
        let b := (s.d.ctx c).scratchAt + at_
        if b ≤ k ∧ k < b + bs.length then bs.getD (k - b) 0 else x.coreByte k) ∧
    (∀ h, dest = 2 → bad = false → at_ % 4096 + size ≤ 4096 → bs.length = size → 0 < size →
      s.hit g c (.virt at_) 0 = some h → s.accessFault c m.task at_ 1 (some h) = none →
      (s.d.ctx c).needsPage m.task at_ = false → s.NoSplit (s.locate c m.task at_ h.pa) size →
      ∃ t u, exec (.mdrainRow g) s = .next t ∧ noted u t ∧
        Stored s.mem u.mem (s.locate c m.task at_ h.pa) size (ofBytesLE bs)) ∧
    (dest = 2 → bad = true → m.done + 1 < n → ∃ t u, exec (.mdrainRow g) s = .next t ∧ noted u t ∧ u.mem = s.mem)) ∧
  (∀ (s : State) (g c : Nat) (m : MInstr) (ms : List MInstr), s.engineOwner g = some c → s.engineOn c g = true →
    let x := s.d.share c g
    x.mx.issued = m :: ms → m.finished = true → m.ev = true → 0 < x.room .qce →
    ∃ t e, exec (.matrixEvent g) s = .next t ∧ t.mem = s.mem ∧ t.w = s.w ∧ (t.d.share c g).queue .qce = x.queue .qce ++ [e] ∧
      (t.d.share c g).mx.issued = dropDone ms ∧
      e.data = ([m.evid, m.source.1 + (if m.suppressed = [] then 0 else 2) * 256, m.source.2, if m.poison then 1 else 0].map
        (BitVec.ofNat 32)) ++ List.replicate 28 0) ∧
  (∀ (s : State) (w : Warp), s.warp w.uid = some w → w.status = .matrixStall → s.matrixStalls w.ctx w.core true = false →
    exec (.matrixIssueRelease w.uid) s = .next (s.mapUid w.uid fun v => { v with status := .running })) ∧
  (∀ (s : State) (g c : Nat), s.engineDue g = some c →
    exec (.matrixInstructionBegin g) s = .next (s.mapMx c g fun y => { y with owned := true, due := false }))

/-- R18, R405: the governor of a die grants leave to the request at the head of its queue where the budget and the window's
ramp allow in the window its clock is in, and to no other; the count of grants starts anew with each window of 1,024 clocks.
Where the manual leaves a point open, the reading is the model's: log entry 12. -/
def Obligations.PowerGovernor : Prop :=
  ∀ (s : State) (die : Nat),
  let x := s.d.die die
  let clk := (s.d.core (die * 32)).clk
  (∀ r rs, x.reqs = r :: rs → x.use + r.weight ≤ x.budget → x.window < x.ramp → x.winClk ≤ clk → clk < x.winClk + 1024 →
    ∃ t, exec (.powerGrant die) s = .next t ∧ t.mem = s.mem ∧ t.w = s.w ∧
      let y := t.d.die die
      y.reqs = rs ∧ y.use = x.use + r.weight ∧ y.window = x.window + 1 ∧ y.grants = (x.grants + 1) % 2 ^ 64 ∧
      (r.kind = 1 → ∀ o, o ∈ t.d.loops → o.id = r.id → o.leave = 2) ∧
      (r.kind = 0 → ∀ m, m ∈ (t.d.share r.ctx r.core).mx.issued → m.id = r.id → m.leave = 2)) ∧
  (x.reqs ≠ [] → x.budget < x.use + (x.reqs.head?.map LeaveReq.weight).getD 0 ∨ x.ramp ≤ x.window ∨ clk < x.winClk ∨
    x.winClk + 1024 ≤ clk →
    exec (.powerGrant die) s = .next s) ∧
  (x.winClk + 1024 ≤ clk →
    ∃ t, exec (.rampWindow die) s = .next t ∧ t.mem = s.mem ∧ t.w = s.w ∧
      t.d.die die = { x with window := 0, winClk := x.winClk + 1024 } ∧ ∀ n, n ≠ die → t.d.die n = s.d.die n)

/-! ### Control flow and tokens -/

/-- R81, R107, R110, R112: a terminator with operations outstanding waits; with its counters at zero, its other writes
performed and its records written, and its clauses' checks passed on the registers as they then stand, the warp leaves its
core. A DATA clause sends one token for each lane in which it is on, in lane order; `ENDR` releases the frames of the filled
lanes. A failed check ends the warp with 0x11, a clause over no entry with 0x01.
Where the manual leaves a point open, the reading is the model's: log entries 65 and 79. -/
def Obligations.Terminators : Prop :=
  ∀ (s : State) (x : EndW) (i : Instr) (release : Bool),
    (i = .endK x ∧ release = false) ∨ (i = .endR x ∧ release = true) → s.wordFault i = none →
    (s.w.clauseMissing x = true → exec i s = .next (s.raiseAll 0x01)) ∧
    (s.w.drained = false ∨ (∃ o, o ∈ s.d.ops ∧ o.uid = s.w.uid) → s.mayAct s.w i = false) ∧
    (s.w.clauseMissing x = false → s.mayAct s.w i = false →
      exec i s = .next { s with w := { s.w with status := .draining i } }) ∧
    (s.w.clauseMissing x = false → s.mayAct s.w i = true →
      let v := s.mapWarp Warp.settled
      (v.clauseFails x ≠ 0 → exec i s = .next (v.raise { code := 0x11, lanes := v.clauseFails x })) ∧
      (v.clauseFails x = 0 → ∃ t, exec i s = .next t ∧ t.w = Warp.absent ∧ t.turns = s.turns ∧
        (release = true → Rising (s.d.share s.w.ctx s.w.core).frames → s.w.pend = [] →
          (∀ p, p ∈ s.w.clauses x → s.w.clauseOn p.1 = 0) → ∀ l, l < 32 → s.w.filled.getLsbD l = true →
          ∀ f, (t.d.share s.w.ctx s.w.core).frames.find (s.w.frame.getD l 0) = some f → f.state = .released) ∧
        (release = false → s.w.pend = [] → s.d.devnum < 4096 → (∀ g, (s.d.core g).offline = false) →
          (s.w.hdr.entry 0).kind = 1 → s.w.clauseOn x.c1 = 0 → s.w.clauseOn x.c2 = 0 → s.w.clauseOn x.c3 = 0 →
          let on := lanesOf (s.w.clauseOn x.c0)
          t.mem = s.mem ∧ Posted (on.map fun l => s.itemOf 0 0 (s.laneTok l (v.w.clauseReg x.c0.fr l) (s.w.hdr.entry 0) false
            (v.w.clauseReg x.c0.tg l) (v.w.clauseReg x.c0.pl l))) s.w.core (on.map fun _ => []) s t)))

/-- R114, R115, R221, R250: with its counters at zero and its other writes performed `TRAP` takes 0x08 for the filled lanes
and `ECALL` parks its warp with record 0x19; with operations outstanding both wait. `BRK` parks its warp with record 0x09 where its task is debugged, else
only goes on.
Where the manual leaves a point open, the reading is the model's: log entry 79. -/
def Obligations.TrapWords : Prop :=
  ∀ (s : State) (x : SysW),
  let acts := s.w.drained = true ∧ ∀ o, o ∈ s.d.ops → o.uid ≠ s.w.uid
  let v := s.mapWarp Warp.settled
  (∀ i, i = .trap x ∨ i = .ecall x → s.wordFault i = none → ¬ acts →
    exec i s = .next { s with w := { s.w with status := .draining i } }) ∧
  (s.wordFault (.trap x) = none → acts →
    exec (.trap x) s = .next (v.raise { code := 0x08, lanes := s.w.filled, d0 := x.mod.setWidth 32 })) ∧
  (s.wordFault (.ecall x) = none → acts →
    exec (.ecall x) s = .next ((v.parkWith 3 (regNum x.d)
      { s.w.faultRec 0x19 7 s.w.filled with d0 := x.mod.setWidth 32, d1 := v.w.read32 x.a 0 }).advance (.ecall x))) ∧
  (s.wordFault (.brk x) = none → (s.task.map Task.debug).getD false = false →
    exec (.brk x) s = .next (s.advance (.brk x))) ∧
  (s.wordFault (.brk x) = none → (s.task.map Task.debug).getD false = true →
    exec (.brk x) s = .next ((s.parkWith 2 0 { s.w.faultRec 0x09 0 s.w.filled with d0 := x.mod.setWidth 32 }).advance (.brk x)))

/-- R116, R274, R262: `SEND` puts one token for each active lane on its circuit, in lane order, each waiting for that
lane's earlier stores; `SENDM` one for each member of each lane's group, in list order. A handle that is not well formed
raises 0x11 for the lanes that hold one.
Where the manual leaves a point open, the reading is the model's: log entries 65 and 74. -/
def Obligations.SendWords : Prop :=
  ∀ (s : State) (x : SysC) (e : Succ), s.sendEntry x = some e → s.d.devnum < 4096 → (∀ g, (s.d.core g).offline = false) →
  let act := s.w.active x.g
  let dev := s.sendDev x
  let item := fun (d l : Nat) (h : Word) => s.itemOf 0 0 (s.sendTokOf x e d l h)
  (s.wordFault (.send x) = none →
    let bad := badLanes act fun l => 4095 < dev l || !s.goodHandle (s.w.read32 x.a l)
    (bad ≠ 0 → exec (.send x) s = .next (s.raise { code := 0x11, lanes := bad })) ∧
    (bad = 0 → (∀ l, l < 32 → act.getLsbD l = true → dev l = s.d.devnum ∨
        ∃ k, (s.d.ctx (s.w.ctx % 64)).paths.find (dev l) = some k ∧ s.d.linkUp k = true) →
      ∃ t, exec (.send x) s = .next t ∧ t.mem = s.mem ∧ t.w = s.w.advance (.send x) ∧
        Posted ((lanesOf act).map fun l => item (dev l) l (s.w.read32 x.a l)) s.w.core ((lanesOf act).map s.laneDeps) s t)) ∧
  (s.wordFault (.sendm x) = none → ∀ hs : Nat → List Word,
    (∀ l, l < 32 → act.getLsbD l = true → (s.w.read32 x.a l).toNat < 256 ∧
      s.readGroup (s.w.read32 x.a l).toNat = .members (hs l) ∧ ∀ h, h ∈ hs l → s.goodHandle h = true) →
    ∃ t, exec (.sendm x) s = .next t ∧ t.mem = s.mem ∧ t.w = s.w.advance (.sendm x) ∧
      Posted ((lanesOf act).flatMap fun l => (hs l).map (item s.d.devnum l)) s.w.core
        ((lanesOf act).flatMap fun l => (hs l).map fun _ => s.laneDeps l) s t)

/-- R117 to R119: `ARM` sends each active lane's counter its arrivals, at once for a pending frame of its own core;
`FALLOC` gives each active lane the handle of a new pending frame of its core, or the null handle; `FFREE` releases a frame
of its own core and sends a message to any other, or to its own where an earlier release fence that orders the lane or a token
that came in the same clock goes before it (R175, R248).
Where the manual leaves a point open, the reading is the model's: log entry 65. -/
def Obligations.FrameWords : Prop :=
  ∀ s : State, s.d.devnum < 4096 → (∀ g, (s.d.core g).offline = false) →
  let frames := (s.d.share s.w.ctx s.w.core).frames
  (∀ x : SysI, s.wordFault (.arm x) = none →
    let act := s.w.active x.g
    let h := s.w.read32 x.a
    let n := fun l => s.w.opd32 x.b l 1
    (∀ l, l < 32 → act.getLsbD l = true → 1 ≤ (n l).toNat ∧ (n l).toNat ≤ 4095 ∧ s.goodHandle (h l) = true) →
    ((∀ l, l < 32 → act.getLsbD l = true → handleCore (h l) = s.w.core →
        ∀ f, frames.find (handleOfs (h l)) = some f → f.state ≠ .pending) →
      ∃ t, exec (.arm x) s = .next t ∧ t.mem = s.mem ∧ t.w = s.w.advance (.arm x) ∧
        Posted ((lanesOf act).map fun l => s.itemOf 1 (armCtr x) (tokenTo s.d.devnum (h l) 0 0 {} s.w.ctx 0 0 (n l)))
          s.w.core ((lanesOf act).map fun _ => []) s t) ∧
    (∀ l f, act = maskOf (fun k => decide (k = l)) → l < 32 → handleCore (h l) = s.w.core →
      frames.find (handleOfs (h l)) = some f → f.state = .pending → armCtr x < f.size * 16 →
      ∃ t, exec (.arm x) s = .next t ∧ t.mem = s.mem ∧ t.w = s.w.advance (.arm x) ∧
        let y := t.d.share s.w.ctx s.w.core
        let k := handleOfs (h l) + armCtr x
        ctrRem (y.word k) = (n l).toNat ∧ ctrSeen (y.word k) = false ∧ ctrTag (y.word k) = 0 ∧
        ctrMix (y.word k) = ctrMix ((s.d.share s.w.ctx s.w.core).word k) ∧
        ∀ j, j ≠ k → y.word j = (s.d.share s.w.ctx s.w.core).word j)) ∧
  (∀ x : SysC, s.wordFault (.falloc x) = none →
    let act := s.w.active x.g
    ∃ t, exec (.falloc x) s = .next t ∧ t.mem = s.mem ∧ t.w.pc = s.w.pc + (Instr.falloc x).byteLen ∧ SameFlags s t ∧
      (∀ l, l < 32 → act.getLsbD l = true → t.w.cell x.d l = (nullHandle, none) ∨
        ∃ ofs, ofs ∈ t.w.pend ∧ t.w.cell x.d l = (handleOf s.w.core ofs, none) ∧
          ((t.d.share s.w.ctx s.w.core).frames.find ofs).isSome = true) ∧
      (∀ y l, l < 32 → (act.getLsbD l = false ∨ y ≠ x.d) → t.w.cell y l = s.w.cell y l) ∧
      ∀ l ofs, act = maskOf (fun k => decide (k = l)) → l < 32 →
        let n := (s.w.read32 x.a l).toNat
        16 ≤ n → n ≤ 4096 → s.d.placeFor s.w.ctx s.w.core ((n + 15) / 16) = some ofs →
        t.w.cell x.d l = (handleOf s.w.core ofs, none) ∧ t.w.pend = s.w.pend ++ [ofs] ∧
        ∃ f, (t.d.share s.w.ctx s.w.core).frames.find ofs = some f ∧ f.state = .pending ∧ f.size = (n + 15) / 16 ∧
          f.task = s.w.task) ∧
  (∀ x : SysW, s.wordFault (.ffree x) = none →
    let act := s.w.active x.g
    let h := s.w.read32 x.a
    let rel := fun l => s.w.relAfter.filter fun d => (d.lane = 32 || d.lane = l) && !s.depDone d
    let met := fun l => (s.d.core s.w.core).tokenNow s.w.ctx (handleOfs (h l)) = true
    let sends := fun after => ∃ t, exec (.ffree x) s = .next t ∧ t.mem = s.mem ∧ t.w = s.w.advance (.ffree x) ∧
      Posted ((lanesOf act).map fun l => s.itemOf 2 0 (tokenTo s.d.devnum (h l) 0 0 {} s.w.ctx 0 0 0))
        s.w.core ((lanesOf act).map after) s t
    (∀ l, l < 32 → act.getLsbD l = true → s.goodHandle (h l) = true) →
    ((∀ l, l < 32 → act.getLsbD l = true → handleCore (h l) ≠ s.w.core) → sends s.laneDeps) ∧
    ((∀ l, l < 32 → act.getLsbD l = true → handleCore (h l) = s.w.core ∧ (rel l ≠ [] ∨ met l)) → sends rel) ∧
    (Rising frames → (∀ l, l < 32 → act.getLsbD l = true → handleCore (h l) = s.w.core ∧ rel l = [] ∧ ¬ met l) →
      ∃ t, exec (.ffree x) s = .next t ∧ t.w = { s.w with pend := t.w.pend }.advance (.ffree x) ∧
        ∀ l, l < 32 → act.getLsbD l = true → ∀ f,
          (t.d.share s.w.ctx s.w.core).frames.find (handleOfs (h l)) = some f → f.state = .released))

/-- R228 to R230, R272: a token that arrives at a live frame, its slot empty, writes the slot and its presence bit and
counts one arrival; the last one leaves the counter idle and its instance in the bin of its block. A CONTROL token writes
no slot; a SCALE token rewrites a full one without counting; any other token for a full slot enters the collision ring.
Where the manual leaves a point open, the reading is the model's: log entry 73. -/
def Obligations.TokenArrivals : Prop :=
  ∀ (s : State) (m : Msg) (f : Frame) (h : Header),
  let t := m.item.tok
  let x := s.d.share t.ctx t.dest
  let k := t.ofs + h.ctrofs
  let slot := t.ofs + t.slot
  let left := ctrLeft (x.word k) h.inputs
  let tag := t.w3.toNat % 2 ^ 18
  let tag18 := if ctrSeen (x.word k) then ctrTag (x.word k) else tag
  let mix := ctrMix (x.word k) || decide (tag18 ≠ tag)
  let free := x.pres.getD slot false = false
  s.Takes m 0 → s.Meets t f h → (s.d.ctx t.ctx).orderedWait t.dest t m.circuit none = false → f.park = none →
  (free → t.control = false → t.slot ≠ h.ctrofs →
    (2 ≤ left → ∃ u, exec (.tokenArrival (.net m.id)) s = .next u ∧ u.mem = s.mem ∧ u.w = s.w ∧
      let y := u.d.share t.ctx t.dest
      y.word slot = t.w4 ∧ y.pres.getD slot false = true ∧ (y.marks.find slot).isSome = t.poison ∧
      y.word k = ctrWord mix true tag18 (left - 1) ∧
      ∀ j, j ≠ slot → j ≠ k → y.word j = x.word j ∧ y.pres.getD j false = x.pres.getD j false) ∧
    (left = 1 → f.ctl = [] → f.mix = [] → (tag18 = tag ∨ (s.d.ctx t.ctx).det = false) →
      (∀ v, v ∈ x.windows → v.retiredBy t.dest { tag := t.w3, blk := t.blk, ofs := t.ofs, last := t.last } = false) → s.d.poolFree t.ctx t.dest = true → Rising s.d.shares →
      ∃ u r, exec (.tokenArrival (.net m.id)) s = .next u ∧ u.mem = s.mem ∧ u.w = s.w ∧
        let y := u.d.share t.ctx t.dest
        y.word slot = t.w4 ∧ y.word k = ctrWord mix false 0 0 ∧
        (y.bins h.seq).getD h.bin [] = (x.bins h.seq).getD h.bin [] ++ [r] ∧ r.task = f.task ∧
        r.desc = { tag := t.w3, blk := t.blk, ofs := t.ofs, last := t.last })) ∧
  (t.control = true → 2 ≤ left → ∃ u, exec (.tokenArrival (.net m.id)) s = .next u ∧ u.mem = s.mem ∧ u.w = s.w ∧
    let y := u.d.share t.ctx t.dest
    y.word k = ctrWord mix true tag18 (left - 1) ∧ y.pres = x.pres ∧ ∀ j, j ≠ k → y.word j = x.word j) ∧
  (x.pres.getD slot false = true → t.control = false → t.scale = true →
    ∃ u, exec (.tokenArrival (.net m.id)) s = .next u ∧ u.mem = s.mem ∧ u.w = s.w ∧
      let y := u.d.share t.ctx t.dest
      y.word slot = t.w4 ∧ y.pres = x.pres ∧ ∀ j, j ≠ slot → y.word j = x.word j) ∧
  (x.pres.getD slot false = true → t.control = false → t.scale = false →
    ∀ pa, s.d.collUsed t.ctx < 2 ^ (s.d.ctx t.ctx).clog →
    s.engineAddr t.ctx ((s.d.ctx t.ctx).cring + 32 * (s.d.nextColl t.ctx % 2 ^ (s.d.ctx t.ctx).clog)) true = some pa →
    s.NoSplit pa 32 →
    ∃ u e, exec (.tokenArrival (.net m.id)) s = .next u ∧ u.w = s.w ∧
      (u.d.ctx t.ctx).collided = (s.d.ctx t.ctx).collided ++ [e] ∧ e.tok = t ∧ e.core = t.dest ∧ e.seqno = s.d.nextColl t.ctx ∧
      (∀ b, b < pa ∨ pa + 32 ≤ b → u.mem.byte b = s.mem.byte b) ∧ (u.d.share t.ctx t.dest).words = x.words)

/-- R118, R119, R226, R234, R237, R116: `ARM` and `FFREE` messages act at their frame's core, a token for a frame that is
not there is counted as dropped, a collided token is tried again and leaves the ring where its slot is now empty, a parked
descriptor enters its bin, and a held token becomes visible once its lane's stores have been performed.
Where the manual leaves a point open, the reading is the model's: log entries 13, 62, 72, 73 and 87. -/
def Obligations.FrameMessages : Prop :=
  ∀ s : State,
  (∀ (m : Msg) (f : Frame), s.Takes m 1 →
    let t := m.item.tok
    let x := s.d.share t.ctx t.dest
    x.frames.find t.ofs = some f → f.state ≠ .released → m.item.ctr < f.size * 16 →
    ∃ u, exec (.armArrival m.id) s = .next u ∧ u.mem = s.mem ∧ u.w = s.w ∧
      let y := u.d.share t.ctx t.dest
      let k := t.ofs + m.item.ctr
      y.word k = ctrWord (ctrMix (x.word k)) false 0 t.w4.toNat ∧ ∀ j, j ≠ k → y.word j = x.word j) ∧
  (∀ m : Msg, s.Takes m 2 →
    let t := m.item.tok
    let x := s.d.share t.ctx t.dest
    Rising x.frames →
    ∃ u, exec (.ffreeMessage m.id) s = .next u ∧ u.w = { s.w with pend := u.w.pend } ∧
      (∀ f, (u.d.share t.ctx t.dest).frames.find t.ofs = some f → f.state = .released) ∧
      (x.frames.find t.ofs = none → u.mem = s.mem ∧
        (u.d.ctx t.ctx).dropcnt = satNat 32 ((s.d.ctx t.ctx).dropcnt + 1))) ∧
  (∀ m : Msg, s.Takes m 0 →
    let t := m.item.tok
    t.illFormed = true ∨ (s.d.share t.ctx t.dest).frames.find t.ofs = none →
    ∃ u, exec (.tokenArrival (.net m.id)) s = .next u ∧ u.w = s.w ∧
      (u.d.ctx t.ctx).dropcnt = satNat 32 ((s.d.ctx t.ctx).dropcnt + 1) ∧
      (u.d.share t.ctx t.dest).words = (s.d.share t.ctx t.dest).words) ∧
  (∀ (c g va : Nat) (e : Collided) (f : Frame) (h : Header),
    (s.d.ctx c).state = .active → (s.d.share c g).saved = false →
    (s.d.ctx c).collided.find? (fun k => k.core = g && k.ready) = some e →
    let x := s.d.share c g
    x.frames.find e.tok.ofs = some f → f.park = none → s.blockAt c f.task e.tok.blk = some (va, h) →
    (s.d.ctx c).orderedWait g e.tok e.circuit (some e.seqno) = false → e.tok.control = false →
    x.pres.getD (e.tok.ofs + e.tok.slot) false = false → e.tok.slot ≠ h.ctrofs → e.tok.ordered = false →
    2 ≤ ctrLeft (x.word (e.tok.ofs + h.ctrofs)) h.inputs →
    ∃ u, exec (.collisionRetry c g) s = .next u ∧ u.mem = s.mem ∧ u.w = s.w ∧
      (u.d.ctx c).collided = (s.d.ctx c).collided.filter (fun k => k.seqno ≠ e.seqno) ∧
      (u.d.share c g).word (e.tok.ofs + e.tok.slot) = e.tok.w4) ∧
  (∀ (g : Nat) (p : Parked), (s.d.core g).now.contains .freed = false → s.scanNext g = some p →
    (∀ q, q ∈ s.scanned g → ((s.d.core g).scan ≤ q.key → (s.d.core g).scan ≤ p.key ∧ p.key ≤ q.key) ∧
      (p.key < (s.d.core g).scan → p.key ≤ q.key)) ∧
    ∃ u f r, exec (.parkedDescriptorScan g) s = .next u ∧ u.mem = s.mem ∧ u.w = s.w ∧ (u.d.core g).scan = p.key + 1 ∧
      (u.d.share p.ctx g).frames.find p.ofs = some f ∧ f = { p.frame with park := none } ∧
      ((u.d.share p.ctx g).bins p.hdr.seq).getD p.hdr.bin [] =
        ((s.d.share p.ctx g).bins p.hdr.seq).getD p.hdr.bin [] ++ [r] ∧ r.desc = p.dsc) ∧
  (∀ m : Msg, s.d.msg m.id = some m → s.depsDone m.after = true →
    ∃ u, exec (.heldTokenVisible m.id) s = .next u ∧ u.mem = s.mem ∧ u.w = s.w ∧
      u.d.msg m.id = some { m with after := [] } ∧ u.d.net.length = s.d.net.length)

/-- R111, R238 to R240, R244, R245: a core with space takes, of the waiting frames that may go to it and fit, the first to be
served, unless a gang that could be placed is served before it, live and with its tokens on their way, and then goes on with
the others; a RANGE spawns one index at a time; a group that is eligible and finds room forms one warp, whose instances
leave their bin, one in a clock and behind the restored warps that wait for a place, and in a later clock where R248 has the
events of this one come first; a gather timer that runs out makes its group eligible.
Where the manual leaves a point open, the reading is the model's: log entries 14, 24, 72, 76 and 96. -/
def Obligations.SpawnsAndWarps : Prop :=
  ∀ s : State,
  (∀ (die g ofs : Nat) (e : SpawnEnt),
    let waiting := (s.d.die die).spawn
    let mayGo := fun (k : SpawnEnt) => (s.d.goesTo k).contains g = true ∧ (s.d.ctx k.ctx).state = .active ∧
      (s.d.fitsOn k.ctx k.granules g).isSome = true
    let place := s.d.servedAt die e.ctx e.seqno (fidNum e.fidHi e.fidLo)
    e ∈ waiting → mayGo e → s.d.fitsOn e.ctx e.granules g = some ofs →
    (∀ k, k ∈ waiting → mayGo k → k ≠ e → place < s.d.servedAt die k.ctx k.seqno (fidNum k.fidHi k.fidLo)) →
    (∀ b, b ∈ (s.d.die die).gangs → b.mig = true ∨ g / 32 = die → s.d.servedAt die b.ctx b.seqno b.fidKey < place →
      s.gangReady die b = false) →
    (s.blockAt e.ctx e.task e.blk).isSome = true → (∀ k, (s.d.core k).offline = false) →
    (∀ t, t ∈ e.toks → t.device = s.d.devnum) →
    ∃ u, exec (.spawnQueuePlacement die g) s = .next (u.fillCore die g (waiting.length - 1)) ∧ u.w = s.w ∧
      ((s.d.ctx e.ctx).heatbuf = 0 ∨ (s.d.share e.ctx g).holds = true → u.mem = s.mem) ∧
      (u.d.die die).spawn = waiting.filter (fun k => k.seqno ≠ e.seqno) ∧
      (u.d.share e.ctx g).frames.find ofs = some (Frame.fresh .live e.task e.granules e.fidHi e.fidLo) ∧
      (u.d.share e.ctx g).slot.isSome = true ∧
      Posted (e.toks.map fun t => u.itemOf 0 0 (Token.toFrame t g ofs)) e.sender (e.toks.map fun _ => []) s u) ∧
  (∀ (c g : Nat) (r : RangeJob) (rs : List RangeJob), (s.d.share c g).ranges = r :: rs → s.mayRun c g = true →
    (s.d.share c g).holds = true →
    ∃ u, exec (.rangeSpawn c g) s = .next u ∧ u.w = s.w ∧
      (u.d.share c g).ranges = if r.count ≤ r.next + 1 then rs else { r with next := r.next + 1 } :: rs) ∧
  (∀ (g part : Nat) (seq : Bool) (x : Choice) (e : Instr),
    (e = .warpFormation g ∧ seq = false) ∨ (e = .sequencerWarpFormation g ∧ seq = true) →
    ((s.d.core g).now.contains (.formed seq) = true → exec e s = .next s) ∧
    ((s.d.core g).now.contains (.formed seq) = false → ∀ t, s.placeWarp g seq = some t → exec e s = .next t ∧
      ∃ w p, w ∈ s.allWarps ∧ w.core = g ∧ w.seq = seq ∧ w.part = noPart ∧ s.warpPlace g seq w.hdr = some p ∧
        t = s.mapUid w.uid fun v => { v with part := p }) ∧
    ((s.d.core g).now.contains (.formed seq) = false → s.placeWarp g seq = none →
    s.choose g seq = some x →
    (s.formsLater g x = true → exec e s = .next s) ∧
    (s.formsLater g x = false → s.choiceFault x = none → s.warpPlace g seq x.hdr = some part →
    let det := (s.d.ctx x.ctx).det
    let ls := s.choiceLanes g x
    ∃ u w, exec e s = .next u ∧ u.mem = s.mem ∧ u.w = s.w ∧ u.d.warps = s.d.warps ++ [w] ∧
      w.live = true ∧ w.uid = s.d.nextId ∧ w.ctx = x.ctx ∧ w.core = g ∧ w.part = part ∧ w.hdr = x.hdr ∧ w.base = x.va ∧
      w.pc = 0 ∧ w.status = .running ∧ w.fmode = (s.d.ctx x.ctx).fmode ∧ w.srseed = (s.d.ctx x.ctx).srseed ∧
      (∀ l, l < 32 → w.filled.getLsbD l = ls.any fun p => p.1 = l) ∧
      ∀ p r, p ∈ ls → r ∈ (u.d.share x.ctx g).group det x.key → r.seqno ≠ p.2.seqno))) ∧
  (∀ (c g va : Nat) (k : GroupKey) (r : Ready) (rs : List Ready) (h : Header),
    let x := s.d.share c g
    x.group (s.d.ctx c).det k = r :: rs → s.blockAt c k.task k.blk = some (va, h) → k.seq = false → x.saved = false →
    x.timed.contains k = false → r.since + h.gather ≤ (s.d.core g).clk →
    exec (.gatherTimeout c g k) s = .next (s.mapShare c g fun y => { y with timed := y.timed ++ [k] }))

/-- R59, R60, R216, R217, R220, R224: `CSRR` reads a context register into its S register and `CSRW` writes one, `RDEF`
defines or removes an entry of the context's region table, `RSTAT` reads a count of merged joins, and `PERFRD` an event
counter, whose value is a free one where it counts. A register that R59 makes read-only and a region that R216 or R341
turns away take the fault named there.
Where the manual leaves a point open, the reading is the model's: log entry 17. -/
def Obligations.SystemWords : Prop :=
  ∀ s : State,
  let k := s.d.ctx s.w.ctx
  let took := fun (i : Instr) (t : State) => t = ({ s with w := { s.w with s := t.w.s } } : State).advance i
  (∀ (x : SysJ) (v : Word), s.wordFault (.csrr x) = none →
    (x.imm = 0 ∧ v = s.w.fmode) ∨ (x.imm = 1 ∧ v = s.w.srseed) ∨ (x.imm = 0x10 ∧ v = s.w.tilecoord) ∨
      (x.imm = 0x20 ∧ v = BitVec.ofNat 32 ((if k.det then 1 else 0) + k.mode % 4 * 2)) ∨
      (x.imm = 0x21 ∧ v = BitVec.ofNat 32 k.recptr) ∨ (x.imm = 0x22 ∧ v = BitVec.ofNat 32 (k.recptr / 2 ^ 32 % 2 ^ 25)) ∨
      (x.imm = 0x30 ∧ v = BitVec.ofNat 32 (k.prio % 8)) ∨
      (∃ n, n < 8 ∧ x.imm = BitVec.ofNat 32 (8 + n) ∧ v = k.fd.getD n fdDefault) →
    ∃ t, exec (.csrr x) s = .next t ∧ took (.csrr x) t ∧
      ∀ y : BitVec 8, t.w.cell (.s y) 0 = if x.d = .s y then (v, none) else s.w.cell (.s y) 0) ∧
  (∀ x : SysJ, s.wordFault (.csrw x) = none →
    let v := s.w.read32 x.a 0
    let user := k.supv = false
    let wrote := fun (w' : Warp) (k' : Ctx) =>
      ∃ t, exec (.csrw x) s = .next t ∧ t.mem = s.mem ∧ t.turns = s.turns ∧ t.w = w'.advance (.csrw x) ∧
        t.d = { s.d with ctxs := t.d.ctxs } ∧ t.d.ctx s.w.ctx = k' ∧
        ∀ c, c ≠ s.w.ctx → t.d.ctx c = s.d.ctx c
    (x.imm = 0 → wrote { s.w with fmode := fmodeStore v } { k with fmode := fmodeStore v }) ∧
    (x.imm = 1 → wrote { s.w with srseed := v } { k with srseed := v }) ∧
    (x.imm = 0x10 → wrote { s.w with tilecoord := v } k) ∧
    (∀ n, n < 8 → x.imm = BitVec.ofNat 32 (8 + n) →
      if fdValid v then wrote s.w { k with fd := k.fd.put n v }
      else exec (.csrw x) s = .next (s.raiseAll 0x06 (BitVec.ofNat 32 n))) ∧
    (x.imm = 0x20 → exec (.csrw x) s = .next (s.raiseAll (if k.supv then 0x01 else 0x04))) ∧
    (user → x.imm = 0x21 ∨ x.imm = 0x22 ∨ x.imm = 0x30 → exec (.csrw x) s = .next (s.raiseAll 0x04)) ∧
    (¬ user → x.imm = 0x21 → wrote s.w { k with recptr := k.recptr / 2 ^ 32 * 2 ^ 32 + v.toNat }) ∧
    (¬ user → x.imm = 0x22 → wrote s.w { k with recptr := k.recptr % 2 ^ 32 + v.toNat % 2 ^ 25 * 2 ^ 32 }) ∧
    (¬ user → x.imm = 0x30 → wrote s.w { k with prio := v.toNat % 8 })) ∧
  (∀ x : SysC, s.wordFault (.rdef x) = none →
    let idx := (s.w.read32 x.c 0 2).toNat
    let base := s.w.sPair x.a
    let len := (s.w.read32 x.b 0 1).toNat
    let bad := if x.fn.getLsbD 0 then k.clearBad idx else k.regionBad idx base len
    if bad then exec (.rdef x) s = .next (s.raiseAll 0x17 (BitVec.ofNat 32 idx))
    else ∃ t, exec (.rdef x) s = .next t ∧ t.mem = s.mem ∧ t.turns = s.turns ∧ t.w = s.w.advance (.rdef x) ∧
      t.d = { s.d with ctxs := t.d.ctxs } ∧ (∀ c, c ≠ s.w.ctx → t.d.ctx c = s.d.ctx c) ∧
      let k' := t.d.ctx s.w.ctx
      k' = { k with regions := k'.regions, rootConf := k'.rootConf, rootGran := k'.rootGran } ∧
      k'.rootConf.getD idx 0 = 0 ∧ k'.rootGran.getD idx 0 = 0 ∧
      ∀ n, k'.regions.find n = if n ≠ idx then k.regions.find n else if x.fn.getLsbD 0 then none else
        some { base := base, len := len, ty := x.mod.toNat % 16, merge := x.mod.toNat / 16, nlog := 0, nlogn := 0 }) ∧
  (∀ (x : SysW) (v : Nat), s.wordFault (.rstat x) = none →
    let idx := (s.w.read32 x.a 0).toNat
    (s.w.active x.g = 0 → exec (.rstat x) s = .next (s.advance (.rstat x))) ∧
    (s.w.active x.g ≠ 0 →
      (k.regions.find idx = none ∧ v = 0) ∨
      (k.regions.find idx ≠ none ∧ (∀ r, k.revs.find s.w.task = some r → r.regions.find idx = none) ∧
        v = (if x.fn = 0 then k.rootConf else k.rootGran).getD idx 0) ∨
      (∃ r, k.regions.find idx ≠ none ∧ k.revs.find s.w.task = some r ∧ r.regions.find idx ≠ none ∧
        v = (if x.fn = 0 then r.conflicts else r.granules).getD idx 0) →
      ∃ t, exec (.rstat x) s = .next t ∧ took (.rstat x) t ∧
        ∀ y : BitVec 8, t.w.cell (.s y) 0 = if x.d = .s y then (BitVec.ofNat 32 v, none) else s.w.cell (.s y) 0)) ∧
  (∀ x : SysW, s.wordFault (.perfrd x) = none →
    let i := (s.w.read32 x.a 0).toNat
    (s.w.active x.g = 0 → exec (.perfrd x) s = .next (s.advance (.perfrd x))) ∧
    (s.w.active x.g ≠ 0 → ∃ t v, exec (.perfrd x) s = .next t ∧ t.mem = s.mem ∧ t.turns = s.turns ∧
      t.w = { s.w with s := t.w.s }.advance (.perfrd x) ∧
      t.d = { s.d with cores := t.d.cores, dies := t.d.dies, free := t.d.free } ∧
      (12 ≤ i → v = 0 ∧ t.d = s.d) ∧
      (∀ y : BitVec 8, t.w.cell (.s y) 0 = written (Spec.indexIn (.s y) x.d 2) v (s.w.cell (.s y) 0)) ∧
      (i < 8 → countsSource true ((s.d.core s.w.core).selections.getD i 0) = false →
        v = (s.d.core s.w.core).counters.getD i 0 ∧ t.d = s.d)))

/-- R222, R223, R337: the supervisor's `SRET` gives an `ECALL` its value and lets its warp go on; `RESUMEQ` lets a warp
parked at `BRK`, a loop nest that parked, a copy queue or the matrix engine go on; each takes an identifier once the earlier writes of the
supervisor's warp have been performed, and counts one that names nothing. At task level both take 0x04. A merge that is
parked is named by its child (the model's choice: log entry 16).
Where the manual leaves a point open, the reading is the model's: log entries 16, 28 and 53. -/
def Obligations.ResumeWords : Prop :=
  ∀ (s : State) (x : SysW) (i : Instr), (i = .sret x ∨ i = .resumeq x) → i.legal = true →
  i.inside (8 * s.w.hdr.vregs) (8 * s.w.hdr.sregs) = true → i.kindOk s.w.hdr.seq = true →
  let id := s.w.read32 x.a 0
  let c := ridCtx id
  let g := ridCore id
  let n := ridIdx id
  let served := fun kind => (i = .sret x) = (kind = 3)
  ((s.d.ctx s.w.ctx).supv = false → exec i s = .next (s.raiseAll 0x04)) ∧
  ((s.d.ctx s.w.ctx).supv = true → s.w.live = true → s.w.status = .running → s.w.active x.g ≠ 0 →
    s.depsDone (s.writesOf s.w.uid) = true →
    (¬ served (ridKind id) ∨ (ridKind id ≠ 0 ∧ s.parkNamed id = none) ∨ (ridKind id = 0 ∧ s.resumeMerge id = none) →
      ∃ t, exec i s = .next t ∧ t.mem = s.mem ∧ t.w = s.w.advance i ∧ t.d = { s.d with ctxs := t.d.ctxs } ∧
        t.d.ctx s.w.ctx = { s.d.ctx s.w.ctx with igncnt := satNat 32 ((s.d.ctx s.w.ctx).igncnt + 1) } ∧
        ∀ k, k ≠ s.w.ctx → t.d.ctx k = s.d.ctx k) ∧
    (∀ r, ridKind id = 0 → served 0 → (s.d.ctx c).revs.find n = some r → r.stuck ≠ none → r.gen = ridGen id →
      (s.d.ctx c).state ≠ .free → (s.d.ctx c).state ≠ .ending →
      ∃ t, exec i s = .next t ∧ t.mem = s.mem ∧ t.w = s.w.advance i ∧ t.d = { s.d with ctxs := t.d.ctxs } ∧
        (t.d.ctx c).revs.find n = some { r with stuck := none } ∧ ∀ k, k ≠ c → t.d.ctx k = s.d.ctx k) ∧
    (∀ p, s.parkNamed id = some p → served (ridKind id) → (s.d.share c g).saved = false → (s.d.share c g).halted = false →
      (∀ w, ridKind id = 2 ∨ ridKind id = 3 → p.uid ≠ s.w.uid → s.warp p.uid = some w →
        ∃ t, exec i s = .next t ∧ t.mem = s.mem ∧ t.w = s.w.advance i ∧
          t.warp p.uid = some (if ridKind id = 3 then { w.putS p.sd (s.w.read32 x.b 0 1) with status := .running }
            else { w with status := .running }) ∧
          (∀ u, u ≠ p.uid → t.warp u = (s.advance i).warp u) ∧
          (t.d.share c g).park.find (parkKey (ridKind id) n) = some { p with used := false, held := none }) ∧
      (∀ q, ridKind id = 4 → (q = if n = 0 then 0 else 1) →
        ∃ t, exec i s = .next t ∧ t.mem = s.mem ∧ t.w = s.w.advance i ∧ t.d = { s.d with shares := t.d.shares } ∧
          (t.d.share c g).copy q = ((s.d.share c g).copy q).map (fun k => { k with parked := none }) ∧
          (t.d.share c g).park.find (parkKey 4 n) = some { p with used := false, held := none }) ∧
      (ridKind id = 1 → (∃ o, o ∈ s.d.loops ∧ o.uid = p.uid ∧ o.parked = some n) →
        ∃ t, exec i s = .next t ∧ t.mem = s.mem ∧ t.w = s.w.advance i ∧
          t.d = { s.d with shares := t.d.shares, loops := t.d.loops } ∧
          t.d.loops = s.d.loops.map (fun o => if o.uid = p.uid ∧ o.parked = some n then
            { o with parked := none, lanes := o.lanes.map fun y => { y with stuck := false } } else o) ∧
          (t.d.share c g).park.find (parkKey 1 n) = some { p with used := false, held := none }) ∧
      (ridKind id = 5 →
        ∃ t, exec i s = .next t ∧ t.mem = s.mem ∧ t.w = s.w.advance i ∧ t.d = { s.d with shares := t.d.shares } ∧
          (t.d.share c g).mx.issued = (s.d.share c g).mx.issued.map (fun m => { m with parked := none }) ∧
          (t.d.share c g).park.find (parkKey 5 n) = some { p with used := false, held := none })))

/-- R54, R55, R63, R181, R209, R215: a warp that waited at a word performs it once what it waited for is there: counters
at the limits of a `WAIT`, a counter below 255, a queue's room or entry, the four counters at zero for a terminator, `TRAP`
or `ECALL` (with what else it waits for), or a sequence that is no longer BUSY.
Where the manual leaves a point open, the reading is the model's: log entries 5, 66, 77, 79 and 82. -/
def Obligations.ReleaseEvents : Prop :=
  ∀ (s : State) (uid : Nat) (w : Warp), s.warp uid = some w → w.live = true →
  let f := s.focus uid
  (∀ x : SysJ, w.status = .waitLimits x → s.warpOn w = true →
    let lim := fun k => x.imm.toNat / 2 ^ (8 * k) % 256
    w.ldc ≤ lim 0 → w.stc ≤ lim 1 → w.cpc ≤ lim 2 → w.tlc ≤ lim 3 →
    ∃ t, exec (.waitRelease uid) s = .next t ∧ t.mem = s.mem ∧ t.d = f.d ∧
      t.w = { w with status := .running, inflight := if lim 0 = 0 then [] else w.inflight }.advance (.wait x)) ∧
  (∀ k, w.status = .counterStall k → w.counter k < 255 →
    ∃ t, exec (.counterStallRelease uid) s = .next t ∧ t.mem = s.mem ∧ t.warp uid = some { w with status := .running } ∧
      ∀ n, n ≠ uid → t.warp n = s.warp n) ∧
  (s.warpOn w = true →
    (∀ i, w.status = .blocked i → f.wordFault i = none →
      (∃ x, i = .qpush x) ∨ (∃ x, i = .qpop x) ∨ (∃ x, i = .mov x) ∨ (∃ x, i = .cpy x) ∨ (∃ x, i = .evict x) ∨
        (∃ x, i = .selcfg x) ∨ (∃ x, i = .selpush x) ∨ (∃ x, i = .selpop x) →
      ReleasedTo (.queueUnblock uid) i s f) ∧
    (∀ (x : SysW) (e : QEntry) (es : List QEntry), w.status = .blocked (.evwait x) → f.wordFault (.evwait x) = none →
      (s.d.share w.ctx w.core).queue .qce = e :: es →
      let act := w.active x.g
      ∃ t, exec (.queueUnblock uid) s = .next t ∧ TookFrom .qce es act [e] f t ∧ t.w.status = .running ∧
        t.w.pc = w.pc + (Instr.evwait x).byteLen ∧ t.w.v = w.v ∧ t.w.o = w.o ∧ t.w.p = w.p ∧ t.w.sp = w.sp ∧
        (∀ l, l < 32 → t.w.pz.getLsbD l = (w.pz.getLsbD l || (act.getLsbD l && e.poison))) ∧
        ∀ n : BitVec 8, t.w.cell (.s n) 0 =
          match (List.range 8).find? fun k => x.d.plus k = .s n with
          | some k => (e.data.getD k 0, none)
          | none => w.cell (.s n) 0) ∧
    (∀ i, w.status = .draining i → s.mayAct w i = true → f.wordFault i = none →
      (∃ x, (i = .endK x ∨ i = .endR x) ∧ w.clauseMissing x = false) ∨ (∃ x, i = .trap x ∨ i = .ecall x) →
      ReleasedTo (.countersDrained uid) i s f) ∧
    (∀ i, w.status = .busyPark i → f.wordFault i = none →
      ((∃ x, i = .kvld x ∨ i = .posld x) ∨ (∃ x, i = .massacc x) →
        ReleasedTo (.busyParkRelease uid) i s (f.mapWarp fun v => { v.releaseCount with status := .running }))) ∧
    (∀ x, w.status = .seqlockPark (.seqlockAcq x) → f.wordFault (.seqlockAcq x) = none →
      ReleasedTo (.seqlockParkRelease uid) (.seqlockAcq x) s (f.mapWarp fun v => { v with status := .running })))

/-- R18, R184, R185, R403: the copy engine takes the oldest command of a queue that is free, heavy ones after asking for
leave; a command with a mark or one that R184 rejects ends with status 2 or 1; a chunk of unmarked bytes stands at its
destination afterwards, and nothing else of memory changes; the last chunk finishes the command; a completion places its
event and sends its token, or neither where its context has ended; a chunk from another device is written in the root's view.
Where the manual leaves a point open, the reading is the model's: log entries 25, 26, 30, 82 and 100. -/
def Obligations.CopyUnit : Prop :=
  ∀ (s : State) (c g q : Nat), q < 2 →
  let x := s.d.share c g
  let other := fun (t : State) => ∀ n, n ≠ shareKey c g → t.d.shares.find n = s.d.shares.find n
  (∀ (e : QEntry) (es : List QEntry), x.queue (copyQueue q) = e :: es → x.copy q = none → s.mayRun c g = true →
    s.entryReady c g e = true →
    let s1 := s.mapShare c g fun y => y.setQueue (copyQueue q) es
    let h := e.data.getD 10 0
    let e' := e.accepted e.wantsTok (s.d.frameTask c (handleCore h) (handleOfs h))
    let ended := fun (status : Nat) (r : FaultRec) => ∃ t k, exec (.copyCommand c g q) s = .next t ∧
      t.mem = ((s1.noteEntry c g e).noteFor e.uid e.id r).mem ∧ (t.d.share c g).queue (copyQueue q) = es ∧ (t.d.share c g).copy q = some k ∧
      k.entry = e' ∧ k.finished = true ∧ k.status = status ∧ k.bytes = 0
    (e.poison = true → ended 2 { FaultRec.engine 0x18 3 c g with d1 := e.evid }) ∧
    (e.poison = false → s.copyBad c e = true → ended 1 { FaultRec.engine 0x16 7 c g with d0 := 1, d1 := e.evid }) ∧
    (e.poison = false → e.err = 0 → s.copyBad c e = false → ∃ t k, exec (.copyCommand c g q) s = .next t ∧ t.mem = s.mem ∧ t.w = s.w ∧
      other t ∧ (t.d.share c g).copy q = some k ∧ (t.d.share c g).queue (copyQueue q) = es ∧
      k = { entry := e', row := 0, col := 0, bytes := 0, status := 0, leave := k.leave, finished := false, marked := false,
            parked := none } ∧
      (e.len * e.rows ≤ 1048576 → k.leave = 2 ∧ t.d.dies = s.d.dies) ∧
      (1048576 < e.len * e.rows → k.leave = 1 ∧ t.d.dies = s.d.dies.put (g / 32)
        { s.d.die (g / 32) with reqs := (s.d.die (g / 32)).reqs ++ [LeaveReq.mk 2 c g q 2 (s.d.core g).clk] }))) ∧
  (∀ (k : CopyCmd) (bs : List (Byte × Bool)), x.copy q = some k → k.finished = false → k.parked = none → k.leave = 2 →
    s.copyRuns c g = true → k.col < k.entry.len → k.row < k.entry.rows → s.chunkFault c g k = none →
    s.chunkBytes c g k false = bs → (∀ b, b ∈ bs → b.2 = false) →
    let e := k.entry
    let da := k.chunk.2.1
    let n := k.chunk.2.2
    let after := fun (t : State) => ∃ k', (t.d.share c g).copy q = some k' ∧ k'.entry = e ∧ k'.status = k.status ∧
      k'.bytes = k.bytes + n ∧
      (if k.col + n < e.len then k'.row = k.row ∧ k'.col = k.col + n ∧ k'.finished = false
       else k'.row = k.row + 1 ∧ k'.col = 0 ∧ k'.finished = decide (k.row + 1 = e.rows))
    (n = Nat.min (e.len - k.col) (4096 - da % 4096) ∧ bs.length = n) ∧
    (∀ h, e.dsp = 0 → s.hit g c (.virt da) 0 = some h → (s.d.ctx c).needsPage e.task da = false →
      s.NoSplit (s.locate c e.task da h.pa) n →
      let pa := s.locate c e.task da h.pa
      ∃ t, exec (.copyChunk c g q false) s = .next t ∧ after t ∧
        ∀ b, t.mem.byte b = if pa ≤ b ∧ b < pa + n then (bs.getD (b - pa) (0, false)).1 else s.mem.byte b) ∧
    (e.dsp = 1 → let at_ := (s.d.ctx c).scratchAt + da
      ∃ t, exec (.copyChunk c g q false) s = .next t ∧ after t ∧ t.mem = s.mem ∧
        ∀ b, (t.d.share c g).coreByte b =
          if at_ ≤ b ∧ b < at_ + n then (bs.getD (b - at_) (0, false)).1 else x.coreByte b) ∧
    (e.isFill = true → ∀ j, j < n → (bs.getD j (0, false)).1 = BitVec.ofNat 8 (e.cmd 1 / 2 ^ (8 * (j % 4)))) ∧
    (e.isFill = false → e.ssp = 1 →
      ∀ j, j < n → (bs.getD j (0, false)).1 = x.coreByte ((s.d.ctx c).scratchAt + k.chunk.1 + j))) ∧
  (∀ k, x.copy q = some k → k.finished = false → k.parked = none → k.leave = 2 → s.copyRuns c g = true →
    k.entry.dsp = 2 → k.entry.ddev ≠ s.d.devnum → s.pathUp c k.entry.ddev = false →
    ∃ t k', exec (.copyChunk c g q false) s = .next t ∧ t.mem = s.mem ∧ (t.d.share c g).copy q = some k' ∧
      k'.finished = true ∧ k'.status = 3 ∧ k'.bytes = k.bytes) ∧
  (∀ k, x.copy q = some k → k.finished = true → s.copyRuns c g = true → k.orphan = true →
    ∃ t, exec (.copyCompletion c g q) s = .next t ∧ t.mem = s.mem ∧ t.w = s.w ∧ other t ∧ (t.d.share c g).copy q = none ∧
      (t.d.share c g).queue .qce = x.queue .qce ∧ t.d.net = s.d.net) ∧
  (∀ k, x.copy q = some k → k.finished = true → s.copyRuns c g = true → (s.d.ctx c).state ≠ .ending → k.orphan = false →
    s.d.devnum < 4096 → (k.entry.wantsTok = true → s.copyHandle c k.entry = true ∧ (s.d.core (s.copyTok c k).dest).offline = false) →
    let ev := bitOf k.entry.cmpl 0
    (ev = true → (x.queue .qce).length < Queue.depth .qce) →
    ∃ t, exec (.copyCompletion c g q) s = .next t ∧ t.mem = s.mem ∧ t.w = s.w ∧ other t ∧
      (t.d.share c g).copy q = none ∧
      (ev = false → (t.d.share c g).queue .qce = x.queue .qce) ∧
      (ev = true → ∃ y, (t.d.share c g).queue .qce = x.queue .qce ++ [y] ∧
        y.data = [k.entry.evid, BitVec.ofNat 32 (q + 1 + k.status * 256), BitVec.ofNat 32 k.bytes,
          BitVec.ofNat 32 (k.bytes / 2 ^ 32)] ++ List.replicate 28 0) ∧
      Posted (if k.entry.wantsTok then [s.itemOf 0 0 (s.copyTok c k)] else []) g
        (if k.entry.wantsTok then [[]] else []) s t ∧
      (s.copyTok c k).w4 = if k.status = 0 then k.entry.data.getD 13 0 else BitVec.ofNat 32 (0xFFFFFF00 + k.status)) ∧
  (∀ (va : Nat) (bytes : List Byte) (h : Hit), (s.d.ctx c).state ≠ .free → (s.d.ctx c).state ≠ .ending →
    s.engineFault c 0 256 va bytes.length 1 = none → va % 4096 + bytes.length ≤ 4096 → s.hit 0 c (.virt va) 0 = some h →
    (s.d.ctx c).needsPage 256 va = false → s.NoSplit (s.locate c 256 va h.pa) bytes.length →
    let pa := s.locate c 256 va h.pa
    ∃ t, exec (.deviceLinkCopyTraffic c va bytes) s = .next t ∧ t.w = s.w ∧
      ∀ b, t.mem.byte b = if pa ≤ b ∧ b < pa + bytes.length then bytes.getD (b - pa) 0 else s.mem.byte b)

/-- R153, R155, R156, R213, R214, R363, R366: the select unit performs the oldest entry of `QSI`, opening a selection, putting
each candidate in its place among at most k of its column, or returning a row of a rank in `QSO`; Encke takes the oldest
command of `QEK`, refuses one with a mark or one that R214 or R376 rejects, and keeps the rest; an eviction whose sequence is held
waits, and is abandoned where its context ends meanwhile, one that does not translate ends with status 4; else it is carried
out, its reads and writes in the order that each step picks, EVCNT last, and keeps the budget's indices.
Where the manual leaves a point open, the reading is the model's: log entries 15, 26, 78, 82, 93, 99 and 100. -/
def Obligations.SelectAndEviction : Prop :=
  (∀ (s : State) (c g : Nat) (e : QEntry) (es : List QEntry),
    let x := s.d.share c g
    let s1 := s.noteEntry c g e
    let next := fun (t : State) => exec (.selectEntry c g) s = .next t ∧ t.mem = s1.mem ∧ t.w = s1.w ∧
      t.d = { s1.d with shares := t.d.shares } ∧ (∀ n, n ≠ shareKey c g → t.d.shares.find n = s1.d.shares.find n) ∧
      (t.d.share c g).queue .qsi = es
    x.queue .qsi = e :: es → s.mayRun c g = true → s.entryReady c g e = true →
    (e.sel = 0 → ∃ t, next t ∧
      let y := (t.d.share c g).sel
      y.k = (max 1 (min e.selA.toInt 64)).toNat ∧ y.c = (max 1 (min e.selB.toInt 32)).toNat ∧ y.cols = [] ∧ y.row = 0 ∧
      y.poison = e.poison ∧ y.largest = (e.data.getD 0 0 == 0) ∧ (t.d.share c g).queue .qso = x.queue .qso) ∧
    (e.sel = 1 ∨ e.sel = 2 → ∃ t, next t ∧
      let y := (t.d.share c g).sel
      y = { x.sel with cols := y.cols, row := y.row, poison := y.poison } ∧ (t.d.share c g).queue .qso = x.queue .qso ∧
      y.row = (if e.sel = 2 then x.sel.row else x.sel.row + 1) ∧ y.poison = (x.sel.poison || e.poison) ∧
      ∀ l, l < 32 →
        (¬ (l < x.sel.c ∧ e.lanes.getLsbD l = true) → y.cols.getD l [] = x.sel.cols.getD l []) ∧
        (l < x.sel.c → e.lanes.getLsbD l = true → ∃ pre post, x.sel.cols.getD l [] = pre ++ post ∧
          let new := Cand.mk (e.data.getD l 0) (if e.sel = 2 then e.selB else x.sel.row)
          let above := fun (a b : Cand) => x.sel.better a.val b.val = true ∨
            (x.sel.better b.val a.val = false ∧ a.idx.toNat < b.idx.toNat)
          y.cols.getD l [] = (pre ++ new :: post).take x.sel.k ∧ (∀ z, z ∈ pre → ¬ above new z) ∧
          ∀ z, post.head? = some z → above new z)) ∧
    (3 ≤ e.sel → (x.queue .qso).length < Queue.depth .qso → ∃ t r, next t ∧ (t.d.share c g).sel = x.sel ∧
      (t.d.share c g).queue .qso = x.queue .qso ++ [r] ∧ r.uid = e.uid ∧ r.poison = (x.sel.poison || e.poison) ∧
      ∀ l, l < 32 → r.data.getD l 0 =
        match (if l < x.sel.c ∧ e.selA.toNat < x.sel.k then (x.sel.cols.getD l [])[e.selA.toNat]? else none) with
        | some y => if e.sel = 4 then y.idx else y.val
        | none => if e.sel = 4 then 0xFFFFFFFF#32 else 0#32)) ∧
  (∀ (s : State) (c g : Nat) (e : QEntry) (es : List QEntry),
    let x := s.d.share c g
    let k0 := EnckeCmd.new c g e
    let h := BitVec.ofNat 32 (k0.word 6)
    let k := { k0 with entry := e.accepted k0.tok (s.d.frameTask c (handleCore h) (handleOfs h)) }
    let s1 := s.mapShare c g fun y => y.setQueue .qek es
    x.queue .qek = e :: es → s.mayRun c g = true → s.entryReady c g e = true →
    (e.poison = true → exec (.enckeCommand c g) s =
      .next (((s1.noteEntry c g e).note (FaultRec.engine 0x18 3 c g)).endCmd (g / 32) k 2)) ∧
    (e.poison = false → s.cmdBad k = true →
      exec (.enckeCommand c g) s =
        .next (((s1.noteEntry c g e).note { FaultRec.engine 0x13 7 c g with d0 := 1 }).endCmd (g / 32) k 1)) ∧
    (e.poison = false → e.err = 0 → s.cmdBad k = false → ∃ t, exec (.enckeCommand c g) s = .next t ∧ t.mem = s.mem ∧ t.w = s.w ∧
      (t.d.share c g).queue .qek = es ∧ (t.d.die (g / 32)).encke = (s.d.die (g / 32)).encke ++ [k])) ∧
  (∀ (s : State) (die idx pick : Nat) (k : EnckeCmd), (s.d.die die).encke[idx]? = some k →
    let ks := (s.d.die die).encke
    let c := s.d.ctx k.ctx
    let e : Instr := .eviction die { idx := idx, pick := pick }
    let rejected : FaultRec := { FaultRec.engine 0x13 7 k.ctx k.core with d0 := 1 }
    let missed := fun (m : Nat × Nat × Nat) =>
      s.note { FaultRec.engine m.1 1 k.ctx k.core with address := m.2.1, d0 := BitVec.ofNat 32 m.2.2 }
    let ending := c.state = .ending ∨ k.orphan = true
    (k.stage = 0 →
      ((∃ j, j ∈ ks ∧ j.stage ≠ 0) → exec e s = .next s) ∧
      (s.cmdTurn ks idx = true →
        (∀ m, s.rangeMiss k.ctx k.seqVa 64 true = some m →
          exec e s = .next (((missed m).putCmd die idx none).endCmd die k 4)) ∧
        ∀ pa, s.rangeMiss k.ctx k.seqVa 64 true = none → s.engineAddr k.ctx k.seqVa false = some pa →
          let n := s.mem.nat pa 64
          let d := SeqDesc.of n
          (d.busy = true → ending → exec e s = .next (s.putCmd die idx none)) ∧
          (d.busy = true → ¬ ending → exec e s = .next (s.putCmd die idx (some { k with waited := true }))) ∧
          (d.busy = false → d.ok = false → exec e s = .next (((s.putCmd die idx none).note rejected).endCmd die k 1)) ∧
          (d.busy = false → d.ok = true → k.waited = true → ending → exec e s = .next (s.putCmd die idx none)) ∧
          (d.busy = false → d.ok = true → ¬ (k.waited = true ∧ ending) → c.needsPage 256 (k.seqVa + 32) = false →
            c.hostBarred (k.seqVa + 32) (pa + 32) = false → s.NoSplit (pa + 32) 4 →
            ∃ t, exec e s = .next t ∧ t.w = s.w ∧
              Stored s.mem t.mem (pa + 32) 4 (s.mem.nat (pa + 32) 4 / 2 * 2 + 1) ∧
              (t.d.die die).encke = ks.set idx { k with stage := 1, pa := pa, desc := n }))) ∧
    (1 ≤ k.stage →
      let d := SeqDesc.of k.desc
      let now := fun (k' : EnckeCmd) => ∃ t, exec e s = .next t ∧ t.mem = s.mem ∧ t.w = s.w ∧ t.d.die die =
        { s.d.die die with encke := ks.set idx k' }
      let ends := fun (s0 : State) (status : Nat) => ∀ t, s0.homeBusy k false = some t →
        exec e s = .next ((t.putCmd die idx none).endCmd die k status)
      let wrote := fun (va n x : Nat) (k' : EnckeCmd) =>
        c.needsPage 256 va = false → c.hostBarred va (k.addr va) = false → s.NoSplit (k.addr va) n →
          ∃ t, exec e s = .next t ∧ t.w = s.w ∧ Stored s.mem t.mem (k.addr va) n x ∧ (t.d.die die).encke = ks.set idx k'
      let n := pick % (k.left.length + k.writes.length)
      let m := firstWr k.writes (n - k.left.length)
      let moved := fun (j src dst : Nat) => s.mem.marked (k.addr src) 64 = false → now { k with
        left := k.left.eraseIdx j
        writes := k.writes ++ [{ va := dst, bytes := s.mem.bytes (k.addr src) 64, bad := false }] }
      (k.stage = 1 →
        ((∃ o, o ∈ s.d.ops ∧ o.seqAt = k.pa) → exec e s = .next s) ∧
        ((∀ o, o ∈ s.d.ops → o.seqAt ≠ k.pa) →
          let pages := s.livePages k.ctx d
          (∀ m, s.rangeMiss k.ctx d.plist (16 * d.npages) false = some m → ends (missed m) 4) ∧
          (s.rangeMiss k.ctx d.plist (16 * d.npages) false = none →
            ((∃ p, p ∈ pages ∧ (pageOk p.1 && pageOk p.2) = false) → ends (s.note rejected) 1) ∧
            ((∀ p, p ∈ pages → pageOk p.1 = true ∧ pageOk p.2 = true) →
              (∀ m, s.evictMiss k.ctx k.seqVa d pages = some m → ends (missed m) 4) ∧
              (s.evictMiss k.ctx k.seqVa d pages = none → now { k with
                stage := 2, pages := pages, xlat := s.enckeXlat k.ctx (evictRanges k.seqVa d pages)
                left := (List.range d.length).flatMap fun i => [(i, 0), (i, 1)] }))))) ∧
      (k.stage = 2 →
        (∀ i, n < k.left.length → k.left[n]? = some (i, 0) →
          let va := massVa d k.pages i
          let v := s.mem.nat (k.addr va) 4 / 2 ^ k.shift
          s.mem.marked (k.addr va) 4 = false → now { k with
            left := k.left.eraseIdx n, mass := k.mass.put i v, writes := k.writes ++ [{ va := va, bytes := bytesLE 4 v, bad := false }] }) ∧
        (∀ i, n < k.left.length → k.left[n]? = some (i, 1) →
          let va := posVa d k.pages i
          s.mem.marked (k.addr va) 4 = false → now { k with
            left := k.left.eraseIdx n, pos := k.pos.put i (s.mem.nat (k.addr va) 4) }) ∧
        (∀ w, k.left ≠ [] ∨ k.badPos ≠ [] → k.left.length ≤ n → k.writes[m]? = some w →
          wrote w.va w.bytes.length (ofBytesLE w.bytes) { k with writes := k.writes.eraseIdx m }) ∧
        (k.left = [] → k.badPos = [] → now { k with stage := 3, left := k.rowMoves d, writes := k.writes ++ k.words d }) ∧
        (k.left = [] → k.badPos ≠ [] → k.writes = [] → ends s 6)) ∧
      (k.stage = 3 →
        (∀ src dst, n < k.left.length → k.left[n]? = some (src, dst) → moved n src dst) ∧
        (∀ w, k.left.length ≤ n → k.writes[m]? = some w →
          let met := fun (x : Nat × Nat) => decide (x.1 < w.va + w.bytes.length) && decide (w.va < x.1 + 64)
          (∀ j src dst, k.left.findIdx? met = some j → k.left[j]? = some (src, dst) → moved j src dst) ∧
          (k.left.findIdx? met = none →
            wrote w.va w.bytes.length (ofBytesLE w.bytes) { k with writes := k.writes.eraseIdx m })) ∧
        (k.left = [] → k.writes = [] → wrote (k.seqVa + 36) 4 (d.evcnt + 1) { k with stage := 4 })) ∧
      (4 ≤ k.stage → ends s 0))) ∧
  (∀ (len budget sinks window : Nat) (mass pos : Nat → Nat), sinks + window ≤ budget →
    let keep := survivors len budget sinks window mass pos
    let ranks := fun i j => mass j < mass i ∨ (mass i = mass j ∧ (pos i < pos j ∨ (pos i = pos j ∧ i < j)))
    keep.Pairwise (fun i j => i < j) ∧ keep.length = min len budget ∧ (∀ i, i ∈ keep → i < len) ∧
    (∀ i, i < len → (i < sinks ∨ len - window ≤ i) → i ∈ keep) ∧
    ∀ i j, i ∈ keep → sinks ≤ i → i < len - window → j < len → j ∉ keep → ranks i j)

/-- R276, R312, R318 to R322: a host's launch enters the queue of its context, which holds 16, or is turned away with status
8 or 9; the context manager takes the oldest launch, rejects it with its status or makes its task and sends its first
tokens; a gang is placed with three tokens for each thread, or stays in its queue with no frame where a page is lacking for a
word it writes; a task with nothing left completes: DONECNT, its record, its token, and its index free again.
Where the manual leaves a point open, the reading is the model's: log entries 41, 74, 75, 92 and 96. -/
def Obligations.TaskUnit : Prop :=
  ∀ (s : State) (c : Nat),
  let k := s.d.ctx c
  let others := fun (t : State) => ∀ n, n ≠ c → t.d.ctx n = s.d.ctx n
  (∀ addr : BitVec 64, s.d.hostDown = false → c < 64 →
    ∃ t, exec (.launch c addr) s = .next t ∧ t.mem = s.mem ∧ t.w = s.w ∧ t.d = { s.d with ctxs := t.d.ctxs } ∧ others t ∧
      t.d.ctx c =
        if k.state = .free ∨ k.state = .ending ∨ s.d.launchable = false then { k with lstat := 8, lidx := 0 }
        else if 16 ≤ k.launches.length then { k with lstat := 9, lidx := 0 }
        else { k with launches := k.launches ++ [addr.toNat] }) ∧
  (∀ (a : Nat) (rest : List Nat), k.launches = a :: rest → k.state ≠ .swapped → k.state ≠ .suspended →
    let s1 := s.mapCtx c fun x => { x with launches := rest }
    (∀ n, n ≠ 0 → s1.checkLaunch c a = .inl n →
      ∃ t, exec (.launchProcessing c) s = .next t ∧ t.mem = s.mem ∧ t.w = s.w ∧ t.d = { s.d with ctxs := t.d.ctxs } ∧
        others t ∧ t.d.ctx c = { k with launches := rest, lstat := n, lidx := 0 }) ∧
    (∀ (d : TDesc) (k1 : Ctx) (i : Nat), s1.checkLaunch c a = .inr (d, k1, i) → k.state = .active → d.gsize = 0 →
      s.d.devnum < 4096 → (∀ g, (s.d.core g).offline = false) →
      let src : Source := { core := d.hcore, place := 0, at_ := d.hcore, fr := nullHandle, frTag := 0, clause := none, parent := none }
      let t1 : State := ({ s1 with d := s1.d.setCtx c { k1 with tasks := k1.tasks.put i (d.task src) } } : State).forgetCode c 0 0
      ∀ (va : Nat) (h : Header) (ofs : Nat), t1.blockAt c i d.entry = some (va, h) → t1.d.fitsOn c h.fsize d.hcore = some ofs →
        ∃ t, exec (.launchProcessing c) s = .next t ∧ (k.heatbuf = 0 ∨ (s.d.share c d.hcore).holds = true → t.mem = s.mem) ∧
          t.w = { s.w with block := t.w.block } ∧ others t ∧
          (let y := t.d.ctx c
           y.lstat = 0 ∧ y.lidx = i ∧ y.lcount = (k1.lcount + 1) % 2 ^ 32 ∧ y.hostLaunches = k1.hostLaunches + 1 ∧ y.launches = rest ∧
             y.tasks.find i = some (d.task src) ∧ ∀ j, j ≠ i → y.tasks.find j = k1.tasks.find j) ∧
          (t.d.share c d.hcore).frames.find ofs =
            some (Frame.fresh .live i h.fsize (fidRoot k.hostLaunches 0).1 (fidRoot k.hostLaunches 0).2) ∧
          Posted ((s1.firstToks c d src).map fun y => t.itemOf 0 0 (Token.toFrame y d.hcore ofs)) managerSender
            ((s1.firstToks c d src).map fun _ => []) s t) ∧
    (∀ (d : TDesc) (k1 : Ctx) (i : Nat), s1.checkLaunch c a = .inr (d, k1, i) → k.state = .idle →
      ∃ t, exec (.launchProcessing c) s = .next t ∧
        let y := t.d.ctx c
        y.det = d.det ∧ y.mode = d.mode ∧ y.frameg = d.frameg ∧ y.scrg = d.scrg ∧ y.grouptab = d.grouptab ∧
          y.recptr = d.recbuf ∧ y.reclim = d.reclim ∧ y.prio = d.prio ∧ y.fmode = fmodeStore d.fmode ∧ y.srseed = d.srseed ∧
          (∀ n, n < 8 → y.fd.getD n fdDefault = if d.fd n = 0 then fdDefault else d.fd n) ∧ y.lstat = 0 ∧ y.lidx = i)) ∧
  (∀ (die idx : Nat) (e : GangEnt) (cores : List Nat) (u : State), (s.d.die die).gangs[idx]? = some e →
    (s.d.ctx e.ctx).state = .active → s.gangHeaders e = true → e.coresOk die cores = true → s.gangNext die e cores = true →
    s.placeGang e cores = some u → s.d.devnum < 4096 → (∀ g, (s.d.core g).offline = false) → 0 < e.gcores → e.gsize % e.gcores = 0 →
    let gen := ((s.d.ctx e.ctx).ganggen + 1) % 128
    exec (.gangPlacement die idx cores) s = .next u ∧ u.w = s.w ∧
    ((∃ y, y ∈ (u.d.die die).gangs ∧ y.seqno = e.seqno) →
      (e.held ≠ 0 → u = s) ∧ ∀ n g, (u.d.share n g).frames = (s.d.share n g).frames ∧ (u.d.share n g).windows = (s.d.share n g).windows) ∧
    ((∀ y, y ∈ (u.d.die die).gangs → y.seqno ≠ e.seqno) → (u.d.ctx e.ctx).ganggen = gen ∧
    ∃ (fs : List (Nat × Nat)) (retire : Nat), fs.length = e.gsize ∧ fs.map Prod.fst = (cores.flatMap fun g => List.replicate (e.gsize / e.gcores) g) ∧
      (∀ p, p ∈ fs → ∃ f, (u.d.share e.ctx p.1).frames.find p.2 = some f ∧ f.state = .live ∧ f.task = e.task) ∧
      (∀ g, g ∈ cores → ∃ w, w ∈ (u.d.share e.ctx g).windows ∧ w.gen = gen ∧ w.cores = cores ∧ w.retire = retire ∧
        w.retireCore = cores.headD 0 ∧ w.retireBlk = e.retire ∧ w.task = e.task ∧ w.size = e.gwin * 65536) ∧
      Posted ((fs.zipIdx.flatMap fun p =>
          let tok := fun (slot : Nat) (v : Word) => mkToken s.d.devnum p.1.1 0 p.1.2 slot {} e.ctx e.entry (e.tbase + BitVec.ofNat 32 p.2) v
          [tok 0 (BitVec.ofNat 32 p.2), tok 1 (gangWord (p.2 / (e.gsize / e.gcores)) gen e.gcores),
            tok 2 (handleOf (cores.headD 0) retire)]).map fun y => u.itemOf 0 0 y) managerSender
        (List.replicate (3 * e.gsize) []) s u)) ∧
  (∀ (i : Nat) (t : Task), k.tasks.find i = some t → t.done = false → k.state ≠ .ending → s.d.taskBusy c i = false →
    t.fr = nullHandle → s.writeCrec c i t ≠ none →
    ∃ u, exec (.taskCompletion c i) s = .next u ∧ u.w = s.w ∧ others u ∧
      (u.d.ctx c).donecnt = (k.donecnt + 1) % 2 ^ 32 ∧
      (t.crec = 0 → u.mem = s.mem) ∧
      (t.crec ≠ 0 → t.crec % 4096 + 8 ≤ 4096 →
        (s.engineAddr c t.crec true = none → u.mem = s.mem) ∧
        ∀ pa, s.engineAddr c t.crec true = some pa →
          (k.hostBarred t.crec pa = true → u.mem = s.mem) ∧
          (k.hostBarred t.crec pa = false → k.needsPage i t.crec = false → s.NoSplit (s.locate c i t.crec pa) 8 →
            Stored s.mem u.mem (s.locate c i t.crec pa) 8 (i % 2 ^ 32 * 2 ^ 32))) ∧
      (t.child = none → (∀ j, (u.d.ctx c).tasks.find j = if j = i then none else k.tasks.find j) ∧
        ((u.d.ctx c).state = if k.tasks.del i = [] ∧ k.state = .active then .idle else k.state) ∧
        (k.tasks.del i = [] → k.state = .active → (u.d.ctx c).swapout = false)) ∧
      ∀ q, t.child = some q → (u.d.ctx c).state = k.state ∧ ∃ t2, (u.d.ctx c).tasks.find i = some t2 ∧ t2 = { t with done := true, doneSeq := t2.doneSeq }) ∧
  (∀ (i : Nat) (t : Task), k.tasks.find i = some t → t.done = false → k.state ≠ .ending → s.d.taskBusy c i = false →
    t.fr ≠ nullHandle → s.writeCrec c i t ≠ none → s.d.devnum < 4096 → (∀ g, (s.d.core g).offline = false) →
    ∃ u, exec (.taskCompletion c i) s = .next u ∧ u.w = s.w ∧ (u.d.ctx c).donecnt = (k.donecnt + 1) % 2 ^ 32 ∧
      Posted [s.itemOf 0 0 (tokenTo s.d.devnum t.fr 0 0 { control := true } c t.cblk t.frTag 0)] managerSender [[]] s u)

/-- R348 to R352: a child whose turn has come is merged and gone, and one CONTROL token with the number of its conflicts
goes to its join frame; a granule's merge writes, in the parent's view, the merged value of each element that the child
changed, and no other byte; the value is the child's where the parent did not change the element, and the one of the table
of R350 where both did; a page that does not translate parks the merge until a resume names it.
Where the manual leaves a point open, the reading is the model's: log entries 16 and 56. -/
def Obligations.ChildMerge : Prop :=
  (∀ (s : State) (c q : Nat) (t : Task) (k : Child) (r : Revision),
    let x := s.d.ctx c
    x.tasks.find q = some t → t.child = some k → x.state ≠ .free → x.mayJoin q = true → s.d.joinBehind c q t k = false →
    x.revs.find q = some r →
    (r.stuck ≠ none → exec (.charonMerge c q) s = .next s) ∧
    (r.stuck = none → x.mergeJobs q = [] → s.d.devnum < 4096 → (∀ g, (s.d.core g).offline = false) →
      ∃ u, exec (.charonMerge c q) s = .next u ∧ u.mem = s.mem ∧ u.w = s.w ∧
        (∀ j, (u.d.ctx c).revs.find j = if j = q then none else x.revs.find j) ∧
        (∀ j, (u.d.ctx c).tasks.find j = if j = q then none else x.tasks.find j) ∧
        Posted [s.itemOf 0 0 (tokenTo s.d.devnum k.fr k.cclass 0 { control := true } c k.blk k.tg
          (BitVec.ofNat 32 (min r.count 0xFFFFFEFF)))] (charonSender (handleCore k.fr / 32)) [[]] s u) ∧
    (∀ (idx : Nat) (y : Region) (g : Nat) (rest : List (Nat × Region × Nat)), x.mergeJobs q = (idx, y, g) :: rest →
      s.walk c (g * 4096) = none → r.stuck = none →
      let die := handleCore k.fr / 32
      let gen := (r.gen + 1) % 64
      ∃ u, exec (.charonMerge c q) s = .next u ∧ u.w = s.w ∧ (u.d.ctx c).tasks.find q = some t ∧
        (u.d.ctx c).revs.find q = some { r with stuck := some (g * 4096), gen := gen } ∧
        u.mem = (s.note { FaultRec.engine 0x20 1 c (die * 32) with
          parked := true, address := g * 4096, d0 := 1, resid := resid 0 c (die * 32) q gen }).mem)) ∧
  (∀ (s : State) (c p q idx gran pa die : Nat) (r : Region) (rev : Revision), pa % 4096 = 0 → r.merge ≠ 6 →
    let x := s.d.ctx c
    let n := regionSize r.ty
    let cAt := (rev.own.find gran).getD pa
    let aAt := (x.ancPage (gran * 4096) 16 q).getD pa
    x.revs.find q = some rev → x.revs.find p = none → p ≠ q →
    (∀ o, o < 4096 → (x.dropGranule q gran).sharers none (gran * 4096 + o) = []) →
    (∀ o, o < 4096 → s.mem.marked (pa + o) 1 = false ∧ s.mem.marked (cAt + o) 1 = false ∧ s.mem.marked (aAt + o) 1 = false) →
    cAt % 4096 = 0 → aAt % 4096 = 0 → s.NoSplit pa 4096 → (∀ o, o < 4096 → x.hostBarred (gran * 4096 + o) (pa + o) = false) →
    let u := s.mergeGranule c p q idx gran pa die r
    (∀ b, b < pa ∨ pa + 4096 ≤ b → u.mem.byte b = s.mem.byte b) ∧
    (∀ o, o < 4096 →
      let e := o / n * n
      let elem := mergeElem r.merge r.ty (s.mem.nat (pa + e) n) (s.mem.nat (cAt + e) n) (s.mem.nat (aAt + e) n)
      u.mem.byte (pa + o) =
        match (if (rev.dirty.getD gran 0).getLsbD (o / 32) then elem else none) with
        | some v => BitVec.ofNat 8 (v.1 / 2 ^ (8 * (o % n)))
        | none => s.mem.byte (pa + o)) ∧
    (u.d.ctx c).rootGran.getD idx 0 = satNat 32 (x.rootGran.getD idx 0 + 1)) ∧
  (∀ code ty pv c a : Nat, ty < 8 →
    let w := 8 * regionSize ty
    pv < 2 ^ w → c < 2 ^ w → a < 2 ^ w →
    mergeElem code ty pv c a =
      if c = a ∨ code = 7 then none
      else if pv = a ∨ pv = c then some (c, false)
      else some (
        if code = 0 then c
        else if code = 1 ∨ code = 6 then pv
        else if code = 2 ∧ ty < 4 then (BitVec.ofNat w pv + BitVec.ofNat w c - BitVec.ofNat w a).toNat
        else if code = 3 ∧ ty < 4 then (if (BitVec.ofNat w pv).toInt < (BitVec.ofNat w c).toInt then c else pv)
        else if code = 4 ∧ ty < 4 then (if (BitVec.ofNat w c).toInt < (BitVec.ofNat w pv).toInt then c else pv)
        else if code = 5 then ((BitVec.ofNat w pv &&& BitVec.ofNat w c) |||
          ((BitVec.ofNat w pv ||| BitVec.ofNat w c) &&& ~~~ BitVec.ofNat w a)).toNat
        else resolveMerge code ty pv c a, true))

/-- R312 to R315, R323 to R327, R390, R391: configuring a context, swapping it out and in, ending, continuing and freeing
it; a core's choice among its waiters and the holder that yields; quanta; the halt, the cut and the restore of a share; the
discard of an ending context; the watchdog.
Where the manual leaves a point open, the reading is the model's: log entries 21, 23, 24, 26, 29, 44, 87 and 98. -/
def Obligations.Contexts : Prop :=
  ∀ (s : State) (c : Nat), c < 64 →
  let k := s.d.ctx c
  let others := fun (t : State) => ∀ n, n ≠ c → t.d.ctx n = s.d.ctx n
  let only := fun (t : State) (k' : Ctx) => t.mem = s.mem ∧ t.w = s.w ∧ t.d = { s.d with ctxs := t.d.ctxs } ∧ others t ∧ t.d.ctx c = k'
  let emptied := fun (t : State) => (t.d.ctx c).tasks = [] ∧ (t.d.ctx c).revs = [] ∧ (t.d.ctx c).launches = [] ∧
    (t.d.ctx c).collided = [] ∧ (t.d.ctx c).spill = [] ∧ (t.d.ctx c).donecnt = k.donecnt ∧
    (∀ w, w ∈ t.allWarps → w.ctx ≠ c) ∧ (∀ o, o ∈ t.d.ops → o.ctx ≠ c) ∧ (∀ o, o ∈ t.d.loops → o.ctx ≠ c) ∧
    (∀ g, g < 256 → (t.d.share c g).frames = [] ∧ (t.d.share c g).queues = [] ∧ (t.d.share c g).mx.owned = false ∧
      t.d.tlb.find (g * 64 + c) = none) ∧
    (∀ j e, e ∈ (t.d.die j).spawn → e.ctx ≠ c) ∧ (∀ j e, e ∈ (t.d.die j).gangs → e.ctx ≠ c) ∧
    ∀ j e, e ∈ (t.d.die j).encke → e.ctx = c → e.orphan = true
  (s.d.hostDown = false → ∀ addr : BitVec 64,
    let a := addr.toNat
    let x : Cfg := { bytes := s.mem.bytes a 64 }
    let refused := fun (n : Nat) => ∃ t, exec (.ccfg c addr) s = .next t ∧ only t { k with cfgstat := n }
    (k.state ≠ .free → k.state ≠ .suspended → refused 3) ∧
    (k.state = .free → s.d.launchable = true → s.d.needsReset = false →
      (a % 64 ≠ 0 ∨ x.fieldsOk = false → refused 1) ∧
      (a % 64 = 0 → isDevice a = true ∨ isHost a = true → s.mem.marked a 64 = false → x.fieldsOk = true → s.ringsOk c x = true →
        (x.supv = true → (∃ p, p ∈ s.d.ctxs ∧ p.1 ≠ c ∧ p.2.supv = true ∧ p.2.state ≠ .free) → refused 2) ∧
        (x.supv = false ∨ (∀ p, p ∈ s.d.ctxs → p.1 ≠ c → p.2.supv = false ∨ p.2.state = .free) →
          ∃ t, exec (.ccfg c addr) s = .next t ∧ only t { k.fresh.configure x with paths := s.d.bindPaths } ∧
            (t.d.ctx c).state = .idle ∧ (t.d.ctx c).cfgstat = 0 ∧ (t.d.ctx c).donecnt = k.donecnt)))) ∧
  (s.d.hostDown = false → k.state = .active → k.swapout = false → ∃ t, exec (.swapout c) s = .next t ∧ t.mem = s.mem ∧ t.w = s.w ∧
    others t ∧
    (∀ g x, g < 256 → s.d.shares.find (shareKey c g) = some x →
      t.d.share c g = if x.slot.isSome && !x.saved then { x with request := true } else x) ∧
    t.d.ctx c = if s.d.shares.all (fun p => p.1 / 256 ≠ c || !p.2.toCut) then { k with state := .swapped } else { k with swapout := true }) ∧
  (s.d.hostDown = false → k.state = .swapped → ∃ t, exec (.swapin c) s = .next t ∧ t.mem = s.mem ∧ t.w = s.w ∧ others t ∧
    t.d.ctx c = { k with state := .active, paths := s.d.bindPaths }) ∧
  (s.d.hostDown = false → k.state ≠ .free → k.state ≠ .ending → ∃ t, exec (.contextEnd c) s = .next t ∧
    t.w = (if k.state = .idle ∧ s.w.live = true ∧ s.w.ctx = c then Warp.absent else s.w) ∧
    (t.d.ctx c).state = (if k.state = .idle then .free else .ending) ∧
    (k.state = .idle → emptied t ∧ (t.d.ctx c).pool = []) ∧
    t.mem = (s.note { FaultRec.engine 0x32 5 c 0 with blk := 0, fatal := true, d0 := 1 }).mem) ∧
  (s.d.hostDown = false → k.state = .suspended → k.heldColl = [] → s.d.queuedAt c 2 = [] →
    (k.heldSpill = [] → ∃ t, exec (.contextContinue c) s = .next t ∧ t.mem = s.mem ∧ t.w = s.w ∧ others t ∧
      t.d.ctx c = { k with state := .active, swapout := false, ringDown := false }) ∧
    ∀ (z : Spilled) (pa : Nat), k.heldSpill = [z] → z.item.tok.ctx = c → k.spill.length < 2 ^ k.slog →
      let n := freeSeq (2 ^ k.slog) (k.spill.map Spilled.seqno) k.spill.length k.spillSeq
      s.engineAddr c (k.sring + 32 * (n % 2 ^ k.slog)) true = some pa → s.NoSplit pa 32 →
      (∀ e, e ∈ k.spill → e.seqno % 2 ^ k.slog ≠ n % 2 ^ k.slog) ∧
      ∃ t, exec (.contextContinue c) s = .next t ∧ t.w = s.w ∧ others t ∧
        (∀ b, b < pa ∨ pa + 32 ≤ b → t.mem.byte b = s.mem.byte b) ∧
        t.d.ctx c = { k with
          state := .active, swapout := false, ringDown := false, heldSpill := [], spillSeq := n + 1
          spill := k.spill ++ [{ seqno := n, circuit := z.circuit, item := z.item }] }) ∧
  (s.d.hostDown = false → k.state = .idle → ∃ t, exec (.contextFree c) s = .next t ∧ t.mem = s.mem ∧ others t ∧
    (t.d.ctx c).state = .free ∧ (t.d.ctx c).pool = [] ∧ emptied t) ∧
  (k.state = .ending → s.commandsDue c = true → exec (.contextDiscardComplete c) s = .next s) ∧
  (k.state = .ending → s.commandsDue c = false →
    ∃ t, exec (.contextDiscardComplete c) s = .next t ∧ t.mem = s.mem ∧ others t ∧ (t.d.ctx c).state = .idle ∧ emptied t ∧
      ∀ g, g < 256 → (t.d.share c g).slot = none) ∧
  (∀ g, s.chosenWaiter g = some c →
    s.isWaiter c g = true ∧ (∀ n, n < 64 → s.isWaiter n g = true → n ≠ c → s.d.effPrio n g < s.d.effPrio c g ∨
      (s.d.effPrio n g = s.d.effPrio c g ∧ (s.d.share c g).waitSince ≤ (s.d.share n g).waitSince)) ∧
    ((s.d.share c g).holds = false → s.d.freeSlot c g ≠ none →
      ∃ t, exec (.slotChoice g) s = .next t ∧ t.mem = s.mem ∧ t.w = s.w ∧ t.d = { s.d with cores := t.d.cores } ∧
        t.d.core g = { s.d.core g with grant := some c }) ∧
    (∀ h, (s.d.share c g).holds = false → s.d.freeSlot c g = none → (∀ p, p ∈ s.d.holders g → p.2.request = false) →
      s.victim c g = some h →
      (s.d.ctx h).prio < s.d.effPrio c g ∨ ((s.d.ctx h).prio = s.d.effPrio c g ∧ (s.d.share h g).heldQuantum = true) →
      ∃ t, exec (.slotChoice g) s = .next t ∧ t.mem = s.mem ∧ t.w = s.w ∧
        t.d.share h g = { s.d.share h g with request := true } ∧ (t.d.core g).grant = some c)) ∧
  (∀ g, let x := s.d.share c g
    let waits := s.isWaiter c g && decide (x.waitSince + (x.waitQuanta + 1) * (k.quant * 1024) ≤ (s.d.core g).clk)
    let held := x.holds && decide (x.slotSince + k.quant * 1024 ≤ (s.d.core g).clk)
    ∃ t, exec (.quantumExpiry c g) s = .next t ∧ t.mem = s.mem ∧ t.w = s.w ∧ t.d = { s.d with shares := t.d.shares } ∧
      t.d.share c g = { x with waitQuanta := if waits then x.waitQuanta + 1 else x.waitQuanta
                               heldQuantum := x.heldQuantum || held }) ∧
  (∀ g, let x := s.d.share c g
    x.request = true → x.halted = false → x.saved = false → k.state ≠ .ending →
    (∀ m, m ∈ x.mx.issued → m.kind.heavy = false) → (∀ o, o ∈ s.d.loops → o.ctx = c → o.core = g → o.heavy = false) →
    (∀ q y, x.copy q = some y → y.entry.heavyCopy = false) →
    ∃ t, exec (.preemptionHalt c g) s = .next t ∧ t.mem = s.mem ∧ t.w = s.w ∧ t.d = { s.d with shares := t.d.shares } ∧
      t.d.share c g = { x with halted := true }) ∧
  (∀ g, let x := s.d.share c g
    x.halted = true → x.saved = false → k.state = .active ∨ k.state = .suspended →
    (∀ o, o ∈ s.d.ops → ¬ (o.ctx = c ∧ o.core = g)) →
    (∃ t, exec (.imageCut c g) s = .next t ∧ (t.d.share c g).saved = true ∧ (t.d.share c g).slot = none ∧
      t.mem = (((s.haltHeavy c g).serveRecords c k.waiting.length).dropTlb c g).mem) ∧
    (k.waiting = [] → k.heatbuf = 0 ∨ s.d.tlb.getD (g * 64 + c) [] = [] →
    ∃ t, exec (.imageCut c g) s = .next t ∧ t.mem = s.mem ∧ t.w = { s.w with block := t.w.block } ∧
      (let y := t.d.share c g
       y.slot = none ∧ y.saved = true ∧ y.request = false ∧ y.frames = x.frames ∧ y.words = x.words ∧
         (∀ q, q ≠ .qsi → q ≠ .qso → y.queue q = x.queue q) ∧ y.queue .qso = [] ∧
         y.queue .qsi = (x.queue .qsi).filter (fun e => e.sel < 3) ∧
         y.vbins = agedBins (s.d.core g).clk x.vbins ∧ y.sbins = agedBins (s.d.core g).clk x.sbins ∧
         y.park = x.park ∧ y.sel = x.sel ∧ y.image = s.imageCells c g ∧ y.mx.owned = false ∧
         y.mx.due = (x.mx.owned || x.mx.due)) ∧
      t.d.tlb.find (g * 64 + c) = none ∧
      (k.swapout = false → t.d.ctx c = k))) ∧
  (∀ g n, let x := s.d.share c g
    x.saved = true → k.state = .active → k.swapout = false → (s.d.core g).offline = false → s.d.keptFor c g = false →
    s.chosenWaiter g = some c →
    (x.image ≠ s.imageCells c g → exec (.shareRestore c g) s = .next (s.endCtx c 0x32 7 g)) ∧
    (x.image = s.imageCells c g → x.imageMarks = s.imageMarks c g → 8192 < s.d.poolUsed g + x.descs →
      exec (.shareRestore c g) s = .next s) ∧
    (x.image = s.imageCells c g → x.imageMarks = s.imageMarks c g → s.d.poolUsed g + x.descs ≤ 8192 → s.d.freeSlot c g = some n → (∀ e, e ∈ k.spill → e.item.tok.dest ≠ g) →
      (∀ p, p ∈ x.park → p.2.held = none) → (∀ m, m ∈ x.mx.issued → m.leave ≠ 3) →
      (∀ o, o ∈ s.d.loops → o.leave ≠ 3) → (∀ q y, x.copy q = some y → y.leave ≠ 3) →
      ∃ t, exec (.shareRestore c g) s = .next t ∧ t.mem = s.mem ∧
        (let y := t.d.share c g
         y.slot = some n ∧ y.saved = false ∧ y.halted = false ∧ y.frames = x.frames ∧ y.words = x.words ∧ y.queues = x.queues ∧
           y.vbins = agedBins (s.d.core g).clk x.vbins ∧ y.sbins = agedBins (s.d.core g).clk x.sbins ∧
           y.park = x.park ∧ y.sel = x.sel ∧ y.mx.issued = x.mx.issued ∧
           y.mx.owned = (x.mx.owned || (x.mx.due && (s.engineOwner g).isNone))) ∧
        ∀ w r, w ∈ t.d.warps → w.live = true → w.ctx = c → w.core = g → r ∈ w.t → r.2.state ≠ .bound)) ∧
  (∀ g, k.state = .active → k.swapout = false → (s.d.share c g).saved = false → (∀ e, e ∈ k.spill → e.item.tok.dest ≠ g) →
    exec (.shareRestore c g) s = .next s) ∧
  (∀ g, s.d.wdoglim ≠ 0 → (s.d.share c g).holds = true → s.d.wdoglim * 2 ^ 20 ≤ (s.d.share c g).watch →
    k.state = .active → ∃ t, exec (.watchdogExpiry c g) s = .next t ∧ t.w = s.w ∧ (t.d.ctx c).state = .ending)

/-- R53, R260, R266, R268, R269, R333, R334, R337, R338, R344 to R346, R387, R400, R415, R417: the host's resumes of parked
warps, engines and queues; a record that waited for room in its ring; invalidation, whose end finds no translation of the
range held, and no command of Encke that goes on with one; the pool of a context; the host's accesses to memory, at once or held for a page; writes of BAR0 registers and of
counter selections; page heat; lines that leave a cache. Which cores drop translations early is the model's free choice
(log entry 18).
Where the manual leaves a point open, the reading is the model's: log entries 18, 28, 31, 38, 39, 40, 41, 42, 45 and 70. -/
def Obligations.HostPort : Prop :=
  ∀ s : State,
  (∀ (val : BitVec 64) (p : Park), s.d.hostDown = false →
    let id : Word := val.setWidth 32
    let c := ridCtx id
    let g := ridCore id
    let n := ridIdx id
    let went := fun (kind : Nat) (t : State) => exec (.resume c val) s = .next t ∧ t.mem = s.mem ∧
      (t.d.share c g).park.find (parkKey kind n) = some { p with used := false, held := none }
    (∀ k, k < 64 → k ≠ c ∨ (ridKind id ≠ 0 ∧ s.parkNamed id = none) ∨ (ridKind id = 0 ∧ s.resumeMerge id = none) → ∃ t, exec (.resume k val) s = .next t ∧ t.mem = s.mem ∧ t.w = s.w ∧
      t.d = { s.d with ctxs := t.d.ctxs } ∧ t.d.ctx k = { s.d.ctx k with igncnt := satNat 32 ((s.d.ctx k).igncnt + 1) }) ∧
    (s.parkNamed id = some p → (s.d.share c g).saved = false → (s.d.share c g).halted = false →
      (ridKind id = 1 → s.d.loopParked p.uid n = true → ∃ t, went 1 t ∧ t.w = s.w ∧
        t.d.loops = s.d.loops.map fun o =>
          if o.uid = p.uid ∧ o.parked = some n then { o with parked := none, lanes := o.lanes.map fun y => { y with stuck := false } } else o) ∧
      (∀ (w : Warp) (o : MemOp) (x : MemW), ridKind id = 1 → s.d.loopParked p.uid n = false → s.d.opParked p.uid n = none →
        s.warp p.uid = some w → w.live = true →
        s.d.ops.find? (fun y => y.uid = p.uid && y.parked.isNone && y.pieces.any fun q => !q.ok) = some o → o.word = .ldx x → o.ovf = none →
        (∀ q, q ∈ o.pieces → q.ok = false → 0 < q.size ∧ q.va < 2 ^ 64 ∧
          ∃ h, s.hit w.core w.ctx (.virt 0) q.va = some h ∧ h.r = true) →
        ∃ t o2, went 1 t ∧ t.warp p.uid = some { w.releaseCount with status := .running } ∧ o2 ∈ t.d.ops ∧ o2.id = o.id ∧
          o2.pieces.map Piece.va = o.pieces.map Piece.va ∧ ∀ q, q ∈ o2.pieces → q.ok = true) ∧
      (∀ w, ridKind id = 2 ∨ ridKind id = 3 → s.warp p.uid = some w → ∃ t, went (ridKind id) t ∧
        t.warp p.uid = some (if ridKind id = 3 then { w.putS p.sd ((val >>> 32).setWidth 32) with status := .running }
          else { w with status := .running })) ∧
      (∀ q, ridKind id = 4 → q = (if n = 0 then 0 else 1) → ∃ t, went 4 t ∧ t.w = s.w ∧
        (t.d.share c g).copy q = ((s.d.share c g).copy q).map fun k => { k with parked := none }) ∧
      (ridKind id = 5 → ∃ t, went 5 t ∧ t.w = s.w ∧
        (t.d.share c g).mx.issued = (s.d.share c g).mx.issued.map fun m => { m with parked := none })) ∧
    (s.parkNamed id = some p → (s.d.share c g).saved = true → ∃ t, exec (.resume c val) s = .next t ∧ t.w = s.w ∧
      (t.d.share c g).park.find (parkKey (ridKind id) n) = some { p with held := some (((val >>> 32).setWidth 32 : Word) ++ id) })) ∧
  (∀ (c : Nat) (k : WaitRec) (ws : List WaitRec), (s.d.ctx c).waiting = k :: ws → s.writerHere k = true → s.turnCome k = true → k.body.ctx = c →
    (s.writeRec k.body).2 ≠ .waits → k.uid = none →
    ∃ t, exec (.faultRingRoom c) s = .next t ∧ t.mem = (s.writeRec k.body).1.mem ∧ t.w = s.w ∧ (t.d.ctx c).waiting = ws) ∧
  (s.d.hostDown = false → s.d.inv.busy = false → s.d.invCtx < 64 → ∃ t, exec .invgo s = .next t ∧
    ((s.d.ctx s.d.invCtx).heatbuf = 0 → t.mem = s.mem) ∧
    (let x := t.d.inv
     x.ctx = s.d.invCtx ∧ x.va = s.d.invVa ∧ x.len = s.d.invLen ∧ x.number = (s.d.inv.number + 1) % 65536 ∧ x.busy = true ∧
       x.done = false) ∧
    ∀ g, Config.invLate s.d.free g = false →
      (∀ page e, (t.d.tlb.getD (g * 64 + s.d.invCtx) []).find page = some e → t.d.inv.meets (page * 65536) 65536 = false) ∧
      ∀ w n r, w ∈ t.d.warps → w.live = true → w.ctx = s.d.invCtx → w.core = g → (n, r) ∈ w.t → r.state = .bound →
        t.d.inv.meets r.vbase r.limit = false) ∧
  (s.d.hostDown = false → s.d.inv.busy = true → exec .invgo s = .next s) ∧
  (let x := s.d.inv
   let cmdWaits := ∃ die e, die ∈ s.d.dies ∧ e ∈ die.2.encke ∧ e.entry.id ∈ x.waitCmds
   let opWaits := fun (o : MemOp) => x.holds o = true ∧ (o.id ∈ x.waitOps ∨ Config.invLate x.late o.core = true)
   (cmdWaits ∨ (∃ o, o ∈ s.d.ops ∧ opWaits o) → exec .invalidationDone s = .next s) ∧
   (x.busy = true → x.ctx < 64 → ¬ cmdWaits → (∀ o, o ∈ s.d.ops → ¬ opWaits o) → ∃ t, exec .invalidationDone s = .next t ∧
    ((s.d.ctx x.ctx).heatbuf = 0 → t.mem = s.mem) ∧
    t.d.inv = { x with busy := false, done := true, waitOps := [], waitCmds := [] } ∧
    ∀ g, Config.invLate x.late g = true →
      ∀ page e, (t.d.tlb.getD (g * 64 + x.ctx) []).find page = some e → x.meets (page * 65536) 65536 = false)) ∧
  (∀ (c : Nat) (val : BitVec 64), s.d.hostDown = false → c < 64 →
    let k := s.d.ctx c
    let pa := val.toNat / 65536 % 2 ^ 36 * 65536
    let n := (val.toNat % 65536 + 1) * 16
    ∃ t, exec (.rpadd c val) s = .next t ∧ t.mem = s.mem ∧ t.w = s.w ∧ t.d = { s.d with ctxs := t.d.ctxs } ∧
      (∀ j, j ≠ c → t.d.ctx j = s.d.ctx j) ∧
      t.d.ctx c =
        if k.state = .free ∨ k.state = .ending then { k with rpaddst := 2 }
        else if 0x10000000000 < pa + n * 4096 ∨ (∃ p, p ∈ k.pool ∧ pa < p.1 + p.2 * 4096 ∧ p.1 < pa + n * 4096) then
          { k with rpaddst := 1 }
        else { k with rpaddst := 0, pool := k.pool ++ [(pa, n)] }) ∧
  (∀ a : HostAcc, s.d.hostServed a = true → (∀ y, y ∈ granulesOf (hostRange a).1 (hostRange a).2 → s.hostNeeds y = []) →
    ∃ t, exec (.hostMemoryAccess a) s = .next t ∧ t.w = s.w ∧
      t.d = { s.d with hostRead := match a with
        | .read pa n hd => ofBytesLE (if s.isDirect pa hd && isDevice pa then s.mem.hbmBytes pa n else s.mem.bytes pa n)
        | .write _ _ _ _ => s.d.hostRead
        | .atomicAdd pa size _ => s.mem.nat pa size
        | .atomicXchg pa size _ => s.mem.nat pa size
        | .atomicCas pa size _ _ => s.mem.nat pa size } ∧
      match a with
      | .read _ _ _ => t.mem = s.mem
      | .write pa data hd _ =>
        if s.isDirect pa hd && isDevice pa then (∀ sec h, s.mem.hbm.find sec = some h → h.bytes.length = 32) →
          ∀ b, t.mem.hbmByte b = if pa ≤ b ∧ b < pa + data.length then data.getD (b - pa) 0 else s.mem.hbmByte b
        else ∀ b, t.mem.byte b = if pa ≤ b ∧ b < pa + data.length then data.getD (b - pa) 0 else s.mem.byte b
      | .atomicAdd pa size v => Stored s.mem t.mem pa size (s.mem.nat pa size + v)
      | .atomicXchg pa size v => Stored s.mem t.mem pa size v
      | .atomicCas pa size cmp v => if s.mem.nat pa size = cmp then Stored s.mem t.mem pa size v else t.mem = s.mem) ∧
  (∀ (pa : Nat) (hd : Bool), let maps := s.hdirectMaps pa
    (true ∉ maps → s.isDirect pa hd = false) ∧ (maps ≠ [] → false ∉ maps → s.isDirect pa hd = true) ∧
    (true ∈ maps → false ∈ maps → s.isDirect pa hd = hd)) ∧
  (∀ pa n hd, s.d.hostDown = false → s.d.bootState = 0 ∨ s.d.bootState = 2 → isDevice pa = true →
    exec (.hostMemoryAccess (.read pa n hd)) s = .next { s with d := { s.d with hostRead := 0 } }) ∧
  (∀ (a : HostAcc) (c : Nat), s.d.hostServed a = true → s.hostReady (granulesOf (hostRange a).1 (hostRange a).2) = .inr c →
    ∃ t, exec (.hostMemoryAccess a) s = .next t ∧ t.w = s.w ∧ t.d.held = s.d.held ++ [HeldWrite.mk c a] ∧
      (t.d.ctx c).rpparked = satNat 16 ((s.d.ctx c).rpparked + 1) ∧
      t.mem = (s.note { FaultRec.engine 0x20 1 c 0 with address := (hostRange a).1, d0 := 3 }).mem) ∧
  (∀ (i : Nat) (h : HeldWrite) (pa : Nat) (data : List Byte) (hd l2 : Bool) (u : State), s.d.held[i]? = some h →
    h.acc = .write pa data hd l2 → s.hostReady (granulesOf pa data.length) = .inl u → u.isDirect pa hd = false →
    ∃ t, exec (.heldHostWrite i) s = .next t ∧ t.d.held = u.d.held.eraseIdx i ∧
      ∀ b, t.mem.byte b = if pa ≤ b ∧ b < pa + data.length then data.getD (b - pa) 0 else u.mem.byte b) ∧
  (∀ (g n : Nat) (val : Word), s.d.hostDown = false → g < 256 → n < 8 →
    ∃ t, exec (.eventSelectionWrite (0x10000 + (8 * g + n) * 4) val) s = .next t ∧ t.mem = s.mem ∧ t.w = s.w ∧
      t.d = { s.d with cores := t.d.cores } ∧
      (∀ j, (t.d.core g).selections.getD j 0 = if j = n then val.toNat % 256 else (s.d.core g).selections.getD j 0) ∧
      ∀ j, (t.d.core g).counters.getD j 0 = if j = n then 0 else (s.d.core g).counters.getD j 0) ∧
  (∀ val : BitVec 64, s.d.hostDown = false →
    exec (.registerWrite 0x3000 4 val) s = .next { s with d := { s.d with wdoglim := val.toNat % 2 ^ 32 } } ∧
    exec (.registerWrite 0x2000 4 val) s = .next { s with d := { s.d with invCtx := val.toNat % 64 } } ∧
    exec (.registerWrite 0 4 val) s = .next s ∧ exec (.registerWrite 0x3002 4 val) s = .next s) ∧
  (∀ c, c < 64 →
    let k := s.d.ctx c
    let at_ := 0x1000000 + 0x1000 * c
    let code := match k.state with
      | .free => 0
      | .idle => 1
      | .active => 2
      | .swapped => 3
      | .suspended => 4
      | .ending => 5
    let lstat := k.lcount % 2 ^ 32 * 2 ^ 32 + k.lidx % 256 * 256 + k.lstat % 256
    s.d.regRead at_ 4 = some code ∧ s.d.regRead (at_ + 0x30) 4 = some (k.cfgstat % 256) ∧
    s.d.regRead (at_ + 0x38) 4 = some k.donecnt ∧ s.d.regRead (at_ + 0x40) 4 = some k.dropcnt ∧
    s.d.regRead (at_ + 0x48) 4 = some k.igncnt ∧ s.d.regRead (at_ + 0x18) 8 = some lstat ∧
    s.d.regRead (at_ + 0x18) 4 = some (lstat % 2 ^ 32) ∧ s.d.regRead (at_ + 0x1C) 4 = some (lstat / 2 ^ 32) ∧
    ∀ n, n = 0x08 ∨ n = 0x10 ∨ n = 0x20 → s.d.regRead (at_ + n) 8 = some 0) ∧
  (s.d.regRead 0 4 = some 0x00590008 ∧ s.d.regRead 4 4 = some 0 ∧ s.d.regRead 0x0008 4 = some (s.d.devnum % 4096) ∧
    s.d.regRead 0x3000 4 = some s.d.wdoglim ∧ s.d.regRead 0x6008 8 = some s.d.mbox.arg0 ∧
    s.d.regRead 0x600C 4 = some (s.d.mbox.arg0 / 2 ^ 32)) ∧
  (∀ (g c page : Nat) (e : TlbEnt) (x y : Word) (leaves : Bool) (pa : Nat), (s.d.tlb.getD (g * 64 + c) []).find page = some e →
    let k := s.d.ctx c
    let va := k.heatbuf + 16 * (k.heatpos % (k.heatn * 256))
    let window := k.heatwin * 65536
    let clk := (s.d.core g).clk
    let gone := fun (t : State) => (t.d.tlb.getD (g * 64 + c) []).find page = if leaves then none else some { e with since := clk }
    (leaves = false → ¬ e.since / window < clk / window → exec (.heatWindow g c page x y leaves) s = .next s) ∧
    (leaves = true ∨ e.since / window < clk / window →
    (k.heatbuf = 0 ∨ k.heatn = 0 → ∃ t, exec (.heatWindow g c page x y leaves) s = .next t ∧ t.mem = s.mem ∧ t.w = s.w ∧ gone t) ∧
    (k.heatbuf ≠ 0 → k.heatn ≠ 0 → s.engineAddr c va true = some pa →
      let head := page * 65536 / 2 ^ e.shift * 2 ^ e.shift + (if e.shift = 30 then 2 else if e.shift = 21 then 1 else 0)
      ∃ t, exec (.heatWindow g c page x y leaves) s = .next t ∧ t.w = s.w ∧ gone t ∧
        t.mem = (s.putMem pa (bytesLE 8 head ++ bytesLE 4 x.toNat ++ bytesLE 4 y.toNat)).mem ∧
        (t.d.ctx c).heatpos = (k.heatpos + 1) % (k.heatn * 256)))) ∧
  (∀ (g line : Nat) (bs : List Byte), (s.d.core g).l1.find line = some bs →
    ∃ t, exec (.l1LineDeparture g line) s = .next t ∧ t.mem = s.mem ∧ t.w = s.w ∧
      ∀ j, (t.d.core g).l1.find j = if j = line then none else (s.d.core g).l1.find j) ∧
  (∀ (sec : Nat), ∃ t, exec (.l2SectorWriteback sec) s = .next t ∧ t.w = s.w ∧ t.d = s.d ∧
    (∀ h, s.mem.hbm.find sec = some h → h.dirty = true → ∀ b, t.mem.byte b = s.mem.byte b ∧
      t.mem.hbmByte b = if b / 32 = sec then s.mem.byte b else s.mem.hbmByte b) ∧
    (s.mem.hbm.find sec = none → t.mem = s.mem))

/-- R253, R394, R404, R407 to R414: a mailbox command that Deimos has in hand is performed and leaves its status, which is
written with BUSY cleared and, where enabled, announced; SETPWR, SETSPLIT, SETDEV, SCRUB, SETMODE, ROUTES, FWSTAGE and FWACT
change what they name, under the checks R411 to R413 give; SENSORS, LOGREAD, LIFEREAD, RETIRED and ATTEST write their
buffers. What a report holds beyond the fields R414 gives is free (log entries 19 and 20).
Where the manual leaves a point open, the reading is the model's: log entries 19, 20, 32, 33, 34, 35, 37, 46 and 56. -/
def Obligations.MailboxCommands : Prop :=
  ∀ s : State, s.d.mbox.pending = true →
  let m := s.d.deimos
  let a := s.d.mbox.arg0
  let b := s.d.mbox.arg1
  let ran := fun (code : Nat) (i : Instr) (status : Nat) (mem : PMem) (d : Dev) =>
    s.d.mbox.cmd = code → exec i s = .next { s with mem := mem, d := { d with mbox := { s.d.mbox with pending := false, result := status } } }
  let wrote := fun (code : Nat) (i : Instr) (at_ : Nat) (bs : List Byte) (d : Dev) =>
    (at_ + bs.length ≤ 0x8000000000000 → s.NoSplit (0x8000000000000 + at_) bs.length → ran code i 0 (s.mem.write (0x8000000000000 + at_) bs) d) ∧
    (0x8000000000000 < at_ + bs.length → ran code i 1 s.mem (if code = 2 then s.d else d))
  let allFree := ∀ p, p ∈ s.d.ctxs → p.2.state = .free
  let mode := a = 1 ∨ a = 3 ∨ a = 4 ∨ a = 5
  wrote 0x01 .sensors a (m.samples.flatMap fun v => bytesLE 8 v) s.d ∧
  wrote 0x02 .logread a ((m.log.take b).flatMap fun e => (List.range 64).map (Config.logByte e))
    { s.d with deimos := { m with log := m.log.drop (m.log.take b).length } } ∧
  wrote 0x03 .liferead a (Config.lifeBytes m.histo ++ Config.publicKey ++ Config.certificate) s.d ∧
  wrote 0x04 .retired a (m.retired.flatMap fun f => bytesLE 8 (f * 65536)) s.d ∧
  (s.d.mbox.cmd = 0x05 → a / 65536 % 256 ≠ 0 → ∃ t, exec .setpwr s = .next t ∧ t.mem = s.mem ∧ t.w = s.w ∧ t.d.mbox.result = 0 ∧
    (∀ k, k < 8 → t.d.die k = { s.d.die k with
      budget := if m.thermal.getD k false = true then (s.d.die k).budget else a % 65536, ramp := a / 65536 % 256 }) ∧
    t.d.deimos = { m with ceiling := a % 65536 }) ∧
  (16 < a → ran 0x06 .setsplit 1 s.mem s.d) ∧ (a ≤ 16 → ¬ allFree → ran 0x06 .setsplit 2 s.mem s.d) ∧
  (a ≤ 16 → allFree → ran 0x06 .setsplit 0 s.mem { s.d with iw := a }) ∧
  (¬ allFree → ran 0x07 .setdev 2 s.mem s.d) ∧ (allFree → ran 0x07 .setdev 0 s.mem { s.d with devnum := a % 4096 }) ∧
  (let es := (List.range b).map fun k => s.mem.nat (0x8000000000000 + a + 8 * k) 8
   a + 8 * b ≤ 0x8000000000000 →
    ((∀ e, e ∈ es → e / 4096 % 4096 = 0 ∧ e / 2 ^ 48 = 0) →
      ran 0x08 .routes 0 s.mem { s.d with deimos := { m with routes := es.map fun e => (e % 4096, e / 2 ^ 24) } }) ∧
    ((∃ e, e ∈ es ∧ e / 4096 % 4096 ≠ 0) → ran 0x08 .routes 1 s.mem s.d)) ∧
  (1 ≤ a → a ≤ 168 → ran 0x09 .scrub 0 s.mem { s.d with deimos := { m with scrubHours := a } }) ∧
  (a = 0 ∨ 168 < a → ran 0x09 .scrub 1 s.mem s.d) ∧
  (¬ mode → ran 0x0A .setmode 1 s.mem s.d) ∧
  (a = 1 → s.d.bootState = 5 → s.d.needsReset = true → ran 0x0A .setmode 2 s.mem s.d) ∧
  (mode → s.d.bootState ≠ 0 → s.d.bootState ≠ 2 → a ≠ 1 ∨ s.d.needsReset = false →
    ran 0x0A .setmode 0 s.mem { s.d with bootState := a, needsReset := s.d.needsReset || a = 5 }) ∧
  (a + b ≤ 0x8000000000000 → let image := s.mem.bytes (0x8000000000000 + a) b
    (Config.imageOk image = true → m.fuse ≤ Config.imageVersion image →
      ran 0x10 .fwstage 0 s.mem { s.d with deimos := { m with slots := m.slots.set (1 - m.bootSlot) image } }) ∧
    (Config.imageOk image = false ∨ Config.imageVersion image < m.fuse → ran 0x10 .fwstage 3 s.mem s.d)) ∧
  (1 < a → ran 0x11 .fwact 1 s.mem s.d) ∧
  (a ≤ 1 → let image := m.slots.getD a []
    (Config.imageOk image = true → m.fuse ≤ Config.imageVersion image →
      ran 0x11 .fwact 0 s.mem { s.d with deimos := { m with nextSlot := a } }) ∧
    (Config.imageOk image = false ∨ Config.imageVersion image < m.fuse → ran 0x11 .fwact 3 s.mem s.d)) ∧
  (a + 32 ≤ 0x8000000000000 → let body := s.d.reportBody (s.mem.bytes (0x8000000000000 + a) 32)
    wrote 0x20 .attest b (body ++ (List.range 1280).map (Config.signByte body)) s.d ∧
    body.length = 1792 ∧ (body.drop 64).take 32 = s.mem.bytes (0x8000000000000 + a) 32) ∧
  (s.d.mbox.busy = true → mbCodes.contains s.d.mbox.cmd = false →
    ∃ t, exec .mailboxCommandDone s = .next t ∧ t.mem = s.mem ∧ t.w = s.w ∧
      t.d.mbox = { s.d.mbox with busy := false, pending := false, status := 4 }) ∧
  (∀ n, let u : State := { s with d := { s.d with mbox := { s.d.mbox with busy := true, pending := false, result := n } } }
    ∃ t, exec .mailboxCommandDone u = .next t ∧ t.mem = s.mem ∧ t.w = s.w ∧
      t.d.mbox = { u.d.mbox with busy := false, status := n } ∧
      t.d.msix = if s.d.mbox.vec.testBit 31 then s.d.mbox.vec % 4096 :: s.d.msix else s.d.msix)

/-- R390, R393 to R398, R402, R404, R406 to R409, R413: samples move the budgets of the dies; histograms go to flash; the
scrub marks the lines it finds bad, but for dirty ones; a boot leaves start-up mode, or state 2 with its reason, and gives the
number of a core that has failed to a spare; the loss of power empties HBM; failures of a core, of a unit and of links, and links that come up.
Where the manual leaves a point open, the reading is the model's: log entries 33, 36, 43, 81 and 82. -/
def Obligations.Management : Prop :=
  ∀ s : State,
  let m := s.d.deimos
  let cool := fun (x : Sample) => ∀ k, k < 8 → m.thermal.getD k false = false ∧ x.dieTemp.getD k 0 ≤ 105 ∧
    x.stackTemp.getD (2 * k) 0 ≤ 95 ∧ x.stackTemp.getD (2 * k + 1) 0 ≤ 95
  let sum := fun (x : Sample) => x.power + (m.powers.take 9).sum
  let quiet := fun (t : State) => t.mem = s.mem ∧ t.w = s.w ∧ t.d.deimos.ceiling = m.ceiling
  (∀ x : Sample, ∃ t, exec (.sensorSample x) s = .next t ∧ quiet t ∧
    t.d.deimos.powers = (x.power :: m.powers).take 10 ∧ t.d.deimos.samples = Sample.values x) ∧
  (∀ x : Sample, cool x → 9 ≤ m.powers.length → 27000 < sum x → ∃ t, exec (.sensorSample x) s = .next t ∧ quiet t ∧
    ∀ k, k < 8 → let b := (s.d.die k).budget
      (t.d.die k).budget = if b ≤ 32 then b else max 32 (b - b / 8)) ∧
  (∀ x : Sample, cool x → 9 ≤ m.powers.length → sum x ≤ 27000 → 25000 ≤ sum x ∨ m.lowSince + 1 ≠ 100 →
    ∃ t, exec (.sensorSample x) s = .next t ∧ quiet t ∧ ∀ k, k < 8 → (t.d.die k).budget = (s.d.die k).budget) ∧
  (∀ x : Sample, cool x → 9 ≤ m.powers.length → sum x < 25000 → m.lowSince + 1 = 100 →
    ∃ t, exec (.sensorSample x) s = .next t ∧ quiet t ∧ ∀ k, k < 8 → let b := (s.d.die k).budget
      (t.d.die k).budget = if m.ceiling ≤ b then b else min m.ceiling (b + b / 8)) ∧
  (∀ (x : Sample) (k : Nat), k < 8 → m.thermal.getD k false = false →
    105 < x.dieTemp.getD k 0 ∨ 95 < x.stackTemp.getD (2 * k) 0 ∨ 95 < x.stackTemp.getD (2 * k + 1) 0 →
    ∃ t, exec (.sensorSample x) s = .next t ∧ quiet t ∧ (t.d.die k).budget = 32 ∧ t.d.deimos.thermal.getD k false = true) ∧
  (exec .lifeHistogramFlush s = .next { s with d := { s.d with deimos := { m with flash := m.histo } } }) ∧
  (∀ (stack : Nat) (lines : List Nat), (∀ l, l ∈ lines → isDevice (l * 64) = true ∧ homeStack s.d.iw (l * 64) = stack) →
    ∃ t, exec (.patrolScrub stack lines []) s = .next t ∧ t.w = s.w ∧ (∀ b, t.mem.byte b = s.mem.byte b) ∧
      ∀ l, (t.mem.marks.find l).isSome = ((s.mem.marks.find l).isSome ||
        (decide (l ∈ lines) && !((s.mem.hbm.find (2 * l)).map HbmSector.dirty).getD false &&
          !((s.mem.hbm.find (2 * l + 1)).map HbmSector.dirty).getD false))) ∧
  (∀ r : BootResult, ∃ t, exec (.boot r) s = .next t ∧ t.w = Warp.absent ∧ t.turns = s.turns ∧
    (∀ b, isHost b = false → t.mem.byte b = 0#8) ∧ (∀ c, (t.d.ctx c).state = .free) ∧ t.d.iw = 16 ∧ t.d.devnum = 0 ∧
    t.d.wdoglim = 0 ∧ t.d.warps = [] ∧ (∀ k, (t.d.die k).budget = 160 ∧ (t.d.die k).ramp = 8) ∧
    (let bad := fun p => p ∈ m.failed ∨ p ∈ r.badCores
     let itsOwn := fun (x : Nat × Nat) => x.2 = 34 * (x.1 / 32) + 32 ∨ x.2 = 34 * (x.1 / 32) + 33
     (∀ p, bad p → p ∈ t.d.deimos.failed) ∧
     (∀ x, x ∈ t.d.deimos.spares → bad (34 * (x.1 / 32) + x.1 % 32) ∧ ¬ bad x.2 ∧ (x ∈ m.spares ∨ itsOwn x)) ∧
     (∀ x, x ∈ m.spares → x.1 < 256 → bad (34 * (x.1 / 32) + x.1 % 32) → ¬ bad x.2 → x ∈ t.d.deimos.spares) ∧
     ∀ g, g < 256 → (∀ x, x ∈ m.spares → x.1 / 32 ≠ g / 32) → bad (34 * (g / 32) + g % 32) →
       (∀ j, j < 32 → bad (34 * (g / 32) + j) → j = g % 32) → ¬ bad (34 * (g / 32) + 32) →
       (g, 34 * (g / 32) + 32) ∈ t.d.deimos.spares) ∧
    let good := fun k => ((List.range 34).filter fun p => !r.badCores.contains (34 * k + p)).length
    let takes := fun k => Config.imageOk (m.slots.getD k []) = true ∧ m.fuse ≤ Config.imageVersion (m.slots.getD k [])
    let short := (List.range 8).filter fun k => good k < 32
    let slot := if takes m.nextSlot then some m.nextSlot else if takes (1 - m.nextSlot) then some (1 - m.nextSlot) else none
    (short ≠ [] → t.d.bootState = 2 ∧ t.d.bootStat % 256 = 1 ∧ ∀ k, k < 8 → (t.d.bootStat / 256).testBit k = decide (k ∈ short)) ∧
    (short = [] → r.badStacks ≠ [] → t.d.bootState = 2 ∧ t.d.bootStat % 256 = 2) ∧
    (short = [] → r.badStacks = [] → slot = none → t.d.bootState = 2 ∧ t.d.bootStat = 3) ∧
    (∀ k, short = [] → r.badStacks = [] → slot = some k → t.d.bootState = 3 ∧ t.d.bootStat = 0 ∧ t.d.deimos.bootSlot = k ∧ t.d.deimos.nextSlot = k ∧
      t.d.deimos.fuse = max m.fuse (Config.imageVersion (m.slots.getD k [])))) ∧
  (∃ t, exec .powerLoss s = .next t ∧ t.w = Warp.absent ∧ (∀ b, isHost b = false → t.mem.byte b = 0#8) ∧
    t.d.deimos.histo = m.flash ∧ t.d.bootState = 0 ∧ ∀ c, (t.d.ctx c).state = .free) ∧
  (∀ g unit : Nat, g < 256 → 1 ≤ unit → unit ≤ 7 → (s.d.core g).offline = false →
    ∃ t, exec (.coreFailure g unit) s = .next t ∧ ((s.d.ctx s.w.ctx).state ≠ .idle → t.w = s.w) ∧ (t.d.core g).offline = true ∧
      m.physCore g ∈ t.d.deimos.failed ∧
      ∀ c, (s.d.share c g).holds = true → c < 256 → (s.d.ctx c).state = .active → (t.d.ctx c).state = .ending) ∧
  (∀ unit die : Nat, 8 ≤ unit → unit ≤ 13 → die < 8 → ∃ t, exec (.unitFailure unit die) s = .next t ∧
    ((s.d.ctx s.w.ctx).state ≠ .idle → t.w = s.w) ∧
    t.d.bootState = 5 ∧ t.d.needsReset = true ∧
    ∀ c, (s.d.ctx c).state = .active ∨ (s.d.ctx c).state = .swapped ∨ (s.d.ctx c).state = .suspended →
      (t.d.ctx c).state = .ending) ∧
  (∀ l : Nat, s.d.linkUp l = true → ∃ t, exec (.linkDown l) s = .next t ∧ t.w = s.w ∧ t.d.linkUp l = false ∧
    (∀ c p, (t.d.ctx c).paths.find p ≠ some l) ∧ ∀ k, k ≠ l → t.d.linkUp k = s.d.linkUp k) ∧
  (∀ (l peer : Nat) (deg : Bool), l < 24 → ∃ t, exec (.deviceLinkUp l peer deg) s = .next t ∧ t.mem = s.mem ∧ t.w = s.w ∧
    t.d = { s.d with links := t.d.links } ∧ t.d.links.find l = some { up := true, trained := true, degraded := deg, peer := peer % 4096 } ∧
    ∀ k, k ≠ l → t.d.links.find k = s.d.links.find k) ∧
  exec .hostLinkFailure s = .next { s with d := { s.d with hostDown := true } }

/-! ### Taking a fault -/

/-- R249 to R251, R336, R385 to R388: a word that fails its checks takes their fault and performs nothing. Taking a
fault writes one record into the context's ring, advances WIDX, sends the notifications the header asks for, and ends the
warp; a parked warp keeps its registers and waits at its word under the generation of its entry. Where the ring is full a
record that may be dropped is counted in LOST, and any other waits with its warp; a ring that does not translate suspends
the context, and no record is written before a CONTINUE; a record behind an earlier word's waits for it.
Where the manual leaves a point open, the reading is the model's: log entries 44, 47, 56, 60 and 81. -/
def Obligations.TakingFaults : Prop :=
  ∀ s : State,
  let c := s.d.ctx s.w.ctx
  let q := 2 ^ c.flog
  let hdrAt := s.engineAddr s.w.ctx c.fring true
  let up := c.ringDown = false
  let full := fun hp => q ≤ (s.mem.nat hp 4 + 2 ^ 32 - s.mem.nat (hp + 4) 4) % 2 ^ 32
  let place := fun hp => s.engineAddr s.w.ctx (c.fring + 64 + 64 * (s.mem.nat hp 4 % q)) true
  let waits := fun (r : Raise) (after : List Nat) =>
    ({ body := s.w.raiseRec r, uid := some s.w.uid, seq := s.d.nextId, holds := true, unit := false, after := after } : WaitRec)
  let recorded := fun (hp rp : Nat) (r : FaultRec) => (s.mem.writeWords rp (r.words s.d.devnum (s.mem.nat hp 4)
    (s.d.core s.w.core).clk)).writeNat hp 4 ((s.mem.nat hp 4 + 1) % 2 ^ 32)
  (∀ (i : Instr) (code : Nat), i.isWord = true → s.wordFault i = some code →
    exec i s = .next (s.raise { code := code, lanes := s.w.filled })) ∧
  (∀ (r : FaultRec) (dev n clk : Nat), r.code < 256 → r.cls < 16 → r.ctx < 64 → r.core < 256 → r.codeofs < 4096 →
    let w := fun k => ((r.words dev n clk).getD k 0).toNat
    (r.words dev n clk).length = 16 ∧ bitsOf (w 0) 7 0 = r.code ∧ bitsOf (w 0) 11 8 = r.cls ∧ (w 0).testBit 12 = r.parked ∧
    (w 0).testBit 13 = r.fatal ∧ (w 0).testBit 14 = r.multitag ∧ (w 0).testBit 15 = false ∧ bitsOf (w 0) 21 16 = r.ctx ∧
    bitsOf (w 0) 24 22 = r.core / 32 ∧ bitsOf (w 0) 29 25 = r.core % 32 ∧ bitsOf (w 0) 31 30 = 0 ∧
    bitsOf (w 1) 15 0 = r.blk % 65536 ∧ bitsOf (w 1) 27 16 = r.codeofs ∧ bitsOf (w 1) 31 28 = 0 ∧
    w 6 + 2 ^ 32 * w 7 = r.address % 2 ^ 64 ∧ w 12 = dev % 4096 ∧ w 13 + 2 ^ 32 * w 14 = clk % 2 ^ 64 ∧ w 15 = n % 2 ^ 32) ∧
  (∀ (r : Raise) (hp rp : Nat), c.state ≠ .free → up → c.waiting = [] → s.markers s.w.uid s.d.nextId = [] → hdrAt = some hp →
    ¬ full hp → place hp = some rp → s.NoSplit hp 64 → s.NoSplit rp 64 → s.w.pend = [] →
    let t := s.raise r
    let nhdl := BitVec.ofNat 32 (t.mem.nat (hp + 16) 4)
    t.mem = recorded hp rp (s.w.raiseRec r) ∧ t.w = Warp.absent ∧ t.turns = s.turns ∧
    t.d = { s.d with
      ctxs := t.d.ctxs, warps := t.d.warps, shares := t.d.shares, net := t.d.net, msix := t.d.msix, nextId := t.d.nextId } ∧
    ((s.d.core (handleCore nhdl)).offline = false → t.d.ctxs = s.d.ctxs) ∧
    ((∀ o, o ∈ s.d.ops → o.uid ≠ s.w.uid) → (∀ o, o ∈ s.d.loops → o.uid ≠ s.w.uid) → t.d.warps = s.d.warps) ∧
    (∀ o, o ∈ s.d.ops → o.uid = s.w.uid → t.d.warps = { s.w with status := .retired, pend := [] } :: s.d.warps) ∧
    let flags := t.mem.nat (hp + 12) 4
    let sound := bitsOf flags 31 27 = 0 ∧ bitsOf flags 15 2 = 0 ∧ t.mem.nat (hp + 23) 1 = 0
    (flags % 4 = 0 ∨ ¬ sound → t.d.net = s.d.net ∧ t.d.msix = s.d.msix) ∧
    (flags.testBit 1 = true → sound → t.d.msix = bitsOf flags 26 16 :: s.d.msix) ∧
    (∀ v, flags.testBit 0 = true → sound → s.d.supervisor = some v → v ≠ s.w.ctx → v < 64 → s.w.ctx < 64 →
      ((s.d.core (handleCore nhdl)).offline = true → t.d.net = s.d.net ∧ (t.d.ctx v).dropcnt = satNat 32 ((s.d.ctx v).dropcnt + 1)) ∧
      ((s.d.core (handleCore nhdl)).offline = false → ∃ m, t.d.net = s.d.net ++ [m] ∧ m.item.kind = 0 ∧ m.after = [] ∧
        let k := m.item.tok
        k.dest = handleCore nhdl ∧ k.ofs = handleOfs nhdl ∧ k.ctx = v ∧ k.blk = t.mem.nat (hp + 20) 4 % 65536 ∧
        k.slot = bitsOf (t.mem.nat (hp + 20) 4) 23 16 ∧ k.cclass = 0 ∧ k.w3.toNat = s.w.ctx ∧ k.w4.toNat = s.mem.nat hp 4))) ∧
  (∀ (r : Raise) (hp : Nat), c.state ≠ .free → c.waiting = [] → s.markers s.w.uid s.d.nextId = [] → hdrAt = some hp → full hp →
    s.NoSplit hp 64 → (s.w.raiseRec r).droppable = false →
    let t := s.raise r
    t.mem = s.mem ∧ t.w = { s.w with status := .ringWait } ∧ t.d = s.d.setCtx s.w.ctx { c with waiting := [waits r []] }) ∧
  (∀ r : Raise, c.state ≠ .free → s.markers s.w.uid s.d.nextId ≠ [] →
    let t := s.raise r
    t.mem = s.mem ∧ t.w = { s.w with status := .ringWait } ∧
    t.d = s.d.setCtx s.w.ctx { c with waiting := c.waiting ++ [waits r (s.markers s.w.uid s.d.nextId)] }) ∧
  (∀ r : Raise, c.state ≠ .free → ¬ up →
    let t := s.raise r
    t.mem = s.mem ∧ t.w = { s.w with status := .ringWait } ∧
    t.d = s.d.setCtx s.w.ctx { c with waiting := c.waiting ++ [waits r (s.markers s.w.uid s.d.nextId)] }) ∧
  (∀ (r : FaultRec) (hp : Nat), r.ctx = s.w.ctx → c.state ≠ .free → up → s.NoSplit hp 64 → hdrAt = some hp → full hp → r.droppable = true →
    s.note r = { s with mem := s.mem.writeNat (hp + 8) 4 (min (s.mem.nat (hp + 8) 4 + 1) (2 ^ 32 - 1)) }) ∧
  (∀ r : Raise, c.state = .active ∨ c.state = .swapped ∨ c.state = .idle → up → c.waiting = [] → s.markers s.w.uid s.d.nextId = [] →
    hdrAt = none →
    let t := s.raise r
    t.mem = s.mem ∧ t.w = { s.w with status := .ringWait } ∧ (t.d.ctx s.w.ctx).state = .suspended ∧ (t.d.ctx s.w.ctx).ringDown = true ∧
    (t.d.ctx s.w.ctx).waiting = [waits r []]) ∧
  (∀ (r : FaultRec) (kind sd hp rp : Nat), r.ctx = s.w.ctx → r.core = s.w.core → c.state ≠ .free → up → c.waiting = [] →
    s.markers s.w.uid s.d.nextId = [] → s.NoSplit hp 64 → s.NoSplit rp 64 →
    hdrAt = some hp → ¬ full hp → place hp = some rp → kind < 4 →
    let y := s.d.share s.w.ctx s.w.core
    let g := (y.parkGen kind y.freePark + 1) % 64
    let t := s.parkWith kind sd r
    let id := resid kind s.w.ctx s.w.core y.freePark g
    let entry : Park := { kind := kind, gen := g, uid := s.w.uid, sd := sd, used := true, held := none }
    t.w = { s.w with status := .parked y.freePark } ∧ t.turns = s.turns ∧
    t.mem = recorded hp rp { r with parked := true, resid := id, d2 := if kind = 3 then id else r.d2 } ∧
    t.d.share s.w.ctx s.w.core = { y with park := y.park.put (parkKey kind y.freePark) entry } ∧
    (bitsOf id.toNat 5 0 = g ∧ bitsOf id.toNat 14 6 = y.freePark ∧
      bitsOf id.toNat 31 29 = kind))

/-! ### The step, the decoder and the invariant -/

/-- R12, R57, R67 to R69, R72, R88, R242, R243, R332, R391, R392: a step whose turn issues a warp that may issue runs the instruction
its bytes decode to, from the state in which that turn's clocks have passed, each core's own number of them, and the warp's
translation and fetch block are held; a fetch past the declared code, across a fetch boundary or of bytes that decode to
nothing takes its fault, one that does not translate for reading parks the warp, and one that meets an error mark ends the
context. A step whose turn is an event runs that event. After a word has issued the watchdog's count of its context starts
anew. On one partition, and among sequencer warps, the warp that issued last goes on as long as it can, and else the one that
formed earliest issues.
Where the manual leaves a point open, the reading is the model's: log entries 1, 71, 82, 88 and 104. -/
def Obligations.IssuedWords : Prop :=
  ∀ (s : State) (dt : Nat) (extra : List (Nat × Nat)) (ts : List Turn),
  let u := ({ s with turns := ts } : State).passClocks dt extra
  let turn := fun a => ({ dt := dt, extra := extra, act := a } : Turn)
  (u.w = s.w ∧ u.turns = ts ∧ (s.mem.hbm.length ≤ l2Sectors → u.mem = s.mem) ∧
    ∀ g, g < 256 → (u.d.core g).clk = (s.d.core g).clk + dt + ((extra.filter fun p => p.1 = g).map Prod.snd).sum) ∧
  (∀ e, s.turns = turn (.event e) :: ts → waiterOf e = none → step s = exec e u) ∧
  (∀ e uid t, s.turns = turn (.event e) :: ts → waiterOf e = some uid → exec e u = .next t → step s = .next (u.countIssue t uid)) ∧
  (∀ x, s.turns = turn (.upset x) :: ts →
    step s = match x with
      | .reg uid _ _ _ | .sreg uid _ => if u.wordMeets x then (u.strike x).issueTurn uid else .next u
      | _ => .next (u.strike x)) ∧
  (∀ w v : Warp, u.mayIssue w = true → v ∈ u.issuers w.core w.unit →
    let last := (u.d.run w.core w.unit).last
    u.canIssue w = true ∧ (v.uid = last → w.uid = last) ∧ ((∀ y, y ∈ u.issuers w.core w.unit → y.uid ≠ last) → w.uid ≤ v.uid)) ∧
  (∀ (t : State) (uid : Nat) (w : Warp) (i : Instr), u.warp uid = some w →
    let r := u.noteRun t uid i
    r.mem = t.mem ∧ r.w = t.w ∧ r.turns = t.turns ∧ r.d = { t.d with cores := r.d.cores } ∧
    (u.issuedSince t uid = true → Instr.yields i = false → r.d.run w.core w.unit = { last := w.uid, stalled := [] }) ∧
    (u.issuedSince t uid = false ∨ Instr.yields i = true → (r.d.run w.core w.unit).last = 0 ∧ w.uid ∈ (r.d.run w.core w.unit).stalled)) ∧
  (∀ uid, s.turns = turn (.issue uid) :: ts → (∀ w, u.warp uid = some w → u.mayIssue w = false) → step s = .next u) ∧
  (∀ (t : State) (uid : Nat), let r := u.countIssue t uid
    r.mem = t.mem ∧ r.w = t.w ∧ r.turns = t.turns ∧ r.d = { t.d with shares := r.d.shares } ∧
    (u.issuedSince t uid = false → r = t) ∧
    ∀ w, u.warp uid = some w → u.issuedSince t uid = true → (r.d.share w.ctx w.core).watch = 0) ∧
  (∀ (uid : Nat) (w : Warp), s.turns = turn (.issue uid) :: ts → u.warp uid = some w → u.mayIssue w = true →
    let f := u.focus uid
    let va := w.base + 32 + w.pc
    f.w = w ∧ f.mem = u.mem ∧ f.turns = ts ∧
    (w.hdr.clen * 32 ≤ w.pc → step s = .next (f.raiseAll 0x02)) ∧
    (w.pc < w.hdr.clen * 32 → f.translate w.core w.ctx va = none → step s = .next (f.parkTransl 0x20 w.filled va 0)) ∧
    (∀ x : Xlat, w.pc < w.hdr.clen * 32 → f.translate w.core w.ctx va = some x → x.canRead = false →
      step s = .next (f.parkTransl 0x21 w.filled va 0)) ∧
    (∀ x : Xlat, w.pc < w.hdr.clen * 32 → f.translate w.core w.ctx va = some x → x.canRead = true → f.heldBlock va = none →
      u.mem.marked (x.pa / 32 * 32) 32 = true →
      step s = .next ((f.meetMark (x.pa / 32 * 32) 32).endCtx w.ctx 0x31 0x0E w.core)) ∧
    (∀ (x : Xlat) (block : List Byte), w.pc < w.hdr.clen * 32 → f.translate w.core w.ctx va = some x → x.canRead = true →
      f.heldBlock va = some block ∨
        (f.heldBlock va = none ∧ u.mem.marked (x.pa / 32 * 32) 32 = false ∧ block = u.mem.bytes (x.pa / 32 * 32) 32) →
      let v := (f.fillTlb w.core w.ctx va).takeBlock va block
      let bs := block.drop (va % 32)
      let len := lenOfWord (ofBytesLE (bs.take 4))
      v.w = { w with block := some (va / 32, block) } ∧ v.mem = u.mem ∧
      (32 < w.pc % 32 + len → step s = .next (v.raiseAll 0x02)) ∧
      (∀ e, w.pc % 32 + len ≤ 32 → decodeBytes (bs.take len) = .error e → step s = .next (v.raiseAll 0x01)) ∧
      ∀ i n t, w.pc % 32 + len ≤ 32 → decodeBytes (bs.take len) = .ok (i, n) → exec i v = .next t →
        step s = .next (u.noteRun (u.countIssue t uid) uid i)))

/-- R65: the table of register specifiers, code by code, with the reserved ones refused and the inline immediate read as a
number from −128 to +127. And words written out from the encoding tables of the manual (those of R67, R71, R73, R81, R87 and R96)
decode to the instructions they stand for: one of each of nine shapes, with reserved words refused. -/
def Obligations.DecodedWords : Prop :=
  let names := fun (lo : Nat) (xs : List Spec) => ∀ k, k < xs.length → decSpec (lo + k) = .ok (xs.getD k (.v 0))
  let reserved := fun (lo hi : Nat) => ∀ x, x < 0x300 → lo ≤ x → x ≤ hi → ∀ y, decSpec x ≠ .ok y
  (∀ n : BitVec 8, decSpec n.toNat = .ok (.v n) ∧ decSpec (0x100 + n.toNat) = .ok (.s n) ∧ decSpec (0x300 + n.toNat) = .ok (.imm n)) ∧
  names 0x200 [.o 0, .o 1, .o 2, .o 3, .o 4, .o 5, .o 6, .o 7, .l 0, .l 1] ∧
  (∀ n : BitVec 4, decSpec (0x210 + n.toNat) = .ok (.t n)) ∧
  names 0x220 [.sp .fpl, .sp .tag, .sp .lane, .sp .nlane, .sp .blk, .sp .core, .sp .die, .sp .dev, .sp .clk] ∧
  names 0x240 [.q .qma, .q .qmw, .q .qmo, .q .qca, .q .qcb, .q .qce, .q .qsi, .q .qso, .q .qek] ∧
  reserved 0x20A 0x20F ∧ reserved 0x229 0x23F ∧ reserved 0x249 0x2FF ∧
  (∀ (w : Warp) (n : BitVec 8) (l : Nat), (w.read32 (.imm n) l).toInt = if n.toNat < 128 then (n.toNat : Int) else n.toNat - 256) ∧
  let noCtl : Ctl := { sc := false, oen := false, oidx := 0, nodst := false, rls := false, yld := false }
  let every : Guard := { pr := 7, pn := false }
  let unused : Clause := { cpred := 15, fr := 0, pl := 0, tg := 0 }
  decodeTableWord 64 0x000000000003800C = some (.nop { len := 0, g := every }) ∧
  decodeTableWord 64 0x0000C040401B8040 =
    some (.iadd { g := every, ctl := noCtl, ty := .i32, rnd := .rne, xf := false, fn := 0, d := .v 6, a := .v 4, b := .spec (.imm 1) }) ∧
  decodeTableWord 64 0x0000C040300788C0 =
    some (.isetp { g := every, ctl := noCtl, ty := .i32, cond := 2, pd := 1, a := .v 3, b := .spec (.imm 1) }) ∧
  decodeTableWord 96 0xFFFFFF00000000000003828D =
    some (.wait { g := every, ctl := noCtl, fn := 0, mod := 0, d := .v 0, a := .v 0, b := .v 0, imm := 0xFFFFFF00 }) ∧
  decodeTableWord 64 0x0000001040038354 =
    some (.resumeq { g := every, ctl := noCtl, fn := 0, mod := 0, d := .v 0, a := .s 4, b := .v 0 }) ∧
  decodeTableWord 64 0x00230000000382D4 =
    some (.mfmt { g := every, ctl := noCtl, fn := 0, mod := 0x23, d := .v 0, a := .v 0, b := .v 0 }) ∧
  decodeTableWord 128 0x008000A13013A202 =
    some (.ld { g := every, ctl := noCtl, esz := 4, cp := 0, scope := 0, scl := 2, sub := 0, d := .v 4, a := .t 3, b := .v 2, ofs := 0 }) ∧
  decodeTableWord 128 0x0000003C0000F00002420C9108324002 =
    some (.endK (EndW.mk { cpred := 1, fr := 2, pl := 3, tg := 9 } { cpred := 9, fr := 2, pl := 3, tg := 9 } unused unused)) ∧
  decodeTableWord 64 0x00000000000000FC = none ∧ decodeTableWord 64 0x0000C040401B8840 = none

/-- R65 to R88: for every well-formed instruction that a word encodes, decoding its encoding gives it back, whatever bytes
follow; and a word that decodes at all is well formed and is the encoding of what it decodes to: no two words stand for
one instruction, and no bit of a word is dropped. -/
def Obligations.DecodeEncode : Prop :=
  (∀ (i : Instr) (rest : List Byte), i.isWord = true → i.WellFormed → decodeBytes (encode i ++ rest) = .ok (i, i.byteLen)) ∧
  (∀ (bs : List Byte) (i : Instr) (n : Nat), decodeBytes bs = .ok (i, n) →
    i.isWord = true ∧ i.WellFormed ∧ n = i.byteLen ∧ encode i = bs.take n)

/-- R57, R312, R391, R396, R406: the machine after reset: every context FREE, no warp, boot in progress, the watchdog off,
a budget of 160 units and 8 grants a window on every die, every clock 0; and the invariant holds there.
Where the manual leaves a point open, the reading is the model's: log entries 3 and 6. -/
def Obligations.ResetState : Prop :=
  State.reset.Inv ∧ State.reset.allWarps = [] ∧ (∀ c, (State.reset.d.ctx c).state = .free) ∧
  State.reset.d.bootState = 0 ∧ State.reset.d.wdoglim = 0 ∧
  (∀ k, (State.reset.d.die k).budget = 160 ∧ (State.reset.d.die k).ramp = 8) ∧ ∀ g, (State.reset.d.core g).clk = 0

/-- R253, R259: memory's canonical form, each address listed at most once and in rising order with no byte that reads as an
unlisted one, is kept by every step of the machine, whatever word issues and whatever event happens.
Where the manual leaves a point open, the reading is the model's: log entry 2. -/
def Obligations.StepKeepsMemory : Prop :=
  ∀ s t : State, s.Inv → step s = .next t → t.Inv
end

