-- ==== Sys2Proof/Laws/Map.lean ====
section
/-! SUPPORT. Reading a table after writing it: the laws of `find`, `getD`, `put`, `del`, `putC` and `upd`. -/

namespace Sys2Proof.Map

variable {α : Type}

@[simp] theorem find_nil (k : Nat) : find ([] : Map α) k = none := rfl

@[simp] theorem getD_nil (k : Nat) (d : α) : getD ([] : Map α) k d = d := rfl

theorem getD_eq (m : Map α) (k : Nat) (d : α) : getD m k d = (m.find k).getD d := rfl

theorem find_put (m : Map α) (k j : Nat) (x : α) : find (put m k x) j = if j = k then some x else find m j := by
  induction m with
  | nil => simp [put, find]
  | cons p m ih =>
    obtain ⟨i, y⟩ := p
    unfold put
    split
    · simp [find]
    · split
      · subst_vars; simp only [find]; split <;> rfl
      · simp only [find, ih]
        by_cases hj : j = i
        · subst hj; simp; intro h; omega
        · simp [hj]

@[simp] theorem find_put_self (m : Map α) (k : Nat) (x : α) : find (put m k x) k = some x := by simp [find_put]

theorem find_put_of_ne (m : Map α) {k j : Nat} (x : α) (h : j ≠ k) : find (put m k x) j = find m j := by
  simp [find_put, h]

theorem getD_put (m : Map α) (k j : Nat) (x d : α) : getD (put m k x) j d = if j = k then x else getD m j d := by
  simp only [getD, find_put]; split <;> rfl

@[simp] theorem getD_put_self (m : Map α) (k : Nat) (x d : α) : getD (put m k x) k d = x := by simp [getD_put]

theorem getD_put_of_ne (m : Map α) {k j : Nat} (x d : α) (h : j ≠ k) : getD (put m k x) j d = getD m j d := by
  simp [getD_put, h]

theorem find_del (m : Map α) (k j : Nat) : find (del m k) j = if j = k then none else find m j := by
  induction m with
  | nil => simp [del]
  | cons p m ih =>
    obtain ⟨i, y⟩ := p
    unfold del
    split
    · subst_vars; rw [ih]; simp only [find]; split <;> rfl
    · rename_i h
      simp only [find, ih]
      by_cases hj : j = i
      · subst hj; simp; intro h'; omega
      · simp [hj]

theorem getD_del (m : Map α) (k j : Nat) (d : α) : getD (del m k) j d = if j = k then d else getD m j d := by
  simp only [getD, find_del]; split <;> rfl

theorem getD_putC [DecidableEq α] (m : Map α) (k j : Nat) (x d : α) :
    getD (putC d m k x) j d = if j = k then x else getD m j d := by
  unfold putC
  split
  · rw [getD_del]; split <;> simp_all
  · rw [getD_put]

@[simp] theorem getD_putC_self [DecidableEq α] (m : Map α) (k : Nat) (x d : α) : getD (putC d m k x) k d = x := by
  simp [getD_putC]

theorem getD_upd (m : Map α) (k j : Nat) (d : α) (f : α → α) :
    getD (upd m k d f) j d = if j = k then f (getD m k d) else getD m j d := by
  simp only [upd, getD_put]

@[simp] theorem find_upd_self (m : Map α) (k : Nat) (d : α) (f : α → α) :
    find (upd m k d f) k = some (f (getD m k d)) := by simp [upd]

end Sys2Proof.Map
end

