-- ==== Sys2Proof/Laws/State.lean ====
section
/-! SUPPORT. What each update of the state, the device and a warp leaves in each field. -/

namespace Sys2Proof.Machine

/-! ### The state -/

@[simp] theorem State.mapDev_w (s : State) (f : Dev → Dev) : (s.mapDev f).w = s.w := rfl
@[simp] theorem State.mapDev_d (s : State) (f : Dev → Dev) : (s.mapDev f).d = f s.d := rfl
@[simp] theorem State.mapDev_mem (s : State) (f : Dev → Dev) : (s.mapDev f).mem = s.mem := rfl
@[simp] theorem State.mapDev_turns (s : State) (f : Dev → Dev) : (s.mapDev f).turns = s.turns := rfl

@[simp] theorem State.mapCtx_w (s : State) (c : Nat) (f : Ctx → Ctx) : (s.mapCtx c f).w = s.w := rfl
@[simp] theorem State.mapCtx_d (s : State) (c : Nat) (f : Ctx → Ctx) : (s.mapCtx c f).d = s.d.setCtx c (f (s.d.ctx c)) := rfl
@[simp] theorem State.mapCtx_mem (s : State) (c : Nat) (f : Ctx → Ctx) : (s.mapCtx c f).mem = s.mem := rfl
@[simp] theorem State.mapCtx_turns (s : State) (c : Nat) (f : Ctx → Ctx) : (s.mapCtx c f).turns = s.turns := rfl

@[simp] theorem State.mapShare_w (s : State) (c g : Nat) (f : Share → Share) : (s.mapShare c g f).w = s.w := rfl
@[simp] theorem State.mapShare_d (s : State) (c g : Nat) (f : Share → Share) : (s.mapShare c g f).d = s.d.setShare c g (f (s.d.share c g)) := rfl
@[simp] theorem State.mapShare_mem (s : State) (c g : Nat) (f : Share → Share) : (s.mapShare c g f).mem = s.mem := rfl
@[simp] theorem State.mapShare_turns (s : State) (c g : Nat) (f : Share → Share) : (s.mapShare c g f).turns = s.turns := rfl

@[simp] theorem State.mapCore_w (s : State) (g : Nat) (f : Core → Core) : (s.mapCore g f).w = s.w := rfl
@[simp] theorem State.mapCore_d (s : State) (g : Nat) (f : Core → Core) : (s.mapCore g f).d = s.d.setCore g (f (s.d.core g)) := rfl
@[simp] theorem State.mapCore_mem (s : State) (g : Nat) (f : Core → Core) : (s.mapCore g f).mem = s.mem := rfl
@[simp] theorem State.mapCore_turns (s : State) (g : Nat) (f : Core → Core) : (s.mapCore g f).turns = s.turns := rfl

@[simp] theorem State.mapDie_w (s : State) (n : Nat) (f : Die → Die) : (s.mapDie n f).w = s.w := rfl
@[simp] theorem State.mapDie_d (s : State) (n : Nat) (f : Die → Die) : (s.mapDie n f).d = s.d.setDie n (f (s.d.die n)) := rfl
@[simp] theorem State.mapDie_mem (s : State) (n : Nat) (f : Die → Die) : (s.mapDie n f).mem = s.mem := rfl
@[simp] theorem State.mapDie_turns (s : State) (n : Nat) (f : Die → Die) : (s.mapDie n f).turns = s.turns := rfl

@[simp] theorem State.mapWarp_w (s : State) (f : Warp → Warp) : (s.mapWarp f).w = f s.w := rfl
@[simp] theorem State.mapWarp_d (s : State) (f : Warp → Warp) : (s.mapWarp f).d = s.d := rfl
@[simp] theorem State.mapWarp_mem (s : State) (f : Warp → Warp) : (s.mapWarp f).mem = s.mem := rfl
@[simp] theorem State.mapWarp_turns (s : State) (f : Warp → Warp) : (s.mapWarp f).turns = s.turns := rfl

@[simp] theorem State.tick_w (s : State) : (s.tick).w = s.w := rfl
@[simp] theorem State.tick_mem (s : State) : (s.tick).mem = s.mem := rfl
@[simp] theorem State.tick_turns (s : State) : (s.tick).turns = s.turns := rfl

@[simp] theorem State.lifeCount_w (s : State) (k n : Nat) : (s.lifeCount k n).w = s.w := rfl
@[simp] theorem State.lifeCount_mem (s : State) (k n : Nat) : (s.lifeCount k n).mem = s.mem := rfl
@[simp] theorem State.lifeCount_turns (s : State) (k n : Nat) : (s.lifeCount k n).turns = s.turns := rfl

@[simp] theorem State.advance_w (s : State) (i : Instr) : (s.advance i).w = s.w.advance i := rfl
@[simp] theorem State.advance_d (s : State) (i : Instr) : (s.advance i).d = s.d := rfl
@[simp] theorem State.advance_mem (s : State) (i : Instr) : (s.advance i).mem = s.mem := rfl
@[simp] theorem State.advance_turns (s : State) (i : Instr) : (s.advance i).turns = s.turns := rfl

@[simp] theorem State.fresh_w (s : State) : s.fresh.2.w = s.w := rfl
@[simp] theorem State.fresh_mem (s : State) : s.fresh.2.mem = s.mem := rfl
@[simp] theorem State.fresh_turns (s : State) : s.fresh.2.turns = s.turns := rfl
@[simp] theorem State.fresh_fst (s : State) : s.fresh.1 = s.d.nextId := rfl

@[simp] theorem State.fresh_d_ctxs (s : State) : s.fresh.2.d.ctxs = s.d.ctxs := rfl
@[simp] theorem State.fresh_d_shares (s : State) : s.fresh.2.d.shares = s.d.shares := rfl
@[simp] theorem State.fresh_d_cores (s : State) : s.fresh.2.d.cores = s.d.cores := rfl
@[simp] theorem State.fresh_d_dies (s : State) : s.fresh.2.d.dies = s.d.dies := rfl
@[simp] theorem State.fresh_d_warps (s : State) : s.fresh.2.d.warps = s.d.warps := rfl
@[simp] theorem State.fresh_d_ops (s : State) : s.fresh.2.d.ops = s.d.ops := rfl
@[simp] theorem State.fresh_d_loops (s : State) : s.fresh.2.d.loops = s.d.loops := rfl
@[simp] theorem State.fresh_d_net (s : State) : s.fresh.2.d.net = s.d.net := rfl
@[simp] theorem State.fresh_d_tlb (s : State) : s.fresh.2.d.tlb = s.d.tlb := rfl
@[simp] theorem State.fresh_d_mbox (s : State) : s.fresh.2.d.mbox = s.d.mbox := rfl
@[simp] theorem State.fresh_d_deimos (s : State) : s.fresh.2.d.deimos = s.d.deimos := rfl
@[simp] theorem State.fresh_d_nextId (s : State) : s.fresh.2.d.nextId = s.d.nextId + 1 := rfl
@[simp] theorem State.tick_d_free (s : State) : s.tick.d.free = s.d.free + 1 := rfl

/-! ### The device -/

@[simp] theorem Dev.setCtx_ctxs (d : Dev) (c : Nat) (x : Ctx) : (d.setCtx c x).ctxs = d.ctxs.put c x := rfl
@[simp] theorem Dev.setCtx_shares (d : Dev) (c : Nat) (x : Ctx) : (d.setCtx c x).shares = d.shares := rfl
@[simp] theorem Dev.setCtx_cores (d : Dev) (c : Nat) (x : Ctx) : (d.setCtx c x).cores = d.cores := rfl
@[simp] theorem Dev.setCtx_dies (d : Dev) (c : Nat) (x : Ctx) : (d.setCtx c x).dies = d.dies := rfl
@[simp] theorem Dev.setCtx_warps (d : Dev) (c : Nat) (x : Ctx) : (d.setCtx c x).warps = d.warps := rfl
@[simp] theorem Dev.setCtx_ops (d : Dev) (c : Nat) (x : Ctx) : (d.setCtx c x).ops = d.ops := rfl
@[simp] theorem Dev.setCtx_loops (d : Dev) (c : Nat) (x : Ctx) : (d.setCtx c x).loops = d.loops := rfl
@[simp] theorem Dev.setCtx_net (d : Dev) (c : Nat) (x : Ctx) : (d.setCtx c x).net = d.net := rfl
@[simp] theorem Dev.setCtx_tlb (d : Dev) (c : Nat) (x : Ctx) : (d.setCtx c x).tlb = d.tlb := rfl
@[simp] theorem Dev.setCtx_inv (d : Dev) (c : Nat) (x : Ctx) : (d.setCtx c x).inv = d.inv := rfl
@[simp] theorem Dev.setCtx_invCtx (d : Dev) (c : Nat) (x : Ctx) : (d.setCtx c x).invCtx = d.invCtx := rfl
@[simp] theorem Dev.setCtx_invVa (d : Dev) (c : Nat) (x : Ctx) : (d.setCtx c x).invVa = d.invVa := rfl
@[simp] theorem Dev.setCtx_invLen (d : Dev) (c : Nat) (x : Ctx) : (d.setCtx c x).invLen = d.invLen := rfl
@[simp] theorem Dev.setCtx_mbox (d : Dev) (c : Nat) (x : Ctx) : (d.setCtx c x).mbox = d.mbox := rfl
@[simp] theorem Dev.setCtx_deimos (d : Dev) (c : Nat) (x : Ctx) : (d.setCtx c x).deimos = d.deimos := rfl
@[simp] theorem Dev.setCtx_links (d : Dev) (c : Nat) (x : Ctx) : (d.setCtx c x).links = d.links := rfl
@[simp] theorem Dev.setCtx_hlstat (d : Dev) (c : Nat) (x : Ctx) : (d.setCtx c x).hlstat = d.hlstat := rfl
@[simp] theorem Dev.setCtx_hostDown (d : Dev) (c : Nat) (x : Ctx) : (d.setCtx c x).hostDown = d.hostDown := rfl
@[simp] theorem Dev.setCtx_devnum (d : Dev) (c : Nat) (x : Ctx) : (d.setCtx c x).devnum = d.devnum := rfl
@[simp] theorem Dev.setCtx_iw (d : Dev) (c : Nat) (x : Ctx) : (d.setCtx c x).iw = d.iw := rfl
@[simp] theorem Dev.setCtx_wdoglim (d : Dev) (c : Nat) (x : Ctx) : (d.setCtx c x).wdoglim = d.wdoglim := rfl
@[simp] theorem Dev.setCtx_bootState (d : Dev) (c : Nat) (x : Ctx) : (d.setCtx c x).bootState = d.bootState := rfl
@[simp] theorem Dev.setCtx_bootStat (d : Dev) (c : Nat) (x : Ctx) : (d.setCtx c x).bootStat = d.bootStat := rfl
@[simp] theorem Dev.setCtx_needsReset (d : Dev) (c : Nat) (x : Ctx) : (d.setCtx c x).needsReset = d.needsReset := rfl
@[simp] theorem Dev.setCtx_held (d : Dev) (c : Nat) (x : Ctx) : (d.setCtx c x).held = d.held := rfl
@[simp] theorem Dev.setCtx_hostRead (d : Dev) (c : Nat) (x : Ctx) : (d.setCtx c x).hostRead = d.hostRead := rfl
@[simp] theorem Dev.setCtx_msix (d : Dev) (c : Nat) (x : Ctx) : (d.setCtx c x).msix = d.msix := rfl
@[simp] theorem Dev.setCtx_linkOut (d : Dev) (c : Nat) (x : Ctx) : (d.setCtx c x).linkOut = d.linkOut := rfl
@[simp] theorem Dev.setCtx_linkCopy (d : Dev) (c : Nat) (x : Ctx) : (d.setCtx c x).linkCopy = d.linkCopy := rfl
@[simp] theorem Dev.setCtx_nextId (d : Dev) (c : Nat) (x : Ctx) : (d.setCtx c x).nextId = d.nextId := rfl
@[simp] theorem Dev.setCtx_free (d : Dev) (c : Nat) (x : Ctx) : (d.setCtx c x).free = d.free := rfl

@[simp] theorem Dev.setShare_ctxs (d : Dev) (c g : Nat) (x : Share) : (d.setShare c g x).ctxs = d.ctxs := rfl
@[simp] theorem Dev.setShare_shares (d : Dev) (c g : Nat) (x : Share) : (d.setShare c g x).shares = d.shares.put (shareKey c g) x := rfl
@[simp] theorem Dev.setShare_cores (d : Dev) (c g : Nat) (x : Share) : (d.setShare c g x).cores = d.cores := rfl
@[simp] theorem Dev.setShare_dies (d : Dev) (c g : Nat) (x : Share) : (d.setShare c g x).dies = d.dies := rfl
@[simp] theorem Dev.setShare_warps (d : Dev) (c g : Nat) (x : Share) : (d.setShare c g x).warps = d.warps := rfl
@[simp] theorem Dev.setShare_ops (d : Dev) (c g : Nat) (x : Share) : (d.setShare c g x).ops = d.ops := rfl
@[simp] theorem Dev.setShare_loops (d : Dev) (c g : Nat) (x : Share) : (d.setShare c g x).loops = d.loops := rfl
@[simp] theorem Dev.setShare_net (d : Dev) (c g : Nat) (x : Share) : (d.setShare c g x).net = d.net := rfl
@[simp] theorem Dev.setShare_tlb (d : Dev) (c g : Nat) (x : Share) : (d.setShare c g x).tlb = d.tlb := rfl
@[simp] theorem Dev.setShare_inv (d : Dev) (c g : Nat) (x : Share) : (d.setShare c g x).inv = d.inv := rfl
@[simp] theorem Dev.setShare_invCtx (d : Dev) (c g : Nat) (x : Share) : (d.setShare c g x).invCtx = d.invCtx := rfl
@[simp] theorem Dev.setShare_invVa (d : Dev) (c g : Nat) (x : Share) : (d.setShare c g x).invVa = d.invVa := rfl
@[simp] theorem Dev.setShare_invLen (d : Dev) (c g : Nat) (x : Share) : (d.setShare c g x).invLen = d.invLen := rfl
@[simp] theorem Dev.setShare_mbox (d : Dev) (c g : Nat) (x : Share) : (d.setShare c g x).mbox = d.mbox := rfl
@[simp] theorem Dev.setShare_deimos (d : Dev) (c g : Nat) (x : Share) : (d.setShare c g x).deimos = d.deimos := rfl
@[simp] theorem Dev.setShare_links (d : Dev) (c g : Nat) (x : Share) : (d.setShare c g x).links = d.links := rfl
@[simp] theorem Dev.setShare_hlstat (d : Dev) (c g : Nat) (x : Share) : (d.setShare c g x).hlstat = d.hlstat := rfl
@[simp] theorem Dev.setShare_hostDown (d : Dev) (c g : Nat) (x : Share) : (d.setShare c g x).hostDown = d.hostDown := rfl
@[simp] theorem Dev.setShare_devnum (d : Dev) (c g : Nat) (x : Share) : (d.setShare c g x).devnum = d.devnum := rfl
@[simp] theorem Dev.setShare_iw (d : Dev) (c g : Nat) (x : Share) : (d.setShare c g x).iw = d.iw := rfl
@[simp] theorem Dev.setShare_wdoglim (d : Dev) (c g : Nat) (x : Share) : (d.setShare c g x).wdoglim = d.wdoglim := rfl
@[simp] theorem Dev.setShare_bootState (d : Dev) (c g : Nat) (x : Share) : (d.setShare c g x).bootState = d.bootState := rfl
@[simp] theorem Dev.setShare_bootStat (d : Dev) (c g : Nat) (x : Share) : (d.setShare c g x).bootStat = d.bootStat := rfl
@[simp] theorem Dev.setShare_needsReset (d : Dev) (c g : Nat) (x : Share) : (d.setShare c g x).needsReset = d.needsReset := rfl
@[simp] theorem Dev.setShare_held (d : Dev) (c g : Nat) (x : Share) : (d.setShare c g x).held = d.held := rfl
@[simp] theorem Dev.setShare_hostRead (d : Dev) (c g : Nat) (x : Share) : (d.setShare c g x).hostRead = d.hostRead := rfl
@[simp] theorem Dev.setShare_msix (d : Dev) (c g : Nat) (x : Share) : (d.setShare c g x).msix = d.msix := rfl
@[simp] theorem Dev.setShare_linkOut (d : Dev) (c g : Nat) (x : Share) : (d.setShare c g x).linkOut = d.linkOut := rfl
@[simp] theorem Dev.setShare_linkCopy (d : Dev) (c g : Nat) (x : Share) : (d.setShare c g x).linkCopy = d.linkCopy := rfl
@[simp] theorem Dev.setShare_nextId (d : Dev) (c g : Nat) (x : Share) : (d.setShare c g x).nextId = d.nextId := rfl
@[simp] theorem Dev.setShare_free (d : Dev) (c g : Nat) (x : Share) : (d.setShare c g x).free = d.free := rfl

@[simp] theorem Dev.setCore_ctxs (d : Dev) (g : Nat) (x : Core) : (d.setCore g x).ctxs = d.ctxs := rfl
@[simp] theorem Dev.setCore_shares (d : Dev) (g : Nat) (x : Core) : (d.setCore g x).shares = d.shares := rfl
@[simp] theorem Dev.setCore_cores (d : Dev) (g : Nat) (x : Core) : (d.setCore g x).cores = d.cores.put g x := rfl
@[simp] theorem Dev.setCore_dies (d : Dev) (g : Nat) (x : Core) : (d.setCore g x).dies = d.dies := rfl
@[simp] theorem Dev.setCore_warps (d : Dev) (g : Nat) (x : Core) : (d.setCore g x).warps = d.warps := rfl
@[simp] theorem Dev.setCore_ops (d : Dev) (g : Nat) (x : Core) : (d.setCore g x).ops = d.ops := rfl
@[simp] theorem Dev.setCore_loops (d : Dev) (g : Nat) (x : Core) : (d.setCore g x).loops = d.loops := rfl
@[simp] theorem Dev.setCore_net (d : Dev) (g : Nat) (x : Core) : (d.setCore g x).net = d.net := rfl
@[simp] theorem Dev.setCore_tlb (d : Dev) (g : Nat) (x : Core) : (d.setCore g x).tlb = d.tlb := rfl
@[simp] theorem Dev.setCore_inv (d : Dev) (g : Nat) (x : Core) : (d.setCore g x).inv = d.inv := rfl
@[simp] theorem Dev.setCore_invCtx (d : Dev) (g : Nat) (x : Core) : (d.setCore g x).invCtx = d.invCtx := rfl
@[simp] theorem Dev.setCore_invVa (d : Dev) (g : Nat) (x : Core) : (d.setCore g x).invVa = d.invVa := rfl
@[simp] theorem Dev.setCore_invLen (d : Dev) (g : Nat) (x : Core) : (d.setCore g x).invLen = d.invLen := rfl
@[simp] theorem Dev.setCore_mbox (d : Dev) (g : Nat) (x : Core) : (d.setCore g x).mbox = d.mbox := rfl
@[simp] theorem Dev.setCore_deimos (d : Dev) (g : Nat) (x : Core) : (d.setCore g x).deimos = d.deimos := rfl
@[simp] theorem Dev.setCore_links (d : Dev) (g : Nat) (x : Core) : (d.setCore g x).links = d.links := rfl
@[simp] theorem Dev.setCore_hlstat (d : Dev) (g : Nat) (x : Core) : (d.setCore g x).hlstat = d.hlstat := rfl
@[simp] theorem Dev.setCore_hostDown (d : Dev) (g : Nat) (x : Core) : (d.setCore g x).hostDown = d.hostDown := rfl
@[simp] theorem Dev.setCore_devnum (d : Dev) (g : Nat) (x : Core) : (d.setCore g x).devnum = d.devnum := rfl
@[simp] theorem Dev.setCore_iw (d : Dev) (g : Nat) (x : Core) : (d.setCore g x).iw = d.iw := rfl
@[simp] theorem Dev.setCore_wdoglim (d : Dev) (g : Nat) (x : Core) : (d.setCore g x).wdoglim = d.wdoglim := rfl
@[simp] theorem Dev.setCore_bootState (d : Dev) (g : Nat) (x : Core) : (d.setCore g x).bootState = d.bootState := rfl
@[simp] theorem Dev.setCore_bootStat (d : Dev) (g : Nat) (x : Core) : (d.setCore g x).bootStat = d.bootStat := rfl
@[simp] theorem Dev.setCore_needsReset (d : Dev) (g : Nat) (x : Core) : (d.setCore g x).needsReset = d.needsReset := rfl
@[simp] theorem Dev.setCore_held (d : Dev) (g : Nat) (x : Core) : (d.setCore g x).held = d.held := rfl
@[simp] theorem Dev.setCore_hostRead (d : Dev) (g : Nat) (x : Core) : (d.setCore g x).hostRead = d.hostRead := rfl
@[simp] theorem Dev.setCore_msix (d : Dev) (g : Nat) (x : Core) : (d.setCore g x).msix = d.msix := rfl
@[simp] theorem Dev.setCore_linkOut (d : Dev) (g : Nat) (x : Core) : (d.setCore g x).linkOut = d.linkOut := rfl
@[simp] theorem Dev.setCore_linkCopy (d : Dev) (g : Nat) (x : Core) : (d.setCore g x).linkCopy = d.linkCopy := rfl
@[simp] theorem Dev.setCore_nextId (d : Dev) (g : Nat) (x : Core) : (d.setCore g x).nextId = d.nextId := rfl
@[simp] theorem Dev.setCore_free (d : Dev) (g : Nat) (x : Core) : (d.setCore g x).free = d.free := rfl

@[simp] theorem Dev.setDie_ctxs (d : Dev) (n : Nat) (x : Die) : (d.setDie n x).ctxs = d.ctxs := rfl
@[simp] theorem Dev.setDie_shares (d : Dev) (n : Nat) (x : Die) : (d.setDie n x).shares = d.shares := rfl
@[simp] theorem Dev.setDie_cores (d : Dev) (n : Nat) (x : Die) : (d.setDie n x).cores = d.cores := rfl
@[simp] theorem Dev.setDie_dies (d : Dev) (n : Nat) (x : Die) : (d.setDie n x).dies = d.dies.put n x := rfl
@[simp] theorem Dev.setDie_warps (d : Dev) (n : Nat) (x : Die) : (d.setDie n x).warps = d.warps := rfl
@[simp] theorem Dev.setDie_ops (d : Dev) (n : Nat) (x : Die) : (d.setDie n x).ops = d.ops := rfl
@[simp] theorem Dev.setDie_loops (d : Dev) (n : Nat) (x : Die) : (d.setDie n x).loops = d.loops := rfl
@[simp] theorem Dev.setDie_net (d : Dev) (n : Nat) (x : Die) : (d.setDie n x).net = d.net := rfl
@[simp] theorem Dev.setDie_tlb (d : Dev) (n : Nat) (x : Die) : (d.setDie n x).tlb = d.tlb := rfl
@[simp] theorem Dev.setDie_inv (d : Dev) (n : Nat) (x : Die) : (d.setDie n x).inv = d.inv := rfl
@[simp] theorem Dev.setDie_invCtx (d : Dev) (n : Nat) (x : Die) : (d.setDie n x).invCtx = d.invCtx := rfl
@[simp] theorem Dev.setDie_invVa (d : Dev) (n : Nat) (x : Die) : (d.setDie n x).invVa = d.invVa := rfl
@[simp] theorem Dev.setDie_invLen (d : Dev) (n : Nat) (x : Die) : (d.setDie n x).invLen = d.invLen := rfl
@[simp] theorem Dev.setDie_mbox (d : Dev) (n : Nat) (x : Die) : (d.setDie n x).mbox = d.mbox := rfl
@[simp] theorem Dev.setDie_deimos (d : Dev) (n : Nat) (x : Die) : (d.setDie n x).deimos = d.deimos := rfl
@[simp] theorem Dev.setDie_links (d : Dev) (n : Nat) (x : Die) : (d.setDie n x).links = d.links := rfl
@[simp] theorem Dev.setDie_hlstat (d : Dev) (n : Nat) (x : Die) : (d.setDie n x).hlstat = d.hlstat := rfl
@[simp] theorem Dev.setDie_hostDown (d : Dev) (n : Nat) (x : Die) : (d.setDie n x).hostDown = d.hostDown := rfl
@[simp] theorem Dev.setDie_devnum (d : Dev) (n : Nat) (x : Die) : (d.setDie n x).devnum = d.devnum := rfl
@[simp] theorem Dev.setDie_iw (d : Dev) (n : Nat) (x : Die) : (d.setDie n x).iw = d.iw := rfl
@[simp] theorem Dev.setDie_wdoglim (d : Dev) (n : Nat) (x : Die) : (d.setDie n x).wdoglim = d.wdoglim := rfl
@[simp] theorem Dev.setDie_bootState (d : Dev) (n : Nat) (x : Die) : (d.setDie n x).bootState = d.bootState := rfl
@[simp] theorem Dev.setDie_bootStat (d : Dev) (n : Nat) (x : Die) : (d.setDie n x).bootStat = d.bootStat := rfl
@[simp] theorem Dev.setDie_needsReset (d : Dev) (n : Nat) (x : Die) : (d.setDie n x).needsReset = d.needsReset := rfl
@[simp] theorem Dev.setDie_held (d : Dev) (n : Nat) (x : Die) : (d.setDie n x).held = d.held := rfl
@[simp] theorem Dev.setDie_hostRead (d : Dev) (n : Nat) (x : Die) : (d.setDie n x).hostRead = d.hostRead := rfl
@[simp] theorem Dev.setDie_msix (d : Dev) (n : Nat) (x : Die) : (d.setDie n x).msix = d.msix := rfl
@[simp] theorem Dev.setDie_linkOut (d : Dev) (n : Nat) (x : Die) : (d.setDie n x).linkOut = d.linkOut := rfl
@[simp] theorem Dev.setDie_linkCopy (d : Dev) (n : Nat) (x : Die) : (d.setDie n x).linkCopy = d.linkCopy := rfl
@[simp] theorem Dev.setDie_nextId (d : Dev) (n : Nat) (x : Die) : (d.setDie n x).nextId = d.nextId := rfl
@[simp] theorem Dev.setDie_free (d : Dev) (n : Nat) (x : Die) : (d.setDie n x).free = d.free := rfl

@[simp] theorem Dev.ctx_setCtx_self (d : Dev) (k : Nat) (x : Ctx) : (d.setCtx k x).ctx k = x := Map.getD_put_self ..

theorem Dev.ctx_setCtx_of_ne (d : Dev) {k j : Nat} (x : Ctx) (h : j ≠ k) : (d.setCtx k x).ctx j = d.ctx j :=
  Map.getD_put_of_ne _ _ _ h

@[simp] theorem Dev.ctx_setShare (d : Dev) (k : Nat) (c g : Nat) (x : Share) : (d.setShare c g x).ctx k = d.ctx k := rfl
@[simp] theorem Dev.ctx_setCore (d : Dev) (k : Nat) (c : Nat) (x : Core) : (d.setCore c x).ctx k = d.ctx k := rfl
@[simp] theorem Dev.ctx_setDie (d : Dev) (k : Nat) (c : Nat) (x : Die) : (d.setDie c x).ctx k = d.ctx k := rfl

@[simp] theorem Dev.core_setCore_self (d : Dev) (k : Nat) (x : Core) : (d.setCore k x).core k = x := Map.getD_put_self ..

theorem Dev.core_setCore_of_ne (d : Dev) {k j : Nat} (x : Core) (h : j ≠ k) : (d.setCore k x).core j = d.core j :=
  Map.getD_put_of_ne _ _ _ h

@[simp] theorem Dev.core_setCtx (d : Dev) (k : Nat) (c : Nat) (x : Ctx) : (d.setCtx c x).core k = d.core k := rfl
@[simp] theorem Dev.core_setShare (d : Dev) (k : Nat) (c g : Nat) (x : Share) : (d.setShare c g x).core k = d.core k := rfl
@[simp] theorem Dev.core_setDie (d : Dev) (k : Nat) (c : Nat) (x : Die) : (d.setDie c x).core k = d.core k := rfl

@[simp] theorem Dev.die_setDie_self (d : Dev) (k : Nat) (x : Die) : (d.setDie k x).die k = x := Map.getD_put_self ..

theorem Dev.die_setDie_of_ne (d : Dev) {k j : Nat} (x : Die) (h : j ≠ k) : (d.setDie k x).die j = d.die j :=
  Map.getD_put_of_ne _ _ _ h

@[simp] theorem Dev.die_setCtx (d : Dev) (k : Nat) (c : Nat) (x : Ctx) : (d.setCtx c x).die k = d.die k := rfl
@[simp] theorem Dev.die_setShare (d : Dev) (k : Nat) (c g : Nat) (x : Share) : (d.setShare c g x).die k = d.die k := rfl
@[simp] theorem Dev.die_setCore (d : Dev) (k : Nat) (c : Nat) (x : Core) : (d.setCore c x).die k = d.die k := rfl

@[simp] theorem Dev.share_setShare_self (d : Dev) (c g : Nat) (x : Share) : (d.setShare c g x).share c g = x :=
  Map.getD_put_self ..

theorem Dev.share_setShare_of_ne (d : Dev) {c g c' g' : Nat} (x : Share) (h : shareKey c' g' ≠ shareKey c g) :
    (d.setShare c g x).share c' g' = d.share c' g' := Map.getD_put_of_ne _ _ _ h

@[simp] theorem Dev.share_setCtx (d : Dev) (c g : Nat) (k : Nat) (x : Ctx) : (d.setCtx k x).share c g = d.share c g := rfl
@[simp] theorem Dev.share_setCore (d : Dev) (c g : Nat) (k : Nat) (x : Core) : (d.setCore k x).share c g = d.share c g := rfl
@[simp] theorem Dev.share_setDie (d : Dev) (c g : Nat) (k : Nat) (x : Die) : (d.setDie k x).share c g = d.share c g := rfl

/-! ### A warp -/

@[simp] theorem Warp.putV_live (w : Warp) (r l : Nat) (x : Word) : (w.putV r l x).live = w.live := rfl
@[simp] theorem Warp.putV_uid (w : Warp) (r l : Nat) (x : Word) : (w.putV r l x).uid = w.uid := rfl
@[simp] theorem Warp.putV_ctx (w : Warp) (r l : Nat) (x : Word) : (w.putV r l x).ctx = w.ctx := rfl
@[simp] theorem Warp.putV_core (w : Warp) (r l : Nat) (x : Word) : (w.putV r l x).core = w.core := rfl
@[simp] theorem Warp.putV_seq (w : Warp) (r l : Nat) (x : Word) : (w.putV r l x).seq = w.seq := rfl
@[simp] theorem Warp.putV_part (w : Warp) (r l : Nat) (x : Word) : (w.putV r l x).part = w.part := rfl
@[simp] theorem Warp.putV_task (w : Warp) (r l : Nat) (x : Word) : (w.putV r l x).task = w.task := rfl
@[simp] theorem Warp.putV_blk (w : Warp) (r l : Nat) (x : Word) : (w.putV r l x).blk = w.blk := rfl
@[simp] theorem Warp.putV_hdr (w : Warp) (r l : Nat) (x : Word) : (w.putV r l x).hdr = w.hdr := rfl
@[simp] theorem Warp.putV_base (w : Warp) (r l : Nat) (x : Word) : (w.putV r l x).base = w.base := rfl
@[simp] theorem Warp.putV_pc (w : Warp) (r l : Nat) (x : Word) : (w.putV r l x).pc = w.pc := rfl
@[simp] theorem Warp.putV_block (w : Warp) (r l : Nat) (x : Word) : (w.putV r l x).block = w.block := rfl
@[simp] theorem Warp.putV_issued (w : Warp) (r l : Nat) (x : Word) : (w.putV r l x).issued = w.issued := rfl
@[simp] theorem Warp.putV_filled (w : Warp) (r l : Nat) (x : Word) : (w.putV r l x).filled = w.filled := rfl
@[simp] theorem Warp.putV_frame (w : Warp) (r l : Nat) (x : Word) : (w.putV r l x).frame = w.frame := rfl
@[simp] theorem Warp.putV_tag (w : Warp) (r l : Nat) (x : Word) : (w.putV r l x).tag = w.tag := rfl
@[simp] theorem Warp.putV_v (w : Warp) (r l : Nat) (x : Word) : (w.putV r l x).v = Map.putC 0 w.v (r * 32 + l) x := rfl
@[simp] theorem Warp.putV_o (w : Warp) (r l : Nat) (x : Word) : (w.putV r l x).o = w.o := rfl
@[simp] theorem Warp.putV_l0 (w : Warp) (r l : Nat) (x : Word) : (w.putV r l x).l0 = w.l0 := rfl
@[simp] theorem Warp.putV_l1 (w : Warp) (r l : Nat) (x : Word) : (w.putV r l x).l1 = w.l1 := rfl
@[simp] theorem Warp.putV_lprod (w : Warp) (r l : Nat) (x : Word) : (w.putV r l x).lprod = w.lprod := rfl
@[simp] theorem Warp.putV_p (w : Warp) (r l : Nat) (x : Word) : (w.putV r l x).p = w.p := rfl
@[simp] theorem Warp.putV_pz (w : Warp) (r l : Nat) (x : Word) : (w.putV r l x).pz = w.pz := rfl
@[simp] theorem Warp.putV_s (w : Warp) (r l : Nat) (x : Word) : (w.putV r l x).s = w.s := rfl
@[simp] theorem Warp.putV_sp (w : Warp) (r l : Nat) (x : Word) : (w.putV r l x).sp = w.sp := rfl
@[simp] theorem Warp.putV_t (w : Warp) (r l : Nat) (x : Word) : (w.putV r l x).t = w.t := rfl
@[simp] theorem Warp.putV_ldc (w : Warp) (r l : Nat) (x : Word) : (w.putV r l x).ldc = w.ldc := rfl
@[simp] theorem Warp.putV_stc (w : Warp) (r l : Nat) (x : Word) : (w.putV r l x).stc = w.stc := rfl
@[simp] theorem Warp.putV_cpc (w : Warp) (r l : Nat) (x : Word) : (w.putV r l x).cpc = w.cpc := rfl
@[simp] theorem Warp.putV_tlc (w : Warp) (r l : Nat) (x : Word) : (w.putV r l x).tlc = w.tlc := rfl
@[simp] theorem Warp.putV_fmode (w : Warp) (r l : Nat) (x : Word) : (w.putV r l x).fmode = w.fmode := rfl
@[simp] theorem Warp.putV_srseed (w : Warp) (r l : Nat) (x : Word) : (w.putV r l x).srseed = w.srseed := rfl
@[simp] theorem Warp.putV_tilecoord (w : Warp) (r l : Nat) (x : Word) : (w.putV r l x).tilecoord = w.tilecoord := rfl
@[simp] theorem Warp.putV_inflight (w : Warp) (r l : Nat) (x : Word) : (w.putV r l x).inflight = w.inflight.del (r * 32 + l) := rfl
@[simp] theorem Warp.putV_ord (w : Warp) (r l : Nat) (x : Word) : (w.putV r l x).ord = w.ord := rfl
@[simp] theorem Warp.putV_pend (w : Warp) (r l : Nat) (x : Word) : (w.putV r l x).pend = w.pend := rfl
@[simp] theorem Warp.putV_relAfter (w : Warp) (r l : Nat) (x : Word) : (w.putV r l x).relAfter = w.relAfter := rfl
@[simp] theorem Warp.putV_acqAfter (w : Warp) (r l : Nat) (x : Word) : (w.putV r l x).acqAfter = w.acqAfter := rfl
@[simp] theorem Warp.putV_qfences (w : Warp) (r l : Nat) (x : Word) : (w.putV r l x).qfences = w.qfences := rfl
@[simp] theorem Warp.putV_status (w : Warp) (r l : Nat) (x : Word) : (w.putV r l x).status = w.status := rfl
@[simp] theorem Warp.putV_heldCount (w : Warp) (r l : Nat) (x : Word) : (w.putV r l x).heldCount = w.heldCount := rfl

@[simp] theorem Warp.putO_live (w : Warp) (r l : Nat) (x : Word) : (w.putO r l x).live = w.live := rfl
@[simp] theorem Warp.putO_uid (w : Warp) (r l : Nat) (x : Word) : (w.putO r l x).uid = w.uid := rfl
@[simp] theorem Warp.putO_ctx (w : Warp) (r l : Nat) (x : Word) : (w.putO r l x).ctx = w.ctx := rfl
@[simp] theorem Warp.putO_core (w : Warp) (r l : Nat) (x : Word) : (w.putO r l x).core = w.core := rfl
@[simp] theorem Warp.putO_seq (w : Warp) (r l : Nat) (x : Word) : (w.putO r l x).seq = w.seq := rfl
@[simp] theorem Warp.putO_part (w : Warp) (r l : Nat) (x : Word) : (w.putO r l x).part = w.part := rfl
@[simp] theorem Warp.putO_task (w : Warp) (r l : Nat) (x : Word) : (w.putO r l x).task = w.task := rfl
@[simp] theorem Warp.putO_blk (w : Warp) (r l : Nat) (x : Word) : (w.putO r l x).blk = w.blk := rfl
@[simp] theorem Warp.putO_hdr (w : Warp) (r l : Nat) (x : Word) : (w.putO r l x).hdr = w.hdr := rfl
@[simp] theorem Warp.putO_base (w : Warp) (r l : Nat) (x : Word) : (w.putO r l x).base = w.base := rfl
@[simp] theorem Warp.putO_pc (w : Warp) (r l : Nat) (x : Word) : (w.putO r l x).pc = w.pc := rfl
@[simp] theorem Warp.putO_block (w : Warp) (r l : Nat) (x : Word) : (w.putO r l x).block = w.block := rfl
@[simp] theorem Warp.putO_issued (w : Warp) (r l : Nat) (x : Word) : (w.putO r l x).issued = w.issued := rfl
@[simp] theorem Warp.putO_filled (w : Warp) (r l : Nat) (x : Word) : (w.putO r l x).filled = w.filled := rfl
@[simp] theorem Warp.putO_frame (w : Warp) (r l : Nat) (x : Word) : (w.putO r l x).frame = w.frame := rfl
@[simp] theorem Warp.putO_tag (w : Warp) (r l : Nat) (x : Word) : (w.putO r l x).tag = w.tag := rfl
@[simp] theorem Warp.putO_v (w : Warp) (r l : Nat) (x : Word) : (w.putO r l x).v = w.v := rfl
@[simp] theorem Warp.putO_o (w : Warp) (r l : Nat) (x : Word) : (w.putO r l x).o = Map.putC 0 w.o (r * 32 + l) x := rfl
@[simp] theorem Warp.putO_l0 (w : Warp) (r l : Nat) (x : Word) : (w.putO r l x).l0 = w.l0 := rfl
@[simp] theorem Warp.putO_l1 (w : Warp) (r l : Nat) (x : Word) : (w.putO r l x).l1 = w.l1 := rfl
@[simp] theorem Warp.putO_lprod (w : Warp) (r l : Nat) (x : Word) : (w.putO r l x).lprod = w.lprod := rfl
@[simp] theorem Warp.putO_p (w : Warp) (r l : Nat) (x : Word) : (w.putO r l x).p = w.p := rfl
@[simp] theorem Warp.putO_pz (w : Warp) (r l : Nat) (x : Word) : (w.putO r l x).pz = w.pz := rfl
@[simp] theorem Warp.putO_s (w : Warp) (r l : Nat) (x : Word) : (w.putO r l x).s = w.s := rfl
@[simp] theorem Warp.putO_sp (w : Warp) (r l : Nat) (x : Word) : (w.putO r l x).sp = w.sp := rfl
@[simp] theorem Warp.putO_t (w : Warp) (r l : Nat) (x : Word) : (w.putO r l x).t = w.t := rfl
@[simp] theorem Warp.putO_ldc (w : Warp) (r l : Nat) (x : Word) : (w.putO r l x).ldc = w.ldc := rfl
@[simp] theorem Warp.putO_stc (w : Warp) (r l : Nat) (x : Word) : (w.putO r l x).stc = w.stc := rfl
@[simp] theorem Warp.putO_cpc (w : Warp) (r l : Nat) (x : Word) : (w.putO r l x).cpc = w.cpc := rfl
@[simp] theorem Warp.putO_tlc (w : Warp) (r l : Nat) (x : Word) : (w.putO r l x).tlc = w.tlc := rfl
@[simp] theorem Warp.putO_fmode (w : Warp) (r l : Nat) (x : Word) : (w.putO r l x).fmode = w.fmode := rfl
@[simp] theorem Warp.putO_srseed (w : Warp) (r l : Nat) (x : Word) : (w.putO r l x).srseed = w.srseed := rfl
@[simp] theorem Warp.putO_tilecoord (w : Warp) (r l : Nat) (x : Word) : (w.putO r l x).tilecoord = w.tilecoord := rfl
@[simp] theorem Warp.putO_inflight (w : Warp) (r l : Nat) (x : Word) : (w.putO r l x).inflight = w.inflight := rfl
@[simp] theorem Warp.putO_ord (w : Warp) (r l : Nat) (x : Word) : (w.putO r l x).ord = w.ord := rfl
@[simp] theorem Warp.putO_pend (w : Warp) (r l : Nat) (x : Word) : (w.putO r l x).pend = w.pend := rfl
@[simp] theorem Warp.putO_relAfter (w : Warp) (r l : Nat) (x : Word) : (w.putO r l x).relAfter = w.relAfter := rfl
@[simp] theorem Warp.putO_acqAfter (w : Warp) (r l : Nat) (x : Word) : (w.putO r l x).acqAfter = w.acqAfter := rfl
@[simp] theorem Warp.putO_qfences (w : Warp) (r l : Nat) (x : Word) : (w.putO r l x).qfences = w.qfences := rfl
@[simp] theorem Warp.putO_status (w : Warp) (r l : Nat) (x : Word) : (w.putO r l x).status = w.status := rfl
@[simp] theorem Warp.putO_heldCount (w : Warp) (r l : Nat) (x : Word) : (w.putO r l x).heldCount = w.heldCount := rfl

@[simp] theorem Warp.putS_live (w : Warp) (r : Nat) (x : Word) : (w.putS r x).live = w.live := rfl
@[simp] theorem Warp.putS_uid (w : Warp) (r : Nat) (x : Word) : (w.putS r x).uid = w.uid := rfl
@[simp] theorem Warp.putS_ctx (w : Warp) (r : Nat) (x : Word) : (w.putS r x).ctx = w.ctx := rfl
@[simp] theorem Warp.putS_core (w : Warp) (r : Nat) (x : Word) : (w.putS r x).core = w.core := rfl
@[simp] theorem Warp.putS_seq (w : Warp) (r : Nat) (x : Word) : (w.putS r x).seq = w.seq := rfl
@[simp] theorem Warp.putS_part (w : Warp) (r : Nat) (x : Word) : (w.putS r x).part = w.part := rfl
@[simp] theorem Warp.putS_task (w : Warp) (r : Nat) (x : Word) : (w.putS r x).task = w.task := rfl
@[simp] theorem Warp.putS_blk (w : Warp) (r : Nat) (x : Word) : (w.putS r x).blk = w.blk := rfl
@[simp] theorem Warp.putS_hdr (w : Warp) (r : Nat) (x : Word) : (w.putS r x).hdr = w.hdr := rfl
@[simp] theorem Warp.putS_base (w : Warp) (r : Nat) (x : Word) : (w.putS r x).base = w.base := rfl
@[simp] theorem Warp.putS_pc (w : Warp) (r : Nat) (x : Word) : (w.putS r x).pc = w.pc := rfl
@[simp] theorem Warp.putS_block (w : Warp) (r : Nat) (x : Word) : (w.putS r x).block = w.block := rfl
@[simp] theorem Warp.putS_issued (w : Warp) (r : Nat) (x : Word) : (w.putS r x).issued = w.issued := rfl
@[simp] theorem Warp.putS_filled (w : Warp) (r : Nat) (x : Word) : (w.putS r x).filled = w.filled := rfl
@[simp] theorem Warp.putS_frame (w : Warp) (r : Nat) (x : Word) : (w.putS r x).frame = w.frame := rfl
@[simp] theorem Warp.putS_tag (w : Warp) (r : Nat) (x : Word) : (w.putS r x).tag = w.tag := rfl
@[simp] theorem Warp.putS_v (w : Warp) (r : Nat) (x : Word) : (w.putS r x).v = w.v := rfl
@[simp] theorem Warp.putS_o (w : Warp) (r : Nat) (x : Word) : (w.putS r x).o = w.o := rfl
@[simp] theorem Warp.putS_l0 (w : Warp) (r : Nat) (x : Word) : (w.putS r x).l0 = w.l0 := rfl
@[simp] theorem Warp.putS_l1 (w : Warp) (r : Nat) (x : Word) : (w.putS r x).l1 = w.l1 := rfl
@[simp] theorem Warp.putS_lprod (w : Warp) (r : Nat) (x : Word) : (w.putS r x).lprod = w.lprod := rfl
@[simp] theorem Warp.putS_p (w : Warp) (r : Nat) (x : Word) : (w.putS r x).p = w.p := rfl
@[simp] theorem Warp.putS_pz (w : Warp) (r : Nat) (x : Word) : (w.putS r x).pz = w.pz := rfl
@[simp] theorem Warp.putS_s (w : Warp) (r : Nat) (x : Word) : (w.putS r x).s = Map.putC 0 w.s r x := rfl
@[simp] theorem Warp.putS_sp (w : Warp) (r : Nat) (x : Word) : (w.putS r x).sp = w.sp := rfl
@[simp] theorem Warp.putS_t (w : Warp) (r : Nat) (x : Word) : (w.putS r x).t = w.t := rfl
@[simp] theorem Warp.putS_ldc (w : Warp) (r : Nat) (x : Word) : (w.putS r x).ldc = w.ldc := rfl
@[simp] theorem Warp.putS_stc (w : Warp) (r : Nat) (x : Word) : (w.putS r x).stc = w.stc := rfl
@[simp] theorem Warp.putS_cpc (w : Warp) (r : Nat) (x : Word) : (w.putS r x).cpc = w.cpc := rfl
@[simp] theorem Warp.putS_tlc (w : Warp) (r : Nat) (x : Word) : (w.putS r x).tlc = w.tlc := rfl
@[simp] theorem Warp.putS_fmode (w : Warp) (r : Nat) (x : Word) : (w.putS r x).fmode = w.fmode := rfl
@[simp] theorem Warp.putS_srseed (w : Warp) (r : Nat) (x : Word) : (w.putS r x).srseed = w.srseed := rfl
@[simp] theorem Warp.putS_tilecoord (w : Warp) (r : Nat) (x : Word) : (w.putS r x).tilecoord = w.tilecoord := rfl
@[simp] theorem Warp.putS_inflight (w : Warp) (r : Nat) (x : Word) : (w.putS r x).inflight = w.inflight := rfl
@[simp] theorem Warp.putS_ord (w : Warp) (r : Nat) (x : Word) : (w.putS r x).ord = w.ord := rfl
@[simp] theorem Warp.putS_pend (w : Warp) (r : Nat) (x : Word) : (w.putS r x).pend = w.pend := rfl
@[simp] theorem Warp.putS_relAfter (w : Warp) (r : Nat) (x : Word) : (w.putS r x).relAfter = w.relAfter := rfl
@[simp] theorem Warp.putS_acqAfter (w : Warp) (r : Nat) (x : Word) : (w.putS r x).acqAfter = w.acqAfter := rfl
@[simp] theorem Warp.putS_qfences (w : Warp) (r : Nat) (x : Word) : (w.putS r x).qfences = w.qfences := rfl
@[simp] theorem Warp.putS_status (w : Warp) (r : Nat) (x : Word) : (w.putS r x).status = w.status := rfl
@[simp] theorem Warp.putS_heldCount (w : Warp) (r : Nat) (x : Word) : (w.putS r x).heldCount = w.heldCount := rfl

@[simp] theorem Warp.putPred_live (w : Warp) (n : Nat) (act val : Lanes) : (w.putPred n act val).live = w.live := by unfold Warp.putPred; split <;> rfl
@[simp] theorem Warp.putPred_uid (w : Warp) (n : Nat) (act val : Lanes) : (w.putPred n act val).uid = w.uid := by unfold Warp.putPred; split <;> rfl
@[simp] theorem Warp.putPred_ctx (w : Warp) (n : Nat) (act val : Lanes) : (w.putPred n act val).ctx = w.ctx := by unfold Warp.putPred; split <;> rfl
@[simp] theorem Warp.putPred_core (w : Warp) (n : Nat) (act val : Lanes) : (w.putPred n act val).core = w.core := by unfold Warp.putPred; split <;> rfl
@[simp] theorem Warp.putPred_seq (w : Warp) (n : Nat) (act val : Lanes) : (w.putPred n act val).seq = w.seq := by unfold Warp.putPred; split <;> rfl
@[simp] theorem Warp.putPred_part (w : Warp) (n : Nat) (act val : Lanes) : (w.putPred n act val).part = w.part := by unfold Warp.putPred; split <;> rfl
@[simp] theorem Warp.putPred_task (w : Warp) (n : Nat) (act val : Lanes) : (w.putPred n act val).task = w.task := by unfold Warp.putPred; split <;> rfl
@[simp] theorem Warp.putPred_blk (w : Warp) (n : Nat) (act val : Lanes) : (w.putPred n act val).blk = w.blk := by unfold Warp.putPred; split <;> rfl
@[simp] theorem Warp.putPred_hdr (w : Warp) (n : Nat) (act val : Lanes) : (w.putPred n act val).hdr = w.hdr := by unfold Warp.putPred; split <;> rfl
@[simp] theorem Warp.putPred_base (w : Warp) (n : Nat) (act val : Lanes) : (w.putPred n act val).base = w.base := by unfold Warp.putPred; split <;> rfl
@[simp] theorem Warp.putPred_pc (w : Warp) (n : Nat) (act val : Lanes) : (w.putPred n act val).pc = w.pc := by unfold Warp.putPred; split <;> rfl
@[simp] theorem Warp.putPred_block (w : Warp) (n : Nat) (act val : Lanes) : (w.putPred n act val).block = w.block := by unfold Warp.putPred; split <;> rfl
@[simp] theorem Warp.putPred_issued (w : Warp) (n : Nat) (act val : Lanes) : (w.putPred n act val).issued = w.issued := by unfold Warp.putPred; split <;> rfl
@[simp] theorem Warp.putPred_filled (w : Warp) (n : Nat) (act val : Lanes) : (w.putPred n act val).filled = w.filled := by unfold Warp.putPred; split <;> rfl
@[simp] theorem Warp.putPred_frame (w : Warp) (n : Nat) (act val : Lanes) : (w.putPred n act val).frame = w.frame := by unfold Warp.putPred; split <;> rfl
@[simp] theorem Warp.putPred_tag (w : Warp) (n : Nat) (act val : Lanes) : (w.putPred n act val).tag = w.tag := by unfold Warp.putPred; split <;> rfl
@[simp] theorem Warp.putPred_v (w : Warp) (n : Nat) (act val : Lanes) : (w.putPred n act val).v = w.v := by unfold Warp.putPred; split <;> rfl
@[simp] theorem Warp.putPred_o (w : Warp) (n : Nat) (act val : Lanes) : (w.putPred n act val).o = w.o := by unfold Warp.putPred; split <;> rfl
@[simp] theorem Warp.putPred_l0 (w : Warp) (n : Nat) (act val : Lanes) : (w.putPred n act val).l0 = w.l0 := by unfold Warp.putPred; split <;> rfl
@[simp] theorem Warp.putPred_l1 (w : Warp) (n : Nat) (act val : Lanes) : (w.putPred n act val).l1 = w.l1 := by unfold Warp.putPred; split <;> rfl
@[simp] theorem Warp.putPred_lprod (w : Warp) (n : Nat) (act val : Lanes) : (w.putPred n act val).lprod = w.lprod := by unfold Warp.putPred; split <;> rfl
@[simp] theorem Warp.putPred_pz (w : Warp) (n : Nat) (act val : Lanes) : (w.putPred n act val).pz = w.pz := by unfold Warp.putPred; split <;> rfl
@[simp] theorem Warp.putPred_s (w : Warp) (n : Nat) (act val : Lanes) : (w.putPred n act val).s = w.s := by unfold Warp.putPred; split <;> rfl
@[simp] theorem Warp.putPred_sp (w : Warp) (n : Nat) (act val : Lanes) : (w.putPred n act val).sp = w.sp := by unfold Warp.putPred; split <;> rfl
@[simp] theorem Warp.putPred_t (w : Warp) (n : Nat) (act val : Lanes) : (w.putPred n act val).t = w.t := by unfold Warp.putPred; split <;> rfl
@[simp] theorem Warp.putPred_ldc (w : Warp) (n : Nat) (act val : Lanes) : (w.putPred n act val).ldc = w.ldc := by unfold Warp.putPred; split <;> rfl
@[simp] theorem Warp.putPred_stc (w : Warp) (n : Nat) (act val : Lanes) : (w.putPred n act val).stc = w.stc := by unfold Warp.putPred; split <;> rfl
@[simp] theorem Warp.putPred_cpc (w : Warp) (n : Nat) (act val : Lanes) : (w.putPred n act val).cpc = w.cpc := by unfold Warp.putPred; split <;> rfl
@[simp] theorem Warp.putPred_tlc (w : Warp) (n : Nat) (act val : Lanes) : (w.putPred n act val).tlc = w.tlc := by unfold Warp.putPred; split <;> rfl
@[simp] theorem Warp.putPred_fmode (w : Warp) (n : Nat) (act val : Lanes) : (w.putPred n act val).fmode = w.fmode := by unfold Warp.putPred; split <;> rfl
@[simp] theorem Warp.putPred_srseed (w : Warp) (n : Nat) (act val : Lanes) : (w.putPred n act val).srseed = w.srseed := by unfold Warp.putPred; split <;> rfl
@[simp] theorem Warp.putPred_tilecoord (w : Warp) (n : Nat) (act val : Lanes) : (w.putPred n act val).tilecoord = w.tilecoord := by unfold Warp.putPred; split <;> rfl
@[simp] theorem Warp.putPred_inflight (w : Warp) (n : Nat) (act val : Lanes) : (w.putPred n act val).inflight = w.inflight := by unfold Warp.putPred; split <;> rfl
@[simp] theorem Warp.putPred_ord (w : Warp) (n : Nat) (act val : Lanes) : (w.putPred n act val).ord = w.ord := by unfold Warp.putPred; split <;> rfl
@[simp] theorem Warp.putPred_pend (w : Warp) (n : Nat) (act val : Lanes) : (w.putPred n act val).pend = w.pend := by unfold Warp.putPred; split <;> rfl
@[simp] theorem Warp.putPred_relAfter (w : Warp) (n : Nat) (act val : Lanes) : (w.putPred n act val).relAfter = w.relAfter := by unfold Warp.putPred; split <;> rfl
@[simp] theorem Warp.putPred_acqAfter (w : Warp) (n : Nat) (act val : Lanes) : (w.putPred n act val).acqAfter = w.acqAfter := by unfold Warp.putPred; split <;> rfl
@[simp] theorem Warp.putPred_qfences (w : Warp) (n : Nat) (act val : Lanes) : (w.putPred n act val).qfences = w.qfences := by unfold Warp.putPred; split <;> rfl
@[simp] theorem Warp.putPred_status (w : Warp) (n : Nat) (act val : Lanes) : (w.putPred n act val).status = w.status := by unfold Warp.putPred; split <;> rfl
@[simp] theorem Warp.putPred_heldCount (w : Warp) (n : Nat) (act val : Lanes) : (w.putPred n act val).heldCount = w.heldCount := by unfold Warp.putPred; split <;> rfl

@[simp] theorem Warp.putSp_live (w : Warp) (n : Nat) (b : Bool) : (w.putSp n b).live = w.live := by unfold Warp.putSp; split <;> rfl
@[simp] theorem Warp.putSp_uid (w : Warp) (n : Nat) (b : Bool) : (w.putSp n b).uid = w.uid := by unfold Warp.putSp; split <;> rfl
@[simp] theorem Warp.putSp_ctx (w : Warp) (n : Nat) (b : Bool) : (w.putSp n b).ctx = w.ctx := by unfold Warp.putSp; split <;> rfl
@[simp] theorem Warp.putSp_core (w : Warp) (n : Nat) (b : Bool) : (w.putSp n b).core = w.core := by unfold Warp.putSp; split <;> rfl
@[simp] theorem Warp.putSp_seq (w : Warp) (n : Nat) (b : Bool) : (w.putSp n b).seq = w.seq := by unfold Warp.putSp; split <;> rfl
@[simp] theorem Warp.putSp_part (w : Warp) (n : Nat) (b : Bool) : (w.putSp n b).part = w.part := by unfold Warp.putSp; split <;> rfl
@[simp] theorem Warp.putSp_task (w : Warp) (n : Nat) (b : Bool) : (w.putSp n b).task = w.task := by unfold Warp.putSp; split <;> rfl
@[simp] theorem Warp.putSp_blk (w : Warp) (n : Nat) (b : Bool) : (w.putSp n b).blk = w.blk := by unfold Warp.putSp; split <;> rfl
@[simp] theorem Warp.putSp_hdr (w : Warp) (n : Nat) (b : Bool) : (w.putSp n b).hdr = w.hdr := by unfold Warp.putSp; split <;> rfl
@[simp] theorem Warp.putSp_base (w : Warp) (n : Nat) (b : Bool) : (w.putSp n b).base = w.base := by unfold Warp.putSp; split <;> rfl
@[simp] theorem Warp.putSp_pc (w : Warp) (n : Nat) (b : Bool) : (w.putSp n b).pc = w.pc := by unfold Warp.putSp; split <;> rfl
@[simp] theorem Warp.putSp_block (w : Warp) (n : Nat) (b : Bool) : (w.putSp n b).block = w.block := by unfold Warp.putSp; split <;> rfl
@[simp] theorem Warp.putSp_issued (w : Warp) (n : Nat) (b : Bool) : (w.putSp n b).issued = w.issued := by unfold Warp.putSp; split <;> rfl
@[simp] theorem Warp.putSp_filled (w : Warp) (n : Nat) (b : Bool) : (w.putSp n b).filled = w.filled := by unfold Warp.putSp; split <;> rfl
@[simp] theorem Warp.putSp_frame (w : Warp) (n : Nat) (b : Bool) : (w.putSp n b).frame = w.frame := by unfold Warp.putSp; split <;> rfl
@[simp] theorem Warp.putSp_tag (w : Warp) (n : Nat) (b : Bool) : (w.putSp n b).tag = w.tag := by unfold Warp.putSp; split <;> rfl
@[simp] theorem Warp.putSp_v (w : Warp) (n : Nat) (b : Bool) : (w.putSp n b).v = w.v := by unfold Warp.putSp; split <;> rfl
@[simp] theorem Warp.putSp_o (w : Warp) (n : Nat) (b : Bool) : (w.putSp n b).o = w.o := by unfold Warp.putSp; split <;> rfl
@[simp] theorem Warp.putSp_l0 (w : Warp) (n : Nat) (b : Bool) : (w.putSp n b).l0 = w.l0 := by unfold Warp.putSp; split <;> rfl
@[simp] theorem Warp.putSp_l1 (w : Warp) (n : Nat) (b : Bool) : (w.putSp n b).l1 = w.l1 := by unfold Warp.putSp; split <;> rfl
@[simp] theorem Warp.putSp_lprod (w : Warp) (n : Nat) (b : Bool) : (w.putSp n b).lprod = w.lprod := by unfold Warp.putSp; split <;> rfl
@[simp] theorem Warp.putSp_p (w : Warp) (n : Nat) (b : Bool) : (w.putSp n b).p = w.p := by unfold Warp.putSp; split <;> rfl
@[simp] theorem Warp.putSp_pz (w : Warp) (n : Nat) (b : Bool) : (w.putSp n b).pz = w.pz := by unfold Warp.putSp; split <;> rfl
@[simp] theorem Warp.putSp_s (w : Warp) (n : Nat) (b : Bool) : (w.putSp n b).s = w.s := by unfold Warp.putSp; split <;> rfl
@[simp] theorem Warp.putSp_t (w : Warp) (n : Nat) (b : Bool) : (w.putSp n b).t = w.t := by unfold Warp.putSp; split <;> rfl
@[simp] theorem Warp.putSp_ldc (w : Warp) (n : Nat) (b : Bool) : (w.putSp n b).ldc = w.ldc := by unfold Warp.putSp; split <;> rfl
@[simp] theorem Warp.putSp_stc (w : Warp) (n : Nat) (b : Bool) : (w.putSp n b).stc = w.stc := by unfold Warp.putSp; split <;> rfl
@[simp] theorem Warp.putSp_cpc (w : Warp) (n : Nat) (b : Bool) : (w.putSp n b).cpc = w.cpc := by unfold Warp.putSp; split <;> rfl
@[simp] theorem Warp.putSp_tlc (w : Warp) (n : Nat) (b : Bool) : (w.putSp n b).tlc = w.tlc := by unfold Warp.putSp; split <;> rfl
@[simp] theorem Warp.putSp_fmode (w : Warp) (n : Nat) (b : Bool) : (w.putSp n b).fmode = w.fmode := by unfold Warp.putSp; split <;> rfl
@[simp] theorem Warp.putSp_srseed (w : Warp) (n : Nat) (b : Bool) : (w.putSp n b).srseed = w.srseed := by unfold Warp.putSp; split <;> rfl
@[simp] theorem Warp.putSp_tilecoord (w : Warp) (n : Nat) (b : Bool) : (w.putSp n b).tilecoord = w.tilecoord := by unfold Warp.putSp; split <;> rfl
@[simp] theorem Warp.putSp_inflight (w : Warp) (n : Nat) (b : Bool) : (w.putSp n b).inflight = w.inflight := by unfold Warp.putSp; split <;> rfl
@[simp] theorem Warp.putSp_ord (w : Warp) (n : Nat) (b : Bool) : (w.putSp n b).ord = w.ord := by unfold Warp.putSp; split <;> rfl
@[simp] theorem Warp.putSp_pend (w : Warp) (n : Nat) (b : Bool) : (w.putSp n b).pend = w.pend := by unfold Warp.putSp; split <;> rfl
@[simp] theorem Warp.putSp_relAfter (w : Warp) (n : Nat) (b : Bool) : (w.putSp n b).relAfter = w.relAfter := by unfold Warp.putSp; split <;> rfl
@[simp] theorem Warp.putSp_acqAfter (w : Warp) (n : Nat) (b : Bool) : (w.putSp n b).acqAfter = w.acqAfter := by unfold Warp.putSp; split <;> rfl
@[simp] theorem Warp.putSp_qfences (w : Warp) (n : Nat) (b : Bool) : (w.putSp n b).qfences = w.qfences := by unfold Warp.putSp; split <;> rfl
@[simp] theorem Warp.putSp_status (w : Warp) (n : Nat) (b : Bool) : (w.putSp n b).status = w.status := by unfold Warp.putSp; split <;> rfl
@[simp] theorem Warp.putSp_heldCount (w : Warp) (n : Nat) (b : Bool) : (w.putSp n b).heldCount = w.heldCount := by unfold Warp.putSp; split <;> rfl

@[simp] theorem Warp.poison_live (w : Warp) (m : Lanes) : (w.poison m).live = w.live := rfl
@[simp] theorem Warp.poison_uid (w : Warp) (m : Lanes) : (w.poison m).uid = w.uid := rfl
@[simp] theorem Warp.poison_ctx (w : Warp) (m : Lanes) : (w.poison m).ctx = w.ctx := rfl
@[simp] theorem Warp.poison_core (w : Warp) (m : Lanes) : (w.poison m).core = w.core := rfl
@[simp] theorem Warp.poison_seq (w : Warp) (m : Lanes) : (w.poison m).seq = w.seq := rfl
@[simp] theorem Warp.poison_part (w : Warp) (m : Lanes) : (w.poison m).part = w.part := rfl
@[simp] theorem Warp.poison_task (w : Warp) (m : Lanes) : (w.poison m).task = w.task := rfl
@[simp] theorem Warp.poison_blk (w : Warp) (m : Lanes) : (w.poison m).blk = w.blk := rfl
@[simp] theorem Warp.poison_hdr (w : Warp) (m : Lanes) : (w.poison m).hdr = w.hdr := rfl
@[simp] theorem Warp.poison_base (w : Warp) (m : Lanes) : (w.poison m).base = w.base := rfl
@[simp] theorem Warp.poison_pc (w : Warp) (m : Lanes) : (w.poison m).pc = w.pc := rfl
@[simp] theorem Warp.poison_block (w : Warp) (m : Lanes) : (w.poison m).block = w.block := rfl
@[simp] theorem Warp.poison_issued (w : Warp) (m : Lanes) : (w.poison m).issued = w.issued := rfl
@[simp] theorem Warp.poison_filled (w : Warp) (m : Lanes) : (w.poison m).filled = w.filled := rfl
@[simp] theorem Warp.poison_frame (w : Warp) (m : Lanes) : (w.poison m).frame = w.frame := rfl
@[simp] theorem Warp.poison_tag (w : Warp) (m : Lanes) : (w.poison m).tag = w.tag := rfl
@[simp] theorem Warp.poison_v (w : Warp) (m : Lanes) : (w.poison m).v = w.v := rfl
@[simp] theorem Warp.poison_o (w : Warp) (m : Lanes) : (w.poison m).o = w.o := rfl
@[simp] theorem Warp.poison_l0 (w : Warp) (m : Lanes) : (w.poison m).l0 = w.l0 := rfl
@[simp] theorem Warp.poison_l1 (w : Warp) (m : Lanes) : (w.poison m).l1 = w.l1 := rfl
@[simp] theorem Warp.poison_lprod (w : Warp) (m : Lanes) : (w.poison m).lprod = w.lprod := rfl
@[simp] theorem Warp.poison_p (w : Warp) (m : Lanes) : (w.poison m).p = w.p := rfl
@[simp] theorem Warp.poison_pz (w : Warp) (m : Lanes) : (w.poison m).pz = w.pz ||| (m &&& w.filled) := rfl
@[simp] theorem Warp.poison_s (w : Warp) (m : Lanes) : (w.poison m).s = w.s := rfl
@[simp] theorem Warp.poison_sp (w : Warp) (m : Lanes) : (w.poison m).sp = w.sp := rfl
@[simp] theorem Warp.poison_t (w : Warp) (m : Lanes) : (w.poison m).t = w.t := rfl
@[simp] theorem Warp.poison_ldc (w : Warp) (m : Lanes) : (w.poison m).ldc = w.ldc := rfl
@[simp] theorem Warp.poison_stc (w : Warp) (m : Lanes) : (w.poison m).stc = w.stc := rfl
@[simp] theorem Warp.poison_cpc (w : Warp) (m : Lanes) : (w.poison m).cpc = w.cpc := rfl
@[simp] theorem Warp.poison_tlc (w : Warp) (m : Lanes) : (w.poison m).tlc = w.tlc := rfl
@[simp] theorem Warp.poison_fmode (w : Warp) (m : Lanes) : (w.poison m).fmode = w.fmode := rfl
@[simp] theorem Warp.poison_srseed (w : Warp) (m : Lanes) : (w.poison m).srseed = w.srseed := rfl
@[simp] theorem Warp.poison_tilecoord (w : Warp) (m : Lanes) : (w.poison m).tilecoord = w.tilecoord := rfl
@[simp] theorem Warp.poison_inflight (w : Warp) (m : Lanes) : (w.poison m).inflight = w.inflight := rfl
@[simp] theorem Warp.poison_ord (w : Warp) (m : Lanes) : (w.poison m).ord = w.ord := rfl
@[simp] theorem Warp.poison_pend (w : Warp) (m : Lanes) : (w.poison m).pend = w.pend := rfl
@[simp] theorem Warp.poison_relAfter (w : Warp) (m : Lanes) : (w.poison m).relAfter = w.relAfter := rfl
@[simp] theorem Warp.poison_acqAfter (w : Warp) (m : Lanes) : (w.poison m).acqAfter = w.acqAfter := rfl
@[simp] theorem Warp.poison_qfences (w : Warp) (m : Lanes) : (w.poison m).qfences = w.qfences := rfl
@[simp] theorem Warp.poison_status (w : Warp) (m : Lanes) : (w.poison m).status = w.status := rfl
@[simp] theorem Warp.poison_heldCount (w : Warp) (m : Lanes) : (w.poison m).heldCount = w.heldCount := rfl

@[simp] theorem Warp.advance_live (w : Warp) (i : Instr) : (w.advance i).live = w.live := rfl
@[simp] theorem Warp.advance_uid (w : Warp) (i : Instr) : (w.advance i).uid = w.uid := rfl
@[simp] theorem Warp.advance_ctx (w : Warp) (i : Instr) : (w.advance i).ctx = w.ctx := rfl
@[simp] theorem Warp.advance_core (w : Warp) (i : Instr) : (w.advance i).core = w.core := rfl
@[simp] theorem Warp.advance_seq (w : Warp) (i : Instr) : (w.advance i).seq = w.seq := rfl
@[simp] theorem Warp.advance_part (w : Warp) (i : Instr) : (w.advance i).part = w.part := rfl
@[simp] theorem Warp.advance_task (w : Warp) (i : Instr) : (w.advance i).task = w.task := rfl
@[simp] theorem Warp.advance_blk (w : Warp) (i : Instr) : (w.advance i).blk = w.blk := rfl
@[simp] theorem Warp.advance_hdr (w : Warp) (i : Instr) : (w.advance i).hdr = w.hdr := rfl
@[simp] theorem Warp.advance_base (w : Warp) (i : Instr) : (w.advance i).base = w.base := rfl
@[simp] theorem Warp.advance_pc (w : Warp) (i : Instr) : (w.advance i).pc = w.pc + i.byteLen := rfl
@[simp] theorem Warp.advance_block (w : Warp) (i : Instr) : (w.advance i).block = w.block := rfl
@[simp] theorem Warp.advance_issued (w : Warp) (i : Instr) : (w.advance i).issued = w.issued + 1 := rfl
@[simp] theorem Warp.advance_filled (w : Warp) (i : Instr) : (w.advance i).filled = w.filled := rfl
@[simp] theorem Warp.advance_frame (w : Warp) (i : Instr) : (w.advance i).frame = w.frame := rfl
@[simp] theorem Warp.advance_tag (w : Warp) (i : Instr) : (w.advance i).tag = w.tag := rfl
@[simp] theorem Warp.advance_v (w : Warp) (i : Instr) : (w.advance i).v = w.v := rfl
@[simp] theorem Warp.advance_o (w : Warp) (i : Instr) : (w.advance i).o = w.o := rfl
@[simp] theorem Warp.advance_l0 (w : Warp) (i : Instr) : (w.advance i).l0 = w.l0 := rfl
@[simp] theorem Warp.advance_l1 (w : Warp) (i : Instr) : (w.advance i).l1 = w.l1 := rfl
@[simp] theorem Warp.advance_lprod (w : Warp) (i : Instr) : (w.advance i).lprod = w.lprod := rfl
@[simp] theorem Warp.advance_p (w : Warp) (i : Instr) : (w.advance i).p = w.p := rfl
@[simp] theorem Warp.advance_pz (w : Warp) (i : Instr) : (w.advance i).pz = w.pz := rfl
@[simp] theorem Warp.advance_s (w : Warp) (i : Instr) : (w.advance i).s = w.s := rfl
@[simp] theorem Warp.advance_sp (w : Warp) (i : Instr) : (w.advance i).sp = w.sp := rfl
@[simp] theorem Warp.advance_t (w : Warp) (i : Instr) : (w.advance i).t = w.t := rfl
@[simp] theorem Warp.advance_ldc (w : Warp) (i : Instr) : (w.advance i).ldc = w.ldc := rfl
@[simp] theorem Warp.advance_stc (w : Warp) (i : Instr) : (w.advance i).stc = w.stc := rfl
@[simp] theorem Warp.advance_cpc (w : Warp) (i : Instr) : (w.advance i).cpc = w.cpc := rfl
@[simp] theorem Warp.advance_tlc (w : Warp) (i : Instr) : (w.advance i).tlc = w.tlc := rfl
@[simp] theorem Warp.advance_fmode (w : Warp) (i : Instr) : (w.advance i).fmode = w.fmode := rfl
@[simp] theorem Warp.advance_srseed (w : Warp) (i : Instr) : (w.advance i).srseed = w.srseed := rfl
@[simp] theorem Warp.advance_tilecoord (w : Warp) (i : Instr) : (w.advance i).tilecoord = w.tilecoord := rfl
@[simp] theorem Warp.advance_inflight (w : Warp) (i : Instr) : (w.advance i).inflight = w.inflight := rfl
@[simp] theorem Warp.advance_ord (w : Warp) (i : Instr) : (w.advance i).ord = w.ord := rfl
@[simp] theorem Warp.advance_pend (w : Warp) (i : Instr) : (w.advance i).pend = w.pend := rfl
@[simp] theorem Warp.advance_relAfter (w : Warp) (i : Instr) : (w.advance i).relAfter = w.relAfter := rfl
@[simp] theorem Warp.advance_acqAfter (w : Warp) (i : Instr) : (w.advance i).acqAfter = w.acqAfter := rfl
@[simp] theorem Warp.advance_qfences (w : Warp) (i : Instr) : (w.advance i).qfences = w.qfences := rfl
@[simp] theorem Warp.advance_status (w : Warp) (i : Instr) : (w.advance i).status = w.status := rfl
@[simp] theorem Warp.advance_heldCount (w : Warp) (i : Instr) : (w.advance i).heldCount = w.heldCount := rfl

end Sys2Proof.Machine
end

