-- ==== Sys2Proof/Laws/Regs.lean ====
section
/-! SUPPORT. Lane masks, and what writing one destination leaves in every register of every lane. -/

namespace Sys2Proof

/-! ### Lane masks -/

@[simp] theorem mem_lanesOf (m : Lanes) (l : Nat) : l ∈ lanesOf m ↔ l < 32 ∧ m.getLsbD l = true := by
  simp [lanesOf]

theorem getLsbD_foldl_mask (f : Nat → Bool) (ls : List Nat) (h : ∀ k ∈ ls, k < 32) (m : Lanes) (l : Nat) (hl : l < 32) :
    (ls.foldl (fun m l => if f l then m ||| (1#32 <<< l) else m) m).getLsbD l = (m.getLsbD l || (decide (l ∈ ls) && f l)) := by
  induction ls generalizing m with
  | nil => simp
  | cons k ls ih =>
    have hk : k < 32 := h k (List.mem_cons_self ..)
    rw [List.foldl_cons, ih (fun j hj => h j (List.mem_cons_of_mem _ hj))]
    by_cases hf : f k = true
    · simp only [hf, if_true, BitVec.getLsbD_or, BitVec.getLsbD_shiftLeft, BitVec.getLsbD_one, List.mem_cons]
      by_cases e : l = k
      · subst e; simp [hl, hf]
      · have : ¬ (l - k = 0 ∧ ¬ l < k) := by omega
        by_cases hlk : l < k <;> simp_all <;> omega
    · have : f k = false := by simpa using hf
      by_cases e : l = k
      · subst e; simp [this]
      · simp [this, e]

/-- The lanes of a mask made from a test. -/
theorem getLsbD_maskOf (f : Nat → Bool) (l : Nat) : (maskOf f).getLsbD l = (decide (l < 32) && f l) := by
  by_cases hl : l < 32
  · rw [maskOf, getLsbD_foldl_mask f _ (by simp) _ _ hl]; simp [hl]
  · simp only [hl, decide_false, Bool.false_and]; exact BitVec.getLsbD_of_ge _ _ (by omega)

namespace Machine

/-! ### One register -/

/-- Two registers of two lanes share a place only where both agree. -/
theorem place_inj {r r' l l' : Nat} (h : l < 32) (h' : l' < 32) : r * 32 + l = r' * 32 + l' ↔ r = r' ∧ l = l' := by
  omega

/-- A register file that results are written to. -/
def Spec.isFile : Spec → Bool
  | .v _ | .o _ | .s _ => true
  | _ => false

/-- A destination written in one lane: that register holds the word, every other register is as before. -/
theorem cell_putSpec (w : Warp) (d : Spec) (hd : Spec.isFile d = true) (l l' : Nat) (x : Word) (y : Spec)
    (h : l < 32) (h' : l' < 32) :
    (w.putSpec d l x).cell y l' = if y = d ∧ (l' = l ∨ d.isS = true) then (x, none) else w.cell y l' := by
  cases d <;> simp only [Spec.isFile, Bool.false_eq_true] at hd <;> cases y <;>
    simp only [Warp.putSpec, Warp.cell, Spec.isS, Warp.putV_v, Warp.putV_o, Warp.putV_s, Warp.putV_inflight, Warp.putO_v, Warp.putO_o,
      Warp.putO_s, Warp.putO_inflight, Warp.putS_v, Warp.putS_o, Warp.putS_s, Warp.putS_inflight, Map.getD_putC, Map.find_del,
      place_inj h' h, Spec.v.injEq, Spec.o.injEq, Spec.s.injEq, reduceCtorEq, false_and, if_false, Bool.false_eq_true, or_false,
      BitVec.toNat_inj, or_true, and_true]
  · split <;> simp_all
  · split <;> simp_all
  · split <;> simp_all

theorem next_ne (d : Spec) (hd : Spec.isFile d = true) : d.next ≠ d := by
  cases d <;> simp only [Spec.isFile, Bool.false_eq_true] at hd <;> simp only [Spec.next, ne_eq, Spec.v.injEq, Spec.s.injEq, Spec.o.injEq]
  · intro h; have := congrArg BitVec.toNat h; rw [BitVec.toNat_add] at this; simp at this; omega
  · intro h; have := congrArg BitVec.toNat h; rw [BitVec.toNat_add] at this; simp at this; omega
  · intro h; have := congrArg BitVec.toNat h; rw [BitVec.toNat_add] at this; simp at this; omega

theorem isFile_next (d : Spec) : Spec.isFile d.next = Spec.isFile d := by cases d <;> rfl

theorem isS_next (d : Spec) : d.next.isS = d.isS := by cases d <;> rfl

@[simp] theorem written_some (j x : Nat) (c : Word × Option Word) : written (some j) x c = (BitVec.ofNat 32 (x / 2 ^ (32 * j)), none) := rfl

@[simp] theorem written_none (x : Nat) (c : Word × Option Word) : written none x c = c := rfl

/-- A destination of one or two registers written in one lane. -/
theorem cell_putWide (w : Warp) (d : Spec) (hd : Spec.isFile d = true) (n : Nat) (hn : n = 1 ∨ n = 2) (l l' x : Nat) (y : Spec)
    (h : l < 32) (h' : l' < 32) :
    (Warp.putWide n w d l x).cell y l' =
      if l' = l ∨ d.isS = true then
        written (Spec.indexIn y d n) x (w.cell y l')
      else w.cell y l' := by
  have hne := next_ne d hd
  rcases hn with rfl | rfl
  · simp only [Warp.putWide, cell_putSpec w d hd l l' _ y h h', Spec.indexIn]
    by_cases e : y = d
    · by_cases e2 : l' = l ∨ d.isS = true <;> simp [e, e2]
    · simp [e]
  · simp only [Warp.putWide, cell_putSpec _ d.next ((isFile_next d).trans hd) l l' _ y h h', cell_putSpec w d hd l l' _ y h h',
      Spec.indexIn, isS_next]
    by_cases e2 : l' = l ∨ d.isS = true
    · by_cases e : y = d
      · subst e; simp [e2, hne.symm]
      · by_cases e1 : y = d.next
        · simp [e1, e2, hne]
        · simp [e, e1]
    · simp [e2]

/-- The destinations of one lane of a word (R74). -/
theorem cell_putDest (w : Warp) (c : Ctl) (d : Spec) (hd : Spec.isFile d = true) (hS : d.isS = false) (n : Nat)
    (hn : n = 1 ∨ n = 2) (hx : c.oen = true → d.isV = true) (l l' x : Nat) (y : Spec) (h : l < 32) (h' : l' < 32) :
    (w.putDest c d n l x).cell y l' =
      if l' = l then
        written (destAt c d n y) x (w.cell y l')
      else w.cell y l' := by
  have key : ∀ u : Warp, (Warp.putWide n u (.o c.oidx) l x).cell y l' =
      if l' = l then
        written (Spec.indexIn y (.o c.oidx) n) x (u.cell y l')
      else u.cell y l' := by
    intro u; rw [cell_putWide u (.o c.oidx) rfl n hn l l' x y h h']; simp [Spec.isS]
  unfold Warp.putDest destAt
  cases hnd : c.nodst <;> cases hoe : c.oen <;>
    simp only [Bool.false_eq_true, if_true, if_false, key, cell_putWide w d hd n hn l l' x y h h', hS, or_false]
  · split
    · cases Spec.indexIn y d n <;> rfl
    · rfl
  · split
    · cases hi : Spec.indexIn y d n with
      | none => rfl
      | some j =>
        have hv : d.isV = true := hx hoe
        cases d <;> simp only [Spec.isV, Bool.false_eq_true] at hv
        have hno : Spec.indexIn y (.o c.oidx) n = none := by
          unfold Spec.indexIn at hi ⊢
          split at hi
          · rename_i e; subst e; simp [Spec.next]
          · split at hi
            · rename_i e; rw [e.2]; simp [Spec.next]
            · cases hi
        simp [hno]
    · rfl
  · simp

theorem cell_foldDest (c : Ctl) (d : Spec) (hd : Spec.isFile d = true) (hS : d.isS = false) (n : Nat)
    (hn : n = 1 ∨ n = 2) (hx : c.oen = true → d.isV = true) (f : Nat → Nat) (ls : List Nat) (hls : ∀ j ∈ ls, j < 32) (w : Warp)
    (y : Spec) (l : Nat) (hl : l < 32) :
    (ls.foldl (fun v j => v.putDest c d n j (f j)) w).cell y l =
      if l ∈ ls then
        written (destAt c d n y) (f l) (w.cell y l)
      else w.cell y l := by
  induction ls generalizing w with
  | nil => simp
  | cons j ls ih =>
    have hj : j < 32 := hls j (List.mem_cons_self ..)
    rw [List.foldl_cons, ih (fun i hi => hls i (List.mem_cons_of_mem _ hi)),
      cell_putDest w c d hd hS n hn hx j l _ y hj hl]
    by_cases e : l = j
    · subst e; cases destAt c d n y <;> simp
    · simp [e]

@[simp] theorem cell_putLast (w : Warp) (n : Nat) (act : Lanes) (f : Nat → Nat) (y : Spec) (l : Nat) :
    (w.putLast n act f).cell y l = w.cell y l := by
  unfold Warp.putLast; dsimp only; split <;> cases y <;> rfl

/-- A vector result: the destinations of every active lane hold it, and every other register is as before (R74, R122). -/
theorem cell_putResult (w : Warp) (c : Ctl) (d : Spec) (hd : Spec.isFile d = true) (hS : d.isS = false) (n : Nat)
    (hn : n = 1 ∨ n = 2) (hx : c.oen = true → d.isV = true) (act : Lanes) (f : Nat → Nat) (y : Spec) (l : Nat) (hl : l < 32) :
    (w.putResult c d n act f).cell y l =
      if act.getLsbD l then
        written (destAt c d n y) (f l) (w.cell y l)
      else w.cell y l := by
  rw [Warp.putResult, cell_putLast, cell_foldDest c d hd hS n hn hx f _ (by simp +contextual) w y l hl]
  simp [hl]

theorem cell_foldWide (d : Spec) (hd : Spec.isFile d = true) (hS : d.isS = false) (n : Nat) (hn : n = 1 ∨ n = 2)
    (f : Nat → Nat) (ls : List Nat) (hls : ∀ j ∈ ls, j < 32) (w : Warp) (y : Spec) (l : Nat) (hl : l < 32) :
    (ls.foldl (fun v j => Warp.putWide n v d j (f j)) w).cell y l =
      if l ∈ ls then
        written (Spec.indexIn y d n) (f l) (w.cell y l)
      else w.cell y l := by
  induction ls generalizing w with
  | nil => simp
  | cons j ls ih =>
    have hj : j < 32 := hls j (List.mem_cons_self ..)
    rw [List.foldl_cons, ih (fun i hi => hls i (List.mem_cons_of_mem _ hi)), cell_putWide w d hd n hn j l _ y hj hl]
    by_cases e : l = j
    · subst e; cases Spec.indexIn y d n <;> simp
    · simp [e, hS]

/-- Lanes written without a change of the last-result names (R148). -/
theorem cell_putLanes (w : Warp) (d : Spec) (hd : Spec.isFile d = true) (hS : d.isS = false) (n : Nat) (hn : n = 1 ∨ n = 2)
    (act : Lanes) (f : Nat → Nat) (y : Spec) (l : Nat) (hl : l < 32) :
    (w.putLanes d n act f).cell y l =
      if act.getLsbD l then
        written (Spec.indexIn y d n) (f l) (w.cell y l)
      else w.cell y l := by
  rw [Warp.putLanes, cell_foldWide d hd hS n hn f _ (by simp +contextual) w y l hl]
  simp [hl]

/-- A V register with no early read open reads as it stands (R55). -/
theorem readV_of_cell {w : Warp} {n : BitVec 8} {l k : Nat} {x : Word} (h : w.cell (.v n) l = (x, none)) :
    w.readV n.toNat l k = x := by
  simp only [Warp.cell, Prod.mk.injEq] at h
  simp only [Warp.readV, h.2, h.1]

/-! ### L0 and L1 -/

theorem find_lanes (f : Nat → Word) (ls : List Nat) (l : Nat) :
    Map.getD (ls.map fun k => (k, f k)) l 0 = if l ∈ ls then f l else 0 := by
  induction ls with
  | nil => rfl
  | cons k ls ih =>
    by_cases e : l = k
    · subst e; simp [Map.getD, Map.find]
    · simp only [Map.getD] at ih
      simp only [Map.getD, List.map_cons, Map.find, e, if_false, ih, List.mem_cons, false_or]

/-- L0 and L1 after a result of one or two registers (R51). -/
theorem lastResult_putLast (s t : State) (w : Warp) (n : Nat) (hn : n = 1 ∨ n = 2) (act : Lanes) (f : Nat → Nat)
    (h0 : w.l0 = s.w.l0) (e0 : t.w.l0 = (w.putLast n act f).l0) (e1 : t.w.l1 = (w.putLast n act f).l1)
    (e2 : t.w.lprod = (w.putLast n act f).lprod) : LastResult act n f s t := by
  have hw : ∀ g : Nat → Word, ∀ l, l < 32 →
      Map.getD ((lanesOf act).map fun k => (k, g k)) l 0 = if act.getLsbD l then g l else 0 := by
    intro g l hl; rw [find_lanes]; simp [hl]
  unfold Warp.putLast at e0 e1 e2
  rcases hn with rfl | rfl
  · rw [if_neg (by omega)] at e0 e1 e2
    refine ⟨?_, ?_, ?_, ?_⟩
    · rw [e2]; dsimp only; split <;> decide
    · intro l hl; rw [e0]; simpa [wordAt] using hw (fun k => BitVec.ofNat 32 (f k)) l hl
    · intro _; rw [e1]; exact h0
    · omega
  · rw [if_pos rfl] at e0 e1 e2
    refine ⟨?_, ?_, by omega, ?_⟩
    · rw [e2]; dsimp only; decide
    · intro l hl; rw [e0]; simpa [wordAt] using hw (fun k => BitVec.ofNat 32 (f k)) l hl
    · intro _; refine ⟨by rw [e2]; dsimp only; decide, ?_⟩
      intro l hl; rw [e1]; exact hw (fun k => BitVec.ofNat 32 (f k / 2 ^ 32)) l hl

/-! ### Predicates -/

/-- A predicate after a write: P7 discards it, other lanes keep theirs (R52). -/
theorem pred_putPred (w : Warp) (n m : Nat) (act val : Lanes) :
    (w.putPred n act val).pred m = if m = n ∧ n ≠ 7 then (w.pred m &&& ~~~ act) ||| (val &&& act) else w.pred m := by
  unfold Warp.putPred Warp.pred
  by_cases hn : n = 7
  · simp [hn]
  · simp only [hn, if_false, Map.getD_putC]
    by_cases hm : m = n
    · simp [hm, hn]
    · simp [hm]

/-- A scalar predicate after a write (R52). -/
theorem spred_putSp (w : Warp) (n m : Nat) (b : Bool) (hn : n < 4) :
    (w.putSp n b).spred m = if m = n then b else w.spred m := by
  unfold Warp.putSp Warp.spred
  simp only [hn, if_true]
  by_cases hm : m < 4
  · simp only [hm, if_true]
    obtain rfl | rfl | rfl | rfl : n = 0 ∨ n = 1 ∨ n = 2 ∨ n = 3 := by omega
    all_goals obtain rfl | rfl | rfl | rfl : m = 0 ∨ m = 1 ∨ m = 2 ∨ m = 3 := by omega
    all_goals cases b <;> simp
  · have : m ≠ n := by omega
    simp [hm, this]

end Machine

end Sys2Proof
end

