-- ==== Sys2Proof/Laws/Kept.lean ====
section
/-! SUPPORT. The fields of a warp that each register-writing operation leaves alone. -/

namespace Sys2Proof.Machine

@[simp] theorem Warp.putSpec_live (w : Warp) (d : Spec) (l : Nat) (x : Word) : (w.putSpec d l x).live = w.live := by cases d <;> rfl
@[simp] theorem Warp.putSpec_uid (w : Warp) (d : Spec) (l : Nat) (x : Word) : (w.putSpec d l x).uid = w.uid := by cases d <;> rfl
@[simp] theorem Warp.putSpec_ctx (w : Warp) (d : Spec) (l : Nat) (x : Word) : (w.putSpec d l x).ctx = w.ctx := by cases d <;> rfl
@[simp] theorem Warp.putSpec_core (w : Warp) (d : Spec) (l : Nat) (x : Word) : (w.putSpec d l x).core = w.core := by cases d <;> rfl
@[simp] theorem Warp.putSpec_seq (w : Warp) (d : Spec) (l : Nat) (x : Word) : (w.putSpec d l x).seq = w.seq := by cases d <;> rfl
@[simp] theorem Warp.putSpec_part (w : Warp) (d : Spec) (l : Nat) (x : Word) : (w.putSpec d l x).part = w.part := by cases d <;> rfl
@[simp] theorem Warp.putSpec_task (w : Warp) (d : Spec) (l : Nat) (x : Word) : (w.putSpec d l x).task = w.task := by cases d <;> rfl
@[simp] theorem Warp.putSpec_blk (w : Warp) (d : Spec) (l : Nat) (x : Word) : (w.putSpec d l x).blk = w.blk := by cases d <;> rfl
@[simp] theorem Warp.putSpec_hdr (w : Warp) (d : Spec) (l : Nat) (x : Word) : (w.putSpec d l x).hdr = w.hdr := by cases d <;> rfl
@[simp] theorem Warp.putSpec_base (w : Warp) (d : Spec) (l : Nat) (x : Word) : (w.putSpec d l x).base = w.base := by cases d <;> rfl
@[simp] theorem Warp.putSpec_pc (w : Warp) (d : Spec) (l : Nat) (x : Word) : (w.putSpec d l x).pc = w.pc := by cases d <;> rfl
@[simp] theorem Warp.putSpec_block (w : Warp) (d : Spec) (l : Nat) (x : Word) : (w.putSpec d l x).block = w.block := by cases d <;> rfl
@[simp] theorem Warp.putSpec_issued (w : Warp) (d : Spec) (l : Nat) (x : Word) : (w.putSpec d l x).issued = w.issued := by cases d <;> rfl
@[simp] theorem Warp.putSpec_filled (w : Warp) (d : Spec) (l : Nat) (x : Word) : (w.putSpec d l x).filled = w.filled := by cases d <;> rfl
@[simp] theorem Warp.putSpec_frame (w : Warp) (d : Spec) (l : Nat) (x : Word) : (w.putSpec d l x).frame = w.frame := by cases d <;> rfl
@[simp] theorem Warp.putSpec_tag (w : Warp) (d : Spec) (l : Nat) (x : Word) : (w.putSpec d l x).tag = w.tag := by cases d <;> rfl
@[simp] theorem Warp.putSpec_l0 (w : Warp) (d : Spec) (l : Nat) (x : Word) : (w.putSpec d l x).l0 = w.l0 := by cases d <;> rfl
@[simp] theorem Warp.putSpec_l1 (w : Warp) (d : Spec) (l : Nat) (x : Word) : (w.putSpec d l x).l1 = w.l1 := by cases d <;> rfl
@[simp] theorem Warp.putSpec_lprod (w : Warp) (d : Spec) (l : Nat) (x : Word) : (w.putSpec d l x).lprod = w.lprod := by cases d <;> rfl
@[simp] theorem Warp.putSpec_p (w : Warp) (d : Spec) (l : Nat) (x : Word) : (w.putSpec d l x).p = w.p := by cases d <;> rfl
@[simp] theorem Warp.putSpec_pz (w : Warp) (d : Spec) (l : Nat) (x : Word) : (w.putSpec d l x).pz = w.pz := by cases d <;> rfl
@[simp] theorem Warp.putSpec_sp (w : Warp) (d : Spec) (l : Nat) (x : Word) : (w.putSpec d l x).sp = w.sp := by cases d <;> rfl
@[simp] theorem Warp.putSpec_t (w : Warp) (d : Spec) (l : Nat) (x : Word) : (w.putSpec d l x).t = w.t := by cases d <;> rfl
@[simp] theorem Warp.putSpec_ldc (w : Warp) (d : Spec) (l : Nat) (x : Word) : (w.putSpec d l x).ldc = w.ldc := by cases d <;> rfl
@[simp] theorem Warp.putSpec_stc (w : Warp) (d : Spec) (l : Nat) (x : Word) : (w.putSpec d l x).stc = w.stc := by cases d <;> rfl
@[simp] theorem Warp.putSpec_cpc (w : Warp) (d : Spec) (l : Nat) (x : Word) : (w.putSpec d l x).cpc = w.cpc := by cases d <;> rfl
@[simp] theorem Warp.putSpec_tlc (w : Warp) (d : Spec) (l : Nat) (x : Word) : (w.putSpec d l x).tlc = w.tlc := by cases d <;> rfl
@[simp] theorem Warp.putSpec_fmode (w : Warp) (d : Spec) (l : Nat) (x : Word) : (w.putSpec d l x).fmode = w.fmode := by cases d <;> rfl
@[simp] theorem Warp.putSpec_srseed (w : Warp) (d : Spec) (l : Nat) (x : Word) : (w.putSpec d l x).srseed = w.srseed := by cases d <;> rfl
@[simp] theorem Warp.putSpec_tilecoord (w : Warp) (d : Spec) (l : Nat) (x : Word) : (w.putSpec d l x).tilecoord = w.tilecoord := by cases d <;> rfl
@[simp] theorem Warp.putSpec_ord (w : Warp) (d : Spec) (l : Nat) (x : Word) : (w.putSpec d l x).ord = w.ord := by cases d <;> rfl
@[simp] theorem Warp.putSpec_pend (w : Warp) (d : Spec) (l : Nat) (x : Word) : (w.putSpec d l x).pend = w.pend := by cases d <;> rfl
@[simp] theorem Warp.putSpec_relAfter (w : Warp) (d : Spec) (l : Nat) (x : Word) : (w.putSpec d l x).relAfter = w.relAfter := by cases d <;> rfl
@[simp] theorem Warp.putSpec_acqAfter (w : Warp) (d : Spec) (l : Nat) (x : Word) : (w.putSpec d l x).acqAfter = w.acqAfter := by cases d <;> rfl
@[simp] theorem Warp.putSpec_qfences (w : Warp) (d : Spec) (l : Nat) (x : Word) : (w.putSpec d l x).qfences = w.qfences := by cases d <;> rfl
@[simp] theorem Warp.putSpec_status (w : Warp) (d : Spec) (l : Nat) (x : Word) : (w.putSpec d l x).status = w.status := by cases d <;> rfl
@[simp] theorem Warp.putSpec_heldCount (w : Warp) (d : Spec) (l : Nat) (x : Word) : (w.putSpec d l x).heldCount = w.heldCount := by cases d <;> rfl

@[simp] theorem Warp.putWide_live (w : Warp) (n : Nat) (d : Spec) (l x : Nat) : (Warp.putWide n w d l x).live = w.live := by
  induction n generalizing w d x with
  | zero => rfl
  | succ n ih => simp [Warp.putWide, ih]
@[simp] theorem Warp.putWide_uid (w : Warp) (n : Nat) (d : Spec) (l x : Nat) : (Warp.putWide n w d l x).uid = w.uid := by
  induction n generalizing w d x with
  | zero => rfl
  | succ n ih => simp [Warp.putWide, ih]
@[simp] theorem Warp.putWide_ctx (w : Warp) (n : Nat) (d : Spec) (l x : Nat) : (Warp.putWide n w d l x).ctx = w.ctx := by
  induction n generalizing w d x with
  | zero => rfl
  | succ n ih => simp [Warp.putWide, ih]
@[simp] theorem Warp.putWide_core (w : Warp) (n : Nat) (d : Spec) (l x : Nat) : (Warp.putWide n w d l x).core = w.core := by
  induction n generalizing w d x with
  | zero => rfl
  | succ n ih => simp [Warp.putWide, ih]
@[simp] theorem Warp.putWide_seq (w : Warp) (n : Nat) (d : Spec) (l x : Nat) : (Warp.putWide n w d l x).seq = w.seq := by
  induction n generalizing w d x with
  | zero => rfl
  | succ n ih => simp [Warp.putWide, ih]
@[simp] theorem Warp.putWide_part (w : Warp) (n : Nat) (d : Spec) (l x : Nat) : (Warp.putWide n w d l x).part = w.part := by
  induction n generalizing w d x with
  | zero => rfl
  | succ n ih => simp [Warp.putWide, ih]
@[simp] theorem Warp.putWide_task (w : Warp) (n : Nat) (d : Spec) (l x : Nat) : (Warp.putWide n w d l x).task = w.task := by
  induction n generalizing w d x with
  | zero => rfl
  | succ n ih => simp [Warp.putWide, ih]
@[simp] theorem Warp.putWide_blk (w : Warp) (n : Nat) (d : Spec) (l x : Nat) : (Warp.putWide n w d l x).blk = w.blk := by
  induction n generalizing w d x with
  | zero => rfl
  | succ n ih => simp [Warp.putWide, ih]
@[simp] theorem Warp.putWide_hdr (w : Warp) (n : Nat) (d : Spec) (l x : Nat) : (Warp.putWide n w d l x).hdr = w.hdr := by
  induction n generalizing w d x with
  | zero => rfl
  | succ n ih => simp [Warp.putWide, ih]
@[simp] theorem Warp.putWide_base (w : Warp) (n : Nat) (d : Spec) (l x : Nat) : (Warp.putWide n w d l x).base = w.base := by
  induction n generalizing w d x with
  | zero => rfl
  | succ n ih => simp [Warp.putWide, ih]
@[simp] theorem Warp.putWide_pc (w : Warp) (n : Nat) (d : Spec) (l x : Nat) : (Warp.putWide n w d l x).pc = w.pc := by
  induction n generalizing w d x with
  | zero => rfl
  | succ n ih => simp [Warp.putWide, ih]
@[simp] theorem Warp.putWide_block (w : Warp) (n : Nat) (d : Spec) (l x : Nat) : (Warp.putWide n w d l x).block = w.block := by
  induction n generalizing w d x with
  | zero => rfl
  | succ n ih => simp [Warp.putWide, ih]
@[simp] theorem Warp.putWide_issued (w : Warp) (n : Nat) (d : Spec) (l x : Nat) : (Warp.putWide n w d l x).issued = w.issued := by
  induction n generalizing w d x with
  | zero => rfl
  | succ n ih => simp [Warp.putWide, ih]
@[simp] theorem Warp.putWide_filled (w : Warp) (n : Nat) (d : Spec) (l x : Nat) : (Warp.putWide n w d l x).filled = w.filled := by
  induction n generalizing w d x with
  | zero => rfl
  | succ n ih => simp [Warp.putWide, ih]
@[simp] theorem Warp.putWide_frame (w : Warp) (n : Nat) (d : Spec) (l x : Nat) : (Warp.putWide n w d l x).frame = w.frame := by
  induction n generalizing w d x with
  | zero => rfl
  | succ n ih => simp [Warp.putWide, ih]
@[simp] theorem Warp.putWide_tag (w : Warp) (n : Nat) (d : Spec) (l x : Nat) : (Warp.putWide n w d l x).tag = w.tag := by
  induction n generalizing w d x with
  | zero => rfl
  | succ n ih => simp [Warp.putWide, ih]
@[simp] theorem Warp.putWide_l0 (w : Warp) (n : Nat) (d : Spec) (l x : Nat) : (Warp.putWide n w d l x).l0 = w.l0 := by
  induction n generalizing w d x with
  | zero => rfl
  | succ n ih => simp [Warp.putWide, ih]
@[simp] theorem Warp.putWide_l1 (w : Warp) (n : Nat) (d : Spec) (l x : Nat) : (Warp.putWide n w d l x).l1 = w.l1 := by
  induction n generalizing w d x with
  | zero => rfl
  | succ n ih => simp [Warp.putWide, ih]
@[simp] theorem Warp.putWide_lprod (w : Warp) (n : Nat) (d : Spec) (l x : Nat) : (Warp.putWide n w d l x).lprod = w.lprod := by
  induction n generalizing w d x with
  | zero => rfl
  | succ n ih => simp [Warp.putWide, ih]
@[simp] theorem Warp.putWide_p (w : Warp) (n : Nat) (d : Spec) (l x : Nat) : (Warp.putWide n w d l x).p = w.p := by
  induction n generalizing w d x with
  | zero => rfl
  | succ n ih => simp [Warp.putWide, ih]
@[simp] theorem Warp.putWide_pz (w : Warp) (n : Nat) (d : Spec) (l x : Nat) : (Warp.putWide n w d l x).pz = w.pz := by
  induction n generalizing w d x with
  | zero => rfl
  | succ n ih => simp [Warp.putWide, ih]
@[simp] theorem Warp.putWide_sp (w : Warp) (n : Nat) (d : Spec) (l x : Nat) : (Warp.putWide n w d l x).sp = w.sp := by
  induction n generalizing w d x with
  | zero => rfl
  | succ n ih => simp [Warp.putWide, ih]
@[simp] theorem Warp.putWide_t (w : Warp) (n : Nat) (d : Spec) (l x : Nat) : (Warp.putWide n w d l x).t = w.t := by
  induction n generalizing w d x with
  | zero => rfl
  | succ n ih => simp [Warp.putWide, ih]
@[simp] theorem Warp.putWide_ldc (w : Warp) (n : Nat) (d : Spec) (l x : Nat) : (Warp.putWide n w d l x).ldc = w.ldc := by
  induction n generalizing w d x with
  | zero => rfl
  | succ n ih => simp [Warp.putWide, ih]
@[simp] theorem Warp.putWide_stc (w : Warp) (n : Nat) (d : Spec) (l x : Nat) : (Warp.putWide n w d l x).stc = w.stc := by
  induction n generalizing w d x with
  | zero => rfl
  | succ n ih => simp [Warp.putWide, ih]
@[simp] theorem Warp.putWide_cpc (w : Warp) (n : Nat) (d : Spec) (l x : Nat) : (Warp.putWide n w d l x).cpc = w.cpc := by
  induction n generalizing w d x with
  | zero => rfl
  | succ n ih => simp [Warp.putWide, ih]
@[simp] theorem Warp.putWide_tlc (w : Warp) (n : Nat) (d : Spec) (l x : Nat) : (Warp.putWide n w d l x).tlc = w.tlc := by
  induction n generalizing w d x with
  | zero => rfl
  | succ n ih => simp [Warp.putWide, ih]
@[simp] theorem Warp.putWide_fmode (w : Warp) (n : Nat) (d : Spec) (l x : Nat) : (Warp.putWide n w d l x).fmode = w.fmode := by
  induction n generalizing w d x with
  | zero => rfl
  | succ n ih => simp [Warp.putWide, ih]
@[simp] theorem Warp.putWide_srseed (w : Warp) (n : Nat) (d : Spec) (l x : Nat) : (Warp.putWide n w d l x).srseed = w.srseed := by
  induction n generalizing w d x with
  | zero => rfl
  | succ n ih => simp [Warp.putWide, ih]
@[simp] theorem Warp.putWide_tilecoord (w : Warp) (n : Nat) (d : Spec) (l x : Nat) : (Warp.putWide n w d l x).tilecoord = w.tilecoord := by
  induction n generalizing w d x with
  | zero => rfl
  | succ n ih => simp [Warp.putWide, ih]
@[simp] theorem Warp.putWide_ord (w : Warp) (n : Nat) (d : Spec) (l x : Nat) : (Warp.putWide n w d l x).ord = w.ord := by
  induction n generalizing w d x with
  | zero => rfl
  | succ n ih => simp [Warp.putWide, ih]
@[simp] theorem Warp.putWide_pend (w : Warp) (n : Nat) (d : Spec) (l x : Nat) : (Warp.putWide n w d l x).pend = w.pend := by
  induction n generalizing w d x with
  | zero => rfl
  | succ n ih => simp [Warp.putWide, ih]
@[simp] theorem Warp.putWide_relAfter (w : Warp) (n : Nat) (d : Spec) (l x : Nat) : (Warp.putWide n w d l x).relAfter = w.relAfter := by
  induction n generalizing w d x with
  | zero => rfl
  | succ n ih => simp [Warp.putWide, ih]
@[simp] theorem Warp.putWide_acqAfter (w : Warp) (n : Nat) (d : Spec) (l x : Nat) : (Warp.putWide n w d l x).acqAfter = w.acqAfter := by
  induction n generalizing w d x with
  | zero => rfl
  | succ n ih => simp [Warp.putWide, ih]
@[simp] theorem Warp.putWide_qfences (w : Warp) (n : Nat) (d : Spec) (l x : Nat) : (Warp.putWide n w d l x).qfences = w.qfences := by
  induction n generalizing w d x with
  | zero => rfl
  | succ n ih => simp [Warp.putWide, ih]
@[simp] theorem Warp.putWide_status (w : Warp) (n : Nat) (d : Spec) (l x : Nat) : (Warp.putWide n w d l x).status = w.status := by
  induction n generalizing w d x with
  | zero => rfl
  | succ n ih => simp [Warp.putWide, ih]
@[simp] theorem Warp.putWide_heldCount (w : Warp) (n : Nat) (d : Spec) (l x : Nat) : (Warp.putWide n w d l x).heldCount = w.heldCount := by
  induction n generalizing w d x with
  | zero => rfl
  | succ n ih => simp [Warp.putWide, ih]

@[simp] theorem Warp.putDest_live (w : Warp) (c : Ctl) (d : Spec) (n l x : Nat) : (w.putDest c d n l x).live = w.live := by
  unfold Warp.putDest; dsimp only; split <;> split <;> simp
@[simp] theorem Warp.putDest_uid (w : Warp) (c : Ctl) (d : Spec) (n l x : Nat) : (w.putDest c d n l x).uid = w.uid := by
  unfold Warp.putDest; dsimp only; split <;> split <;> simp
@[simp] theorem Warp.putDest_ctx (w : Warp) (c : Ctl) (d : Spec) (n l x : Nat) : (w.putDest c d n l x).ctx = w.ctx := by
  unfold Warp.putDest; dsimp only; split <;> split <;> simp
@[simp] theorem Warp.putDest_core (w : Warp) (c : Ctl) (d : Spec) (n l x : Nat) : (w.putDest c d n l x).core = w.core := by
  unfold Warp.putDest; dsimp only; split <;> split <;> simp
@[simp] theorem Warp.putDest_seq (w : Warp) (c : Ctl) (d : Spec) (n l x : Nat) : (w.putDest c d n l x).seq = w.seq := by
  unfold Warp.putDest; dsimp only; split <;> split <;> simp
@[simp] theorem Warp.putDest_part (w : Warp) (c : Ctl) (d : Spec) (n l x : Nat) : (w.putDest c d n l x).part = w.part := by
  unfold Warp.putDest; dsimp only; split <;> split <;> simp
@[simp] theorem Warp.putDest_task (w : Warp) (c : Ctl) (d : Spec) (n l x : Nat) : (w.putDest c d n l x).task = w.task := by
  unfold Warp.putDest; dsimp only; split <;> split <;> simp
@[simp] theorem Warp.putDest_blk (w : Warp) (c : Ctl) (d : Spec) (n l x : Nat) : (w.putDest c d n l x).blk = w.blk := by
  unfold Warp.putDest; dsimp only; split <;> split <;> simp
@[simp] theorem Warp.putDest_hdr (w : Warp) (c : Ctl) (d : Spec) (n l x : Nat) : (w.putDest c d n l x).hdr = w.hdr := by
  unfold Warp.putDest; dsimp only; split <;> split <;> simp
@[simp] theorem Warp.putDest_base (w : Warp) (c : Ctl) (d : Spec) (n l x : Nat) : (w.putDest c d n l x).base = w.base := by
  unfold Warp.putDest; dsimp only; split <;> split <;> simp
@[simp] theorem Warp.putDest_pc (w : Warp) (c : Ctl) (d : Spec) (n l x : Nat) : (w.putDest c d n l x).pc = w.pc := by
  unfold Warp.putDest; dsimp only; split <;> split <;> simp
@[simp] theorem Warp.putDest_block (w : Warp) (c : Ctl) (d : Spec) (n l x : Nat) : (w.putDest c d n l x).block = w.block := by
  unfold Warp.putDest; dsimp only; split <;> split <;> simp
@[simp] theorem Warp.putDest_issued (w : Warp) (c : Ctl) (d : Spec) (n l x : Nat) : (w.putDest c d n l x).issued = w.issued := by
  unfold Warp.putDest; dsimp only; split <;> split <;> simp
@[simp] theorem Warp.putDest_filled (w : Warp) (c : Ctl) (d : Spec) (n l x : Nat) : (w.putDest c d n l x).filled = w.filled := by
  unfold Warp.putDest; dsimp only; split <;> split <;> simp
@[simp] theorem Warp.putDest_frame (w : Warp) (c : Ctl) (d : Spec) (n l x : Nat) : (w.putDest c d n l x).frame = w.frame := by
  unfold Warp.putDest; dsimp only; split <;> split <;> simp
@[simp] theorem Warp.putDest_tag (w : Warp) (c : Ctl) (d : Spec) (n l x : Nat) : (w.putDest c d n l x).tag = w.tag := by
  unfold Warp.putDest; dsimp only; split <;> split <;> simp
@[simp] theorem Warp.putDest_l0 (w : Warp) (c : Ctl) (d : Spec) (n l x : Nat) : (w.putDest c d n l x).l0 = w.l0 := by
  unfold Warp.putDest; dsimp only; split <;> split <;> simp
@[simp] theorem Warp.putDest_l1 (w : Warp) (c : Ctl) (d : Spec) (n l x : Nat) : (w.putDest c d n l x).l1 = w.l1 := by
  unfold Warp.putDest; dsimp only; split <;> split <;> simp
@[simp] theorem Warp.putDest_lprod (w : Warp) (c : Ctl) (d : Spec) (n l x : Nat) : (w.putDest c d n l x).lprod = w.lprod := by
  unfold Warp.putDest; dsimp only; split <;> split <;> simp
@[simp] theorem Warp.putDest_p (w : Warp) (c : Ctl) (d : Spec) (n l x : Nat) : (w.putDest c d n l x).p = w.p := by
  unfold Warp.putDest; dsimp only; split <;> split <;> simp
@[simp] theorem Warp.putDest_pz (w : Warp) (c : Ctl) (d : Spec) (n l x : Nat) : (w.putDest c d n l x).pz = w.pz := by
  unfold Warp.putDest; dsimp only; split <;> split <;> simp
@[simp] theorem Warp.putDest_sp (w : Warp) (c : Ctl) (d : Spec) (n l x : Nat) : (w.putDest c d n l x).sp = w.sp := by
  unfold Warp.putDest; dsimp only; split <;> split <;> simp
@[simp] theorem Warp.putDest_t (w : Warp) (c : Ctl) (d : Spec) (n l x : Nat) : (w.putDest c d n l x).t = w.t := by
  unfold Warp.putDest; dsimp only; split <;> split <;> simp
@[simp] theorem Warp.putDest_ldc (w : Warp) (c : Ctl) (d : Spec) (n l x : Nat) : (w.putDest c d n l x).ldc = w.ldc := by
  unfold Warp.putDest; dsimp only; split <;> split <;> simp
@[simp] theorem Warp.putDest_stc (w : Warp) (c : Ctl) (d : Spec) (n l x : Nat) : (w.putDest c d n l x).stc = w.stc := by
  unfold Warp.putDest; dsimp only; split <;> split <;> simp
@[simp] theorem Warp.putDest_cpc (w : Warp) (c : Ctl) (d : Spec) (n l x : Nat) : (w.putDest c d n l x).cpc = w.cpc := by
  unfold Warp.putDest; dsimp only; split <;> split <;> simp
@[simp] theorem Warp.putDest_tlc (w : Warp) (c : Ctl) (d : Spec) (n l x : Nat) : (w.putDest c d n l x).tlc = w.tlc := by
  unfold Warp.putDest; dsimp only; split <;> split <;> simp
@[simp] theorem Warp.putDest_fmode (w : Warp) (c : Ctl) (d : Spec) (n l x : Nat) : (w.putDest c d n l x).fmode = w.fmode := by
  unfold Warp.putDest; dsimp only; split <;> split <;> simp
@[simp] theorem Warp.putDest_srseed (w : Warp) (c : Ctl) (d : Spec) (n l x : Nat) : (w.putDest c d n l x).srseed = w.srseed := by
  unfold Warp.putDest; dsimp only; split <;> split <;> simp
@[simp] theorem Warp.putDest_tilecoord (w : Warp) (c : Ctl) (d : Spec) (n l x : Nat) : (w.putDest c d n l x).tilecoord = w.tilecoord := by
  unfold Warp.putDest; dsimp only; split <;> split <;> simp
@[simp] theorem Warp.putDest_ord (w : Warp) (c : Ctl) (d : Spec) (n l x : Nat) : (w.putDest c d n l x).ord = w.ord := by
  unfold Warp.putDest; dsimp only; split <;> split <;> simp
@[simp] theorem Warp.putDest_pend (w : Warp) (c : Ctl) (d : Spec) (n l x : Nat) : (w.putDest c d n l x).pend = w.pend := by
  unfold Warp.putDest; dsimp only; split <;> split <;> simp
@[simp] theorem Warp.putDest_relAfter (w : Warp) (c : Ctl) (d : Spec) (n l x : Nat) : (w.putDest c d n l x).relAfter = w.relAfter := by
  unfold Warp.putDest; dsimp only; split <;> split <;> simp
@[simp] theorem Warp.putDest_acqAfter (w : Warp) (c : Ctl) (d : Spec) (n l x : Nat) : (w.putDest c d n l x).acqAfter = w.acqAfter := by
  unfold Warp.putDest; dsimp only; split <;> split <;> simp
@[simp] theorem Warp.putDest_qfences (w : Warp) (c : Ctl) (d : Spec) (n l x : Nat) : (w.putDest c d n l x).qfences = w.qfences := by
  unfold Warp.putDest; dsimp only; split <;> split <;> simp
@[simp] theorem Warp.putDest_status (w : Warp) (c : Ctl) (d : Spec) (n l x : Nat) : (w.putDest c d n l x).status = w.status := by
  unfold Warp.putDest; dsimp only; split <;> split <;> simp
@[simp] theorem Warp.putDest_heldCount (w : Warp) (c : Ctl) (d : Spec) (n l x : Nat) : (w.putDest c d n l x).heldCount = w.heldCount := by
  unfold Warp.putDest; dsimp only; split <;> split <;> simp

@[simp] theorem Warp.foldDest_live (w : Warp) (c : Ctl) (d : Spec) (n : Nat) (f : Nat → Nat) (ls : List Nat) : (ls.foldl (fun v l => v.putDest c d n l (f l)) w).live = w.live := by
  induction ls generalizing w with
  | nil => rfl
  | cons l ls ih => simp [ih]
@[simp] theorem Warp.foldDest_uid (w : Warp) (c : Ctl) (d : Spec) (n : Nat) (f : Nat → Nat) (ls : List Nat) : (ls.foldl (fun v l => v.putDest c d n l (f l)) w).uid = w.uid := by
  induction ls generalizing w with
  | nil => rfl
  | cons l ls ih => simp [ih]
@[simp] theorem Warp.foldDest_ctx (w : Warp) (c : Ctl) (d : Spec) (n : Nat) (f : Nat → Nat) (ls : List Nat) : (ls.foldl (fun v l => v.putDest c d n l (f l)) w).ctx = w.ctx := by
  induction ls generalizing w with
  | nil => rfl
  | cons l ls ih => simp [ih]
@[simp] theorem Warp.foldDest_core (w : Warp) (c : Ctl) (d : Spec) (n : Nat) (f : Nat → Nat) (ls : List Nat) : (ls.foldl (fun v l => v.putDest c d n l (f l)) w).core = w.core := by
  induction ls generalizing w with
  | nil => rfl
  | cons l ls ih => simp [ih]
@[simp] theorem Warp.foldDest_seq (w : Warp) (c : Ctl) (d : Spec) (n : Nat) (f : Nat → Nat) (ls : List Nat) : (ls.foldl (fun v l => v.putDest c d n l (f l)) w).seq = w.seq := by
  induction ls generalizing w with
  | nil => rfl
  | cons l ls ih => simp [ih]
@[simp] theorem Warp.foldDest_part (w : Warp) (c : Ctl) (d : Spec) (n : Nat) (f : Nat → Nat) (ls : List Nat) : (ls.foldl (fun v l => v.putDest c d n l (f l)) w).part = w.part := by
  induction ls generalizing w with
  | nil => rfl
  | cons l ls ih => simp [ih]
@[simp] theorem Warp.foldDest_task (w : Warp) (c : Ctl) (d : Spec) (n : Nat) (f : Nat → Nat) (ls : List Nat) : (ls.foldl (fun v l => v.putDest c d n l (f l)) w).task = w.task := by
  induction ls generalizing w with
  | nil => rfl
  | cons l ls ih => simp [ih]
@[simp] theorem Warp.foldDest_blk (w : Warp) (c : Ctl) (d : Spec) (n : Nat) (f : Nat → Nat) (ls : List Nat) : (ls.foldl (fun v l => v.putDest c d n l (f l)) w).blk = w.blk := by
  induction ls generalizing w with
  | nil => rfl
  | cons l ls ih => simp [ih]
@[simp] theorem Warp.foldDest_hdr (w : Warp) (c : Ctl) (d : Spec) (n : Nat) (f : Nat → Nat) (ls : List Nat) : (ls.foldl (fun v l => v.putDest c d n l (f l)) w).hdr = w.hdr := by
  induction ls generalizing w with
  | nil => rfl
  | cons l ls ih => simp [ih]
@[simp] theorem Warp.foldDest_base (w : Warp) (c : Ctl) (d : Spec) (n : Nat) (f : Nat → Nat) (ls : List Nat) : (ls.foldl (fun v l => v.putDest c d n l (f l)) w).base = w.base := by
  induction ls generalizing w with
  | nil => rfl
  | cons l ls ih => simp [ih]
@[simp] theorem Warp.foldDest_pc (w : Warp) (c : Ctl) (d : Spec) (n : Nat) (f : Nat → Nat) (ls : List Nat) : (ls.foldl (fun v l => v.putDest c d n l (f l)) w).pc = w.pc := by
  induction ls generalizing w with
  | nil => rfl
  | cons l ls ih => simp [ih]
@[simp] theorem Warp.foldDest_block (w : Warp) (c : Ctl) (d : Spec) (n : Nat) (f : Nat → Nat) (ls : List Nat) : (ls.foldl (fun v l => v.putDest c d n l (f l)) w).block = w.block := by
  induction ls generalizing w with
  | nil => rfl
  | cons l ls ih => simp [ih]
@[simp] theorem Warp.foldDest_issued (w : Warp) (c : Ctl) (d : Spec) (n : Nat) (f : Nat → Nat) (ls : List Nat) : (ls.foldl (fun v l => v.putDest c d n l (f l)) w).issued = w.issued := by
  induction ls generalizing w with
  | nil => rfl
  | cons l ls ih => simp [ih]
@[simp] theorem Warp.foldDest_filled (w : Warp) (c : Ctl) (d : Spec) (n : Nat) (f : Nat → Nat) (ls : List Nat) : (ls.foldl (fun v l => v.putDest c d n l (f l)) w).filled = w.filled := by
  induction ls generalizing w with
  | nil => rfl
  | cons l ls ih => simp [ih]
@[simp] theorem Warp.foldDest_frame (w : Warp) (c : Ctl) (d : Spec) (n : Nat) (f : Nat → Nat) (ls : List Nat) : (ls.foldl (fun v l => v.putDest c d n l (f l)) w).frame = w.frame := by
  induction ls generalizing w with
  | nil => rfl
  | cons l ls ih => simp [ih]
@[simp] theorem Warp.foldDest_tag (w : Warp) (c : Ctl) (d : Spec) (n : Nat) (f : Nat → Nat) (ls : List Nat) : (ls.foldl (fun v l => v.putDest c d n l (f l)) w).tag = w.tag := by
  induction ls generalizing w with
  | nil => rfl
  | cons l ls ih => simp [ih]
@[simp] theorem Warp.foldDest_l0 (w : Warp) (c : Ctl) (d : Spec) (n : Nat) (f : Nat → Nat) (ls : List Nat) : (ls.foldl (fun v l => v.putDest c d n l (f l)) w).l0 = w.l0 := by
  induction ls generalizing w with
  | nil => rfl
  | cons l ls ih => simp [ih]
@[simp] theorem Warp.foldDest_l1 (w : Warp) (c : Ctl) (d : Spec) (n : Nat) (f : Nat → Nat) (ls : List Nat) : (ls.foldl (fun v l => v.putDest c d n l (f l)) w).l1 = w.l1 := by
  induction ls generalizing w with
  | nil => rfl
  | cons l ls ih => simp [ih]
@[simp] theorem Warp.foldDest_lprod (w : Warp) (c : Ctl) (d : Spec) (n : Nat) (f : Nat → Nat) (ls : List Nat) : (ls.foldl (fun v l => v.putDest c d n l (f l)) w).lprod = w.lprod := by
  induction ls generalizing w with
  | nil => rfl
  | cons l ls ih => simp [ih]
@[simp] theorem Warp.foldDest_p (w : Warp) (c : Ctl) (d : Spec) (n : Nat) (f : Nat → Nat) (ls : List Nat) : (ls.foldl (fun v l => v.putDest c d n l (f l)) w).p = w.p := by
  induction ls generalizing w with
  | nil => rfl
  | cons l ls ih => simp [ih]
@[simp] theorem Warp.foldDest_pz (w : Warp) (c : Ctl) (d : Spec) (n : Nat) (f : Nat → Nat) (ls : List Nat) : (ls.foldl (fun v l => v.putDest c d n l (f l)) w).pz = w.pz := by
  induction ls generalizing w with
  | nil => rfl
  | cons l ls ih => simp [ih]
@[simp] theorem Warp.foldDest_sp (w : Warp) (c : Ctl) (d : Spec) (n : Nat) (f : Nat → Nat) (ls : List Nat) : (ls.foldl (fun v l => v.putDest c d n l (f l)) w).sp = w.sp := by
  induction ls generalizing w with
  | nil => rfl
  | cons l ls ih => simp [ih]
@[simp] theorem Warp.foldDest_t (w : Warp) (c : Ctl) (d : Spec) (n : Nat) (f : Nat → Nat) (ls : List Nat) : (ls.foldl (fun v l => v.putDest c d n l (f l)) w).t = w.t := by
  induction ls generalizing w with
  | nil => rfl
  | cons l ls ih => simp [ih]
@[simp] theorem Warp.foldDest_ldc (w : Warp) (c : Ctl) (d : Spec) (n : Nat) (f : Nat → Nat) (ls : List Nat) : (ls.foldl (fun v l => v.putDest c d n l (f l)) w).ldc = w.ldc := by
  induction ls generalizing w with
  | nil => rfl
  | cons l ls ih => simp [ih]
@[simp] theorem Warp.foldDest_stc (w : Warp) (c : Ctl) (d : Spec) (n : Nat) (f : Nat → Nat) (ls : List Nat) : (ls.foldl (fun v l => v.putDest c d n l (f l)) w).stc = w.stc := by
  induction ls generalizing w with
  | nil => rfl
  | cons l ls ih => simp [ih]
@[simp] theorem Warp.foldDest_cpc (w : Warp) (c : Ctl) (d : Spec) (n : Nat) (f : Nat → Nat) (ls : List Nat) : (ls.foldl (fun v l => v.putDest c d n l (f l)) w).cpc = w.cpc := by
  induction ls generalizing w with
  | nil => rfl
  | cons l ls ih => simp [ih]
@[simp] theorem Warp.foldDest_tlc (w : Warp) (c : Ctl) (d : Spec) (n : Nat) (f : Nat → Nat) (ls : List Nat) : (ls.foldl (fun v l => v.putDest c d n l (f l)) w).tlc = w.tlc := by
  induction ls generalizing w with
  | nil => rfl
  | cons l ls ih => simp [ih]
@[simp] theorem Warp.foldDest_fmode (w : Warp) (c : Ctl) (d : Spec) (n : Nat) (f : Nat → Nat) (ls : List Nat) : (ls.foldl (fun v l => v.putDest c d n l (f l)) w).fmode = w.fmode := by
  induction ls generalizing w with
  | nil => rfl
  | cons l ls ih => simp [ih]
@[simp] theorem Warp.foldDest_srseed (w : Warp) (c : Ctl) (d : Spec) (n : Nat) (f : Nat → Nat) (ls : List Nat) : (ls.foldl (fun v l => v.putDest c d n l (f l)) w).srseed = w.srseed := by
  induction ls generalizing w with
  | nil => rfl
  | cons l ls ih => simp [ih]
@[simp] theorem Warp.foldDest_tilecoord (w : Warp) (c : Ctl) (d : Spec) (n : Nat) (f : Nat → Nat) (ls : List Nat) : (ls.foldl (fun v l => v.putDest c d n l (f l)) w).tilecoord = w.tilecoord := by
  induction ls generalizing w with
  | nil => rfl
  | cons l ls ih => simp [ih]
@[simp] theorem Warp.foldDest_ord (w : Warp) (c : Ctl) (d : Spec) (n : Nat) (f : Nat → Nat) (ls : List Nat) : (ls.foldl (fun v l => v.putDest c d n l (f l)) w).ord = w.ord := by
  induction ls generalizing w with
  | nil => rfl
  | cons l ls ih => simp [ih]
@[simp] theorem Warp.foldDest_pend (w : Warp) (c : Ctl) (d : Spec) (n : Nat) (f : Nat → Nat) (ls : List Nat) : (ls.foldl (fun v l => v.putDest c d n l (f l)) w).pend = w.pend := by
  induction ls generalizing w with
  | nil => rfl
  | cons l ls ih => simp [ih]
@[simp] theorem Warp.foldDest_relAfter (w : Warp) (c : Ctl) (d : Spec) (n : Nat) (f : Nat → Nat) (ls : List Nat) : (ls.foldl (fun v l => v.putDest c d n l (f l)) w).relAfter = w.relAfter := by
  induction ls generalizing w with
  | nil => rfl
  | cons l ls ih => simp [ih]
@[simp] theorem Warp.foldDest_acqAfter (w : Warp) (c : Ctl) (d : Spec) (n : Nat) (f : Nat → Nat) (ls : List Nat) : (ls.foldl (fun v l => v.putDest c d n l (f l)) w).acqAfter = w.acqAfter := by
  induction ls generalizing w with
  | nil => rfl
  | cons l ls ih => simp [ih]
@[simp] theorem Warp.foldDest_qfences (w : Warp) (c : Ctl) (d : Spec) (n : Nat) (f : Nat → Nat) (ls : List Nat) : (ls.foldl (fun v l => v.putDest c d n l (f l)) w).qfences = w.qfences := by
  induction ls generalizing w with
  | nil => rfl
  | cons l ls ih => simp [ih]
@[simp] theorem Warp.foldDest_status (w : Warp) (c : Ctl) (d : Spec) (n : Nat) (f : Nat → Nat) (ls : List Nat) : (ls.foldl (fun v l => v.putDest c d n l (f l)) w).status = w.status := by
  induction ls generalizing w with
  | nil => rfl
  | cons l ls ih => simp [ih]
@[simp] theorem Warp.foldDest_heldCount (w : Warp) (c : Ctl) (d : Spec) (n : Nat) (f : Nat → Nat) (ls : List Nat) : (ls.foldl (fun v l => v.putDest c d n l (f l)) w).heldCount = w.heldCount := by
  induction ls generalizing w with
  | nil => rfl
  | cons l ls ih => simp [ih]

@[simp] theorem Warp.putLast_live (w : Warp) (n : Nat) (act : Lanes) (f : Nat → Nat) : (w.putLast n act f).live = w.live := by
  unfold Warp.putLast; dsimp only; split <;> rfl
@[simp] theorem Warp.putLast_uid (w : Warp) (n : Nat) (act : Lanes) (f : Nat → Nat) : (w.putLast n act f).uid = w.uid := by
  unfold Warp.putLast; dsimp only; split <;> rfl
@[simp] theorem Warp.putLast_ctx (w : Warp) (n : Nat) (act : Lanes) (f : Nat → Nat) : (w.putLast n act f).ctx = w.ctx := by
  unfold Warp.putLast; dsimp only; split <;> rfl
@[simp] theorem Warp.putLast_core (w : Warp) (n : Nat) (act : Lanes) (f : Nat → Nat) : (w.putLast n act f).core = w.core := by
  unfold Warp.putLast; dsimp only; split <;> rfl
@[simp] theorem Warp.putLast_seq (w : Warp) (n : Nat) (act : Lanes) (f : Nat → Nat) : (w.putLast n act f).seq = w.seq := by
  unfold Warp.putLast; dsimp only; split <;> rfl
@[simp] theorem Warp.putLast_part (w : Warp) (n : Nat) (act : Lanes) (f : Nat → Nat) : (w.putLast n act f).part = w.part := by
  unfold Warp.putLast; dsimp only; split <;> rfl
@[simp] theorem Warp.putLast_task (w : Warp) (n : Nat) (act : Lanes) (f : Nat → Nat) : (w.putLast n act f).task = w.task := by
  unfold Warp.putLast; dsimp only; split <;> rfl
@[simp] theorem Warp.putLast_blk (w : Warp) (n : Nat) (act : Lanes) (f : Nat → Nat) : (w.putLast n act f).blk = w.blk := by
  unfold Warp.putLast; dsimp only; split <;> rfl
@[simp] theorem Warp.putLast_hdr (w : Warp) (n : Nat) (act : Lanes) (f : Nat → Nat) : (w.putLast n act f).hdr = w.hdr := by
  unfold Warp.putLast; dsimp only; split <;> rfl
@[simp] theorem Warp.putLast_base (w : Warp) (n : Nat) (act : Lanes) (f : Nat → Nat) : (w.putLast n act f).base = w.base := by
  unfold Warp.putLast; dsimp only; split <;> rfl
@[simp] theorem Warp.putLast_pc (w : Warp) (n : Nat) (act : Lanes) (f : Nat → Nat) : (w.putLast n act f).pc = w.pc := by
  unfold Warp.putLast; dsimp only; split <;> rfl
@[simp] theorem Warp.putLast_block (w : Warp) (n : Nat) (act : Lanes) (f : Nat → Nat) : (w.putLast n act f).block = w.block := by
  unfold Warp.putLast; dsimp only; split <;> rfl
@[simp] theorem Warp.putLast_issued (w : Warp) (n : Nat) (act : Lanes) (f : Nat → Nat) : (w.putLast n act f).issued = w.issued := by
  unfold Warp.putLast; dsimp only; split <;> rfl
@[simp] theorem Warp.putLast_filled (w : Warp) (n : Nat) (act : Lanes) (f : Nat → Nat) : (w.putLast n act f).filled = w.filled := by
  unfold Warp.putLast; dsimp only; split <;> rfl
@[simp] theorem Warp.putLast_frame (w : Warp) (n : Nat) (act : Lanes) (f : Nat → Nat) : (w.putLast n act f).frame = w.frame := by
  unfold Warp.putLast; dsimp only; split <;> rfl
@[simp] theorem Warp.putLast_tag (w : Warp) (n : Nat) (act : Lanes) (f : Nat → Nat) : (w.putLast n act f).tag = w.tag := by
  unfold Warp.putLast; dsimp only; split <;> rfl
@[simp] theorem Warp.putLast_v (w : Warp) (n : Nat) (act : Lanes) (f : Nat → Nat) : (w.putLast n act f).v = w.v := by
  unfold Warp.putLast; dsimp only; split <;> rfl
@[simp] theorem Warp.putLast_o (w : Warp) (n : Nat) (act : Lanes) (f : Nat → Nat) : (w.putLast n act f).o = w.o := by
  unfold Warp.putLast; dsimp only; split <;> rfl
@[simp] theorem Warp.putLast_p (w : Warp) (n : Nat) (act : Lanes) (f : Nat → Nat) : (w.putLast n act f).p = w.p := by
  unfold Warp.putLast; dsimp only; split <;> rfl
@[simp] theorem Warp.putLast_pz (w : Warp) (n : Nat) (act : Lanes) (f : Nat → Nat) : (w.putLast n act f).pz = w.pz := by
  unfold Warp.putLast; dsimp only; split <;> rfl
@[simp] theorem Warp.putLast_s (w : Warp) (n : Nat) (act : Lanes) (f : Nat → Nat) : (w.putLast n act f).s = w.s := by
  unfold Warp.putLast; dsimp only; split <;> rfl
@[simp] theorem Warp.putLast_sp (w : Warp) (n : Nat) (act : Lanes) (f : Nat → Nat) : (w.putLast n act f).sp = w.sp := by
  unfold Warp.putLast; dsimp only; split <;> rfl
@[simp] theorem Warp.putLast_t (w : Warp) (n : Nat) (act : Lanes) (f : Nat → Nat) : (w.putLast n act f).t = w.t := by
  unfold Warp.putLast; dsimp only; split <;> rfl
@[simp] theorem Warp.putLast_ldc (w : Warp) (n : Nat) (act : Lanes) (f : Nat → Nat) : (w.putLast n act f).ldc = w.ldc := by
  unfold Warp.putLast; dsimp only; split <;> rfl
@[simp] theorem Warp.putLast_stc (w : Warp) (n : Nat) (act : Lanes) (f : Nat → Nat) : (w.putLast n act f).stc = w.stc := by
  unfold Warp.putLast; dsimp only; split <;> rfl
@[simp] theorem Warp.putLast_cpc (w : Warp) (n : Nat) (act : Lanes) (f : Nat → Nat) : (w.putLast n act f).cpc = w.cpc := by
  unfold Warp.putLast; dsimp only; split <;> rfl
@[simp] theorem Warp.putLast_tlc (w : Warp) (n : Nat) (act : Lanes) (f : Nat → Nat) : (w.putLast n act f).tlc = w.tlc := by
  unfold Warp.putLast; dsimp only; split <;> rfl
@[simp] theorem Warp.putLast_fmode (w : Warp) (n : Nat) (act : Lanes) (f : Nat → Nat) : (w.putLast n act f).fmode = w.fmode := by
  unfold Warp.putLast; dsimp only; split <;> rfl
@[simp] theorem Warp.putLast_srseed (w : Warp) (n : Nat) (act : Lanes) (f : Nat → Nat) : (w.putLast n act f).srseed = w.srseed := by
  unfold Warp.putLast; dsimp only; split <;> rfl
@[simp] theorem Warp.putLast_tilecoord (w : Warp) (n : Nat) (act : Lanes) (f : Nat → Nat) : (w.putLast n act f).tilecoord = w.tilecoord := by
  unfold Warp.putLast; dsimp only; split <;> rfl
@[simp] theorem Warp.putLast_inflight (w : Warp) (n : Nat) (act : Lanes) (f : Nat → Nat) : (w.putLast n act f).inflight = w.inflight := by
  unfold Warp.putLast; dsimp only; split <;> rfl
@[simp] theorem Warp.putLast_ord (w : Warp) (n : Nat) (act : Lanes) (f : Nat → Nat) : (w.putLast n act f).ord = w.ord := by
  unfold Warp.putLast; dsimp only; split <;> rfl
@[simp] theorem Warp.putLast_pend (w : Warp) (n : Nat) (act : Lanes) (f : Nat → Nat) : (w.putLast n act f).pend = w.pend := by
  unfold Warp.putLast; dsimp only; split <;> rfl
@[simp] theorem Warp.putLast_relAfter (w : Warp) (n : Nat) (act : Lanes) (f : Nat → Nat) : (w.putLast n act f).relAfter = w.relAfter := by
  unfold Warp.putLast; dsimp only; split <;> rfl
@[simp] theorem Warp.putLast_acqAfter (w : Warp) (n : Nat) (act : Lanes) (f : Nat → Nat) : (w.putLast n act f).acqAfter = w.acqAfter := by
  unfold Warp.putLast; dsimp only; split <;> rfl
@[simp] theorem Warp.putLast_qfences (w : Warp) (n : Nat) (act : Lanes) (f : Nat → Nat) : (w.putLast n act f).qfences = w.qfences := by
  unfold Warp.putLast; dsimp only; split <;> rfl
@[simp] theorem Warp.putLast_status (w : Warp) (n : Nat) (act : Lanes) (f : Nat → Nat) : (w.putLast n act f).status = w.status := by
  unfold Warp.putLast; dsimp only; split <;> rfl
@[simp] theorem Warp.putLast_heldCount (w : Warp) (n : Nat) (act : Lanes) (f : Nat → Nat) : (w.putLast n act f).heldCount = w.heldCount := by
  unfold Warp.putLast; dsimp only; split <;> rfl

@[simp] theorem Warp.putResult_live (w : Warp) (c : Ctl) (d : Spec) (n : Nat) (act : Lanes) (f : Nat → Nat) : (w.putResult c d n act f).live = w.live := by
  simp [Warp.putResult]
@[simp] theorem Warp.putResult_uid (w : Warp) (c : Ctl) (d : Spec) (n : Nat) (act : Lanes) (f : Nat → Nat) : (w.putResult c d n act f).uid = w.uid := by
  simp [Warp.putResult]
@[simp] theorem Warp.putResult_ctx (w : Warp) (c : Ctl) (d : Spec) (n : Nat) (act : Lanes) (f : Nat → Nat) : (w.putResult c d n act f).ctx = w.ctx := by
  simp [Warp.putResult]
@[simp] theorem Warp.putResult_core (w : Warp) (c : Ctl) (d : Spec) (n : Nat) (act : Lanes) (f : Nat → Nat) : (w.putResult c d n act f).core = w.core := by
  simp [Warp.putResult]
@[simp] theorem Warp.putResult_seq (w : Warp) (c : Ctl) (d : Spec) (n : Nat) (act : Lanes) (f : Nat → Nat) : (w.putResult c d n act f).seq = w.seq := by
  simp [Warp.putResult]
@[simp] theorem Warp.putResult_part (w : Warp) (c : Ctl) (d : Spec) (n : Nat) (act : Lanes) (f : Nat → Nat) : (w.putResult c d n act f).part = w.part := by
  simp [Warp.putResult]
@[simp] theorem Warp.putResult_task (w : Warp) (c : Ctl) (d : Spec) (n : Nat) (act : Lanes) (f : Nat → Nat) : (w.putResult c d n act f).task = w.task := by
  simp [Warp.putResult]
@[simp] theorem Warp.putResult_blk (w : Warp) (c : Ctl) (d : Spec) (n : Nat) (act : Lanes) (f : Nat → Nat) : (w.putResult c d n act f).blk = w.blk := by
  simp [Warp.putResult]
@[simp] theorem Warp.putResult_hdr (w : Warp) (c : Ctl) (d : Spec) (n : Nat) (act : Lanes) (f : Nat → Nat) : (w.putResult c d n act f).hdr = w.hdr := by
  simp [Warp.putResult]
@[simp] theorem Warp.putResult_base (w : Warp) (c : Ctl) (d : Spec) (n : Nat) (act : Lanes) (f : Nat → Nat) : (w.putResult c d n act f).base = w.base := by
  simp [Warp.putResult]
@[simp] theorem Warp.putResult_pc (w : Warp) (c : Ctl) (d : Spec) (n : Nat) (act : Lanes) (f : Nat → Nat) : (w.putResult c d n act f).pc = w.pc := by
  simp [Warp.putResult]
@[simp] theorem Warp.putResult_block (w : Warp) (c : Ctl) (d : Spec) (n : Nat) (act : Lanes) (f : Nat → Nat) : (w.putResult c d n act f).block = w.block := by
  simp [Warp.putResult]
@[simp] theorem Warp.putResult_issued (w : Warp) (c : Ctl) (d : Spec) (n : Nat) (act : Lanes) (f : Nat → Nat) : (w.putResult c d n act f).issued = w.issued := by
  simp [Warp.putResult]
@[simp] theorem Warp.putResult_filled (w : Warp) (c : Ctl) (d : Spec) (n : Nat) (act : Lanes) (f : Nat → Nat) : (w.putResult c d n act f).filled = w.filled := by
  simp [Warp.putResult]
@[simp] theorem Warp.putResult_frame (w : Warp) (c : Ctl) (d : Spec) (n : Nat) (act : Lanes) (f : Nat → Nat) : (w.putResult c d n act f).frame = w.frame := by
  simp [Warp.putResult]
@[simp] theorem Warp.putResult_tag (w : Warp) (c : Ctl) (d : Spec) (n : Nat) (act : Lanes) (f : Nat → Nat) : (w.putResult c d n act f).tag = w.tag := by
  simp [Warp.putResult]
@[simp] theorem Warp.putResult_p (w : Warp) (c : Ctl) (d : Spec) (n : Nat) (act : Lanes) (f : Nat → Nat) : (w.putResult c d n act f).p = w.p := by
  simp [Warp.putResult]
@[simp] theorem Warp.putResult_pz (w : Warp) (c : Ctl) (d : Spec) (n : Nat) (act : Lanes) (f : Nat → Nat) : (w.putResult c d n act f).pz = w.pz := by
  simp [Warp.putResult]
@[simp] theorem Warp.putResult_sp (w : Warp) (c : Ctl) (d : Spec) (n : Nat) (act : Lanes) (f : Nat → Nat) : (w.putResult c d n act f).sp = w.sp := by
  simp [Warp.putResult]
@[simp] theorem Warp.putResult_t (w : Warp) (c : Ctl) (d : Spec) (n : Nat) (act : Lanes) (f : Nat → Nat) : (w.putResult c d n act f).t = w.t := by
  simp [Warp.putResult]
@[simp] theorem Warp.putResult_ldc (w : Warp) (c : Ctl) (d : Spec) (n : Nat) (act : Lanes) (f : Nat → Nat) : (w.putResult c d n act f).ldc = w.ldc := by
  simp [Warp.putResult]
@[simp] theorem Warp.putResult_stc (w : Warp) (c : Ctl) (d : Spec) (n : Nat) (act : Lanes) (f : Nat → Nat) : (w.putResult c d n act f).stc = w.stc := by
  simp [Warp.putResult]
@[simp] theorem Warp.putResult_cpc (w : Warp) (c : Ctl) (d : Spec) (n : Nat) (act : Lanes) (f : Nat → Nat) : (w.putResult c d n act f).cpc = w.cpc := by
  simp [Warp.putResult]
@[simp] theorem Warp.putResult_tlc (w : Warp) (c : Ctl) (d : Spec) (n : Nat) (act : Lanes) (f : Nat → Nat) : (w.putResult c d n act f).tlc = w.tlc := by
  simp [Warp.putResult]
@[simp] theorem Warp.putResult_fmode (w : Warp) (c : Ctl) (d : Spec) (n : Nat) (act : Lanes) (f : Nat → Nat) : (w.putResult c d n act f).fmode = w.fmode := by
  simp [Warp.putResult]
@[simp] theorem Warp.putResult_srseed (w : Warp) (c : Ctl) (d : Spec) (n : Nat) (act : Lanes) (f : Nat → Nat) : (w.putResult c d n act f).srseed = w.srseed := by
  simp [Warp.putResult]
@[simp] theorem Warp.putResult_tilecoord (w : Warp) (c : Ctl) (d : Spec) (n : Nat) (act : Lanes) (f : Nat → Nat) : (w.putResult c d n act f).tilecoord = w.tilecoord := by
  simp [Warp.putResult]
@[simp] theorem Warp.putResult_ord (w : Warp) (c : Ctl) (d : Spec) (n : Nat) (act : Lanes) (f : Nat → Nat) : (w.putResult c d n act f).ord = w.ord := by
  simp [Warp.putResult]
@[simp] theorem Warp.putResult_pend (w : Warp) (c : Ctl) (d : Spec) (n : Nat) (act : Lanes) (f : Nat → Nat) : (w.putResult c d n act f).pend = w.pend := by
  simp [Warp.putResult]
@[simp] theorem Warp.putResult_relAfter (w : Warp) (c : Ctl) (d : Spec) (n : Nat) (act : Lanes) (f : Nat → Nat) : (w.putResult c d n act f).relAfter = w.relAfter := by
  simp [Warp.putResult]
@[simp] theorem Warp.putResult_acqAfter (w : Warp) (c : Ctl) (d : Spec) (n : Nat) (act : Lanes) (f : Nat → Nat) : (w.putResult c d n act f).acqAfter = w.acqAfter := by
  simp [Warp.putResult]
@[simp] theorem Warp.putResult_qfences (w : Warp) (c : Ctl) (d : Spec) (n : Nat) (act : Lanes) (f : Nat → Nat) : (w.putResult c d n act f).qfences = w.qfences := by
  simp [Warp.putResult]
@[simp] theorem Warp.putResult_status (w : Warp) (c : Ctl) (d : Spec) (n : Nat) (act : Lanes) (f : Nat → Nat) : (w.putResult c d n act f).status = w.status := by
  simp [Warp.putResult]
@[simp] theorem Warp.putResult_heldCount (w : Warp) (c : Ctl) (d : Spec) (n : Nat) (act : Lanes) (f : Nat → Nat) : (w.putResult c d n act f).heldCount = w.heldCount := by
  simp [Warp.putResult]

@[simp] theorem Warp.putLanes_live (w : Warp) (d : Spec) (n : Nat) (act : Lanes) (f : Nat → Nat) : (w.putLanes d n act f).live = w.live := by
  unfold Warp.putLanes
  induction lanesOf act generalizing w with
  | nil => rfl
  | cons l ls ih => simp [ih]
@[simp] theorem Warp.putLanes_uid (w : Warp) (d : Spec) (n : Nat) (act : Lanes) (f : Nat → Nat) : (w.putLanes d n act f).uid = w.uid := by
  unfold Warp.putLanes
  induction lanesOf act generalizing w with
  | nil => rfl
  | cons l ls ih => simp [ih]
@[simp] theorem Warp.putLanes_ctx (w : Warp) (d : Spec) (n : Nat) (act : Lanes) (f : Nat → Nat) : (w.putLanes d n act f).ctx = w.ctx := by
  unfold Warp.putLanes
  induction lanesOf act generalizing w with
  | nil => rfl
  | cons l ls ih => simp [ih]
@[simp] theorem Warp.putLanes_core (w : Warp) (d : Spec) (n : Nat) (act : Lanes) (f : Nat → Nat) : (w.putLanes d n act f).core = w.core := by
  unfold Warp.putLanes
  induction lanesOf act generalizing w with
  | nil => rfl
  | cons l ls ih => simp [ih]
@[simp] theorem Warp.putLanes_seq (w : Warp) (d : Spec) (n : Nat) (act : Lanes) (f : Nat → Nat) : (w.putLanes d n act f).seq = w.seq := by
  unfold Warp.putLanes
  induction lanesOf act generalizing w with
  | nil => rfl
  | cons l ls ih => simp [ih]
@[simp] theorem Warp.putLanes_part (w : Warp) (d : Spec) (n : Nat) (act : Lanes) (f : Nat → Nat) : (w.putLanes d n act f).part = w.part := by
  unfold Warp.putLanes
  induction lanesOf act generalizing w with
  | nil => rfl
  | cons l ls ih => simp [ih]
@[simp] theorem Warp.putLanes_task (w : Warp) (d : Spec) (n : Nat) (act : Lanes) (f : Nat → Nat) : (w.putLanes d n act f).task = w.task := by
  unfold Warp.putLanes
  induction lanesOf act generalizing w with
  | nil => rfl
  | cons l ls ih => simp [ih]
@[simp] theorem Warp.putLanes_blk (w : Warp) (d : Spec) (n : Nat) (act : Lanes) (f : Nat → Nat) : (w.putLanes d n act f).blk = w.blk := by
  unfold Warp.putLanes
  induction lanesOf act generalizing w with
  | nil => rfl
  | cons l ls ih => simp [ih]
@[simp] theorem Warp.putLanes_hdr (w : Warp) (d : Spec) (n : Nat) (act : Lanes) (f : Nat → Nat) : (w.putLanes d n act f).hdr = w.hdr := by
  unfold Warp.putLanes
  induction lanesOf act generalizing w with
  | nil => rfl
  | cons l ls ih => simp [ih]
@[simp] theorem Warp.putLanes_base (w : Warp) (d : Spec) (n : Nat) (act : Lanes) (f : Nat → Nat) : (w.putLanes d n act f).base = w.base := by
  unfold Warp.putLanes
  induction lanesOf act generalizing w with
  | nil => rfl
  | cons l ls ih => simp [ih]
@[simp] theorem Warp.putLanes_pc (w : Warp) (d : Spec) (n : Nat) (act : Lanes) (f : Nat → Nat) : (w.putLanes d n act f).pc = w.pc := by
  unfold Warp.putLanes
  induction lanesOf act generalizing w with
  | nil => rfl
  | cons l ls ih => simp [ih]
@[simp] theorem Warp.putLanes_block (w : Warp) (d : Spec) (n : Nat) (act : Lanes) (f : Nat → Nat) : (w.putLanes d n act f).block = w.block := by
  unfold Warp.putLanes
  induction lanesOf act generalizing w with
  | nil => rfl
  | cons l ls ih => simp [ih]
@[simp] theorem Warp.putLanes_issued (w : Warp) (d : Spec) (n : Nat) (act : Lanes) (f : Nat → Nat) : (w.putLanes d n act f).issued = w.issued := by
  unfold Warp.putLanes
  induction lanesOf act generalizing w with
  | nil => rfl
  | cons l ls ih => simp [ih]
@[simp] theorem Warp.putLanes_filled (w : Warp) (d : Spec) (n : Nat) (act : Lanes) (f : Nat → Nat) : (w.putLanes d n act f).filled = w.filled := by
  unfold Warp.putLanes
  induction lanesOf act generalizing w with
  | nil => rfl
  | cons l ls ih => simp [ih]
@[simp] theorem Warp.putLanes_frame (w : Warp) (d : Spec) (n : Nat) (act : Lanes) (f : Nat → Nat) : (w.putLanes d n act f).frame = w.frame := by
  unfold Warp.putLanes
  induction lanesOf act generalizing w with
  | nil => rfl
  | cons l ls ih => simp [ih]
@[simp] theorem Warp.putLanes_tag (w : Warp) (d : Spec) (n : Nat) (act : Lanes) (f : Nat → Nat) : (w.putLanes d n act f).tag = w.tag := by
  unfold Warp.putLanes
  induction lanesOf act generalizing w with
  | nil => rfl
  | cons l ls ih => simp [ih]
@[simp] theorem Warp.putLanes_l0 (w : Warp) (d : Spec) (n : Nat) (act : Lanes) (f : Nat → Nat) : (w.putLanes d n act f).l0 = w.l0 := by
  unfold Warp.putLanes
  induction lanesOf act generalizing w with
  | nil => rfl
  | cons l ls ih => simp [ih]
@[simp] theorem Warp.putLanes_l1 (w : Warp) (d : Spec) (n : Nat) (act : Lanes) (f : Nat → Nat) : (w.putLanes d n act f).l1 = w.l1 := by
  unfold Warp.putLanes
  induction lanesOf act generalizing w with
  | nil => rfl
  | cons l ls ih => simp [ih]
@[simp] theorem Warp.putLanes_lprod (w : Warp) (d : Spec) (n : Nat) (act : Lanes) (f : Nat → Nat) : (w.putLanes d n act f).lprod = w.lprod := by
  unfold Warp.putLanes
  induction lanesOf act generalizing w with
  | nil => rfl
  | cons l ls ih => simp [ih]
@[simp] theorem Warp.putLanes_p (w : Warp) (d : Spec) (n : Nat) (act : Lanes) (f : Nat → Nat) : (w.putLanes d n act f).p = w.p := by
  unfold Warp.putLanes
  induction lanesOf act generalizing w with
  | nil => rfl
  | cons l ls ih => simp [ih]
@[simp] theorem Warp.putLanes_pz (w : Warp) (d : Spec) (n : Nat) (act : Lanes) (f : Nat → Nat) : (w.putLanes d n act f).pz = w.pz := by
  unfold Warp.putLanes
  induction lanesOf act generalizing w with
  | nil => rfl
  | cons l ls ih => simp [ih]
@[simp] theorem Warp.putLanes_sp (w : Warp) (d : Spec) (n : Nat) (act : Lanes) (f : Nat → Nat) : (w.putLanes d n act f).sp = w.sp := by
  unfold Warp.putLanes
  induction lanesOf act generalizing w with
  | nil => rfl
  | cons l ls ih => simp [ih]
@[simp] theorem Warp.putLanes_t (w : Warp) (d : Spec) (n : Nat) (act : Lanes) (f : Nat → Nat) : (w.putLanes d n act f).t = w.t := by
  unfold Warp.putLanes
  induction lanesOf act generalizing w with
  | nil => rfl
  | cons l ls ih => simp [ih]
@[simp] theorem Warp.putLanes_ldc (w : Warp) (d : Spec) (n : Nat) (act : Lanes) (f : Nat → Nat) : (w.putLanes d n act f).ldc = w.ldc := by
  unfold Warp.putLanes
  induction lanesOf act generalizing w with
  | nil => rfl
  | cons l ls ih => simp [ih]
@[simp] theorem Warp.putLanes_stc (w : Warp) (d : Spec) (n : Nat) (act : Lanes) (f : Nat → Nat) : (w.putLanes d n act f).stc = w.stc := by
  unfold Warp.putLanes
  induction lanesOf act generalizing w with
  | nil => rfl
  | cons l ls ih => simp [ih]
@[simp] theorem Warp.putLanes_cpc (w : Warp) (d : Spec) (n : Nat) (act : Lanes) (f : Nat → Nat) : (w.putLanes d n act f).cpc = w.cpc := by
  unfold Warp.putLanes
  induction lanesOf act generalizing w with
  | nil => rfl
  | cons l ls ih => simp [ih]
@[simp] theorem Warp.putLanes_tlc (w : Warp) (d : Spec) (n : Nat) (act : Lanes) (f : Nat → Nat) : (w.putLanes d n act f).tlc = w.tlc := by
  unfold Warp.putLanes
  induction lanesOf act generalizing w with
  | nil => rfl
  | cons l ls ih => simp [ih]
@[simp] theorem Warp.putLanes_fmode (w : Warp) (d : Spec) (n : Nat) (act : Lanes) (f : Nat → Nat) : (w.putLanes d n act f).fmode = w.fmode := by
  unfold Warp.putLanes
  induction lanesOf act generalizing w with
  | nil => rfl
  | cons l ls ih => simp [ih]
@[simp] theorem Warp.putLanes_srseed (w : Warp) (d : Spec) (n : Nat) (act : Lanes) (f : Nat → Nat) : (w.putLanes d n act f).srseed = w.srseed := by
  unfold Warp.putLanes
  induction lanesOf act generalizing w with
  | nil => rfl
  | cons l ls ih => simp [ih]
@[simp] theorem Warp.putLanes_tilecoord (w : Warp) (d : Spec) (n : Nat) (act : Lanes) (f : Nat → Nat) : (w.putLanes d n act f).tilecoord = w.tilecoord := by
  unfold Warp.putLanes
  induction lanesOf act generalizing w with
  | nil => rfl
  | cons l ls ih => simp [ih]
@[simp] theorem Warp.putLanes_ord (w : Warp) (d : Spec) (n : Nat) (act : Lanes) (f : Nat → Nat) : (w.putLanes d n act f).ord = w.ord := by
  unfold Warp.putLanes
  induction lanesOf act generalizing w with
  | nil => rfl
  | cons l ls ih => simp [ih]
@[simp] theorem Warp.putLanes_pend (w : Warp) (d : Spec) (n : Nat) (act : Lanes) (f : Nat → Nat) : (w.putLanes d n act f).pend = w.pend := by
  unfold Warp.putLanes
  induction lanesOf act generalizing w with
  | nil => rfl
  | cons l ls ih => simp [ih]
@[simp] theorem Warp.putLanes_relAfter (w : Warp) (d : Spec) (n : Nat) (act : Lanes) (f : Nat → Nat) : (w.putLanes d n act f).relAfter = w.relAfter := by
  unfold Warp.putLanes
  induction lanesOf act generalizing w with
  | nil => rfl
  | cons l ls ih => simp [ih]
@[simp] theorem Warp.putLanes_acqAfter (w : Warp) (d : Spec) (n : Nat) (act : Lanes) (f : Nat → Nat) : (w.putLanes d n act f).acqAfter = w.acqAfter := by
  unfold Warp.putLanes
  induction lanesOf act generalizing w with
  | nil => rfl
  | cons l ls ih => simp [ih]
@[simp] theorem Warp.putLanes_qfences (w : Warp) (d : Spec) (n : Nat) (act : Lanes) (f : Nat → Nat) : (w.putLanes d n act f).qfences = w.qfences := by
  unfold Warp.putLanes
  induction lanesOf act generalizing w with
  | nil => rfl
  | cons l ls ih => simp [ih]
@[simp] theorem Warp.putLanes_status (w : Warp) (d : Spec) (n : Nat) (act : Lanes) (f : Nat → Nat) : (w.putLanes d n act f).status = w.status := by
  unfold Warp.putLanes
  induction lanesOf act generalizing w with
  | nil => rfl
  | cons l ls ih => simp [ih]
@[simp] theorem Warp.putLanes_heldCount (w : Warp) (d : Spec) (n : Nat) (act : Lanes) (f : Nat → Nat) : (w.putLanes d n act f).heldCount = w.heldCount := by
  unfold Warp.putLanes
  induction lanesOf act generalizing w with
  | nil => rfl
  | cons l ls ih => simp [ih]

end Sys2Proof.Machine
end

