-- ==== Sys2Proof/Laws/Alu.lean ====
section
/-! SUPPORT. Elements of a joined value, and what a word of one result leaves: the laws of `wordOn`, `alu2` and
`alu3`. -/

namespace Sys2Proof

/-! ### Elements -/

theorem foldl_add (ls : List Nat) (a : Nat) : ls.foldl (· + ·) a = a + ls.foldl (· + ·) 0 := by
  induction ls generalizing a with
  | nil => simp
  | cons x ls ih => rw [List.foldl_cons, List.foldl_cons, ih, ih (0 + x)]; omega

/-- The sum a join is, for one, two and four elements. -/
theorem Ty.join_one {t : Ty} (h : t.count = 1) (f : Nat → Nat) : t.join f = f 0 % 2 ^ t.width := by
  simp [Ty.join, h, List.range_succ]

theorem Ty.join_two {t : Ty} (h : t.count = 2) (f : Nat → Nat) :
    t.join f = f 0 % 2 ^ t.width + f 1 % 2 ^ t.width * 2 ^ t.width := by
  simp [Ty.join, h, List.range_succ]

theorem Ty.join_four {t : Ty} (h : t.count = 4) (f : Nat → Nat) :
    t.join f = f 0 % 2 ^ t.width + f 1 % 2 ^ t.width * 2 ^ t.width + f 2 % 2 ^ t.width * 2 ^ (t.width * 2) +
      f 3 % 2 ^ t.width * 2 ^ (t.width * 3) := by
  simp [Ty.join, h, List.range_succ]

/-- The types by the number of their elements. -/
theorem Ty.count_cases (t : Ty) : t.count = 1 ∨ (t.count = 2 ∧ t.width = 16 ∧ t.bits = 32) ∨
    (t.count = 4 ∧ t.width = 8 ∧ t.bits = 32) := by
  cases t <;> simp [Ty.count, Ty.width, Ty.bits, Ty.regs, Ty.wide]

theorem Ty.width_le (t : Ty) : 2 ^ t.width ≤ 2 ^ t.bits := by
  cases t <;> simp [Ty.width, Ty.bits, Ty.regs, Ty.wide]

/-- An element of a joined value. -/
theorem Ty.elem_join (t : Ty) (f : Nat → Nat) (k : Nat) (h : k < t.count) : t.elem (t.join f) k = f k % 2 ^ t.width := by
  rcases t.count_cases with e | ⟨e, ew, -⟩ | ⟨e, ew, -⟩
  · obtain rfl : k = 0 := by omega
    simp [Ty.elem, Ty.join_one e]
  · rw [Ty.elem, Ty.join_two e, ew]
    have h0 : f 0 % 2 ^ 16 < 65536 := Nat.mod_lt _ (by decide)
    have h1 : f 1 % 2 ^ 16 < 65536 := Nat.mod_lt _ (by decide)
    generalize hx : f 0 % 2 ^ 16 = x at *
    generalize hy : f 1 % 2 ^ 16 = y at *
    obtain rfl | rfl : k = 0 ∨ k = 1 := by omega
    · rw [hx]; omega
    · rw [hy]; omega
  · rw [Ty.elem, Ty.join_four e, ew]
    have h0 : f 0 % 2 ^ 8 < 256 := Nat.mod_lt _ (by decide)
    have h1 : f 1 % 2 ^ 8 < 256 := Nat.mod_lt _ (by decide)
    have h2 : f 2 % 2 ^ 8 < 256 := Nat.mod_lt _ (by decide)
    have h3 : f 3 % 2 ^ 8 < 256 := Nat.mod_lt _ (by decide)
    generalize hx : f 0 % 2 ^ 8 = x at *
    generalize hy : f 1 % 2 ^ 8 = y at *
    generalize hz : f 2 % 2 ^ 8 = z at *
    generalize hu : f 3 % 2 ^ 8 = u at *
    obtain rfl | rfl | rfl | rfl : k = 0 ∨ k = 1 ∨ k = 2 ∨ k = 3 := by omega
    · rw [hx]; omega
    · rw [hy]; omega
    · rw [hz]; omega
    · rw [hu]; omega

/-- A joined value fits its registers. -/
theorem Ty.join_lt (t : Ty) (f : Nat → Nat) : t.join f < 2 ^ t.bits := by
  rcases t.count_cases with e | ⟨e, ew, eb⟩ | ⟨e, ew, eb⟩
  · rw [Ty.join_one e]; exact Nat.lt_of_lt_of_le (Nat.mod_lt _ (Nat.two_pow_pos _)) t.width_le
  · rw [Ty.join_two e, ew, eb]
    have h0 : f 0 % 2 ^ 16 < 65536 := Nat.mod_lt _ (by decide)
    have h1 : f 1 % 2 ^ 16 < 65536 := Nat.mod_lt _ (by decide)
    omega
  · rw [Ty.join_four e, ew, eb]
    have h0 : f 0 % 2 ^ 8 < 256 := Nat.mod_lt _ (by decide)
    have h1 : f 1 % 2 ^ 8 < 256 := Nat.mod_lt _ (by decide)
    have h2 : f 2 % 2 ^ 8 < 256 := Nat.mod_lt _ (by decide)
    have h3 : f 3 % 2 ^ 8 < 256 := Nat.mod_lt _ (by decide)
    omega

theorem Ty.regs_eq (t : Ty) : t.regs = 1 ∨ t.regs = 2 := by cases t <;> simp [Ty.regs, Ty.wide]

theorem wrapInt_lt (n : Nat) (i : Int) : wrapInt n i < 2 ^ n := by
  unfold wrapInt
  have h : (0 : Int) < ((2 ^ n : Nat) : Int) := by exact_mod_cast Nat.two_pow_pos n
  have h1 := Int.emod_lt_of_pos i h
  have h2 := Int.emod_nonneg i (Int.ne_of_gt h)
  omega

theorem wrapInt_mod (n : Nat) (i : Int) : wrapInt n i % 2 ^ n = wrapInt n i := Nat.mod_eq_of_lt (wrapInt_lt n i)

namespace Machine

/-! ### Checks -/

/-- A word whose checks pass goes on to its meaning (R88, R89). -/
theorem checked_ok {s : State} {i : Instr} (h : s.wordFault i = none) (k : State → State) : s.checked i k = .next (k s) := by
  simp [State.checked, h]

/-- A word that fails a check takes that fault (R88, R89). -/
theorem checked_fault {s : State} {i : Instr} {c : Nat} (h : s.wordFault i = some c) (k : State → State) :
    s.checked i k = .next (s.raiseAll c) := by simp [State.checked, h]

theorem wordOn_ok {s : State} {i : Instr} (h : s.wordFault i = none) (f : Warp → Warp) :
    s.wordOn i f = .next ((s.mapWarp f).advance i) := checked_ok h _

/-- A word whose checks pass is legal and of its warp's kind. -/
theorem legal_of_ok {s : State} {i : Instr} (h : s.wordFault i = none) : i.legal = true := by
  unfold State.wordFault at h
  cases hl : i.legal
  · simp [hl] at h
  · rfl

theorem fields_of_ok {s : State} {i : Instr} (h : s.wordFault i = none) : i.fieldsOk = true := by
  have := legal_of_ok h
  unfold Instr.legal at this
  exact (Bool.and_eq_true _ _ ▸ this).1

/-! ### Words of one result -/

/-- A destination as the words of OPC 0x10 to 0x6F name it: an S register under `.S`, else a V register with its O
copy (R74). -/
def DestOk (c : Ctl) (d : Spec) : Prop :=
  if c.sc then d.isS = true ∧ c.oen = false ∧ c.nodst = false else d.isV = true

theorem destOk_of_intForm {g : Guard} {c : Ctl} {d : Spec} {xs : List Spec} (h : intForm g c d xs = true) : DestOk c d := by
  unfold intForm at h
  simp only [Bool.and_eq_true] at h
  obtain ⟨⟨⟨-, ho⟩, -⟩, hf⟩ := h
  unfold DestOk
  unfold Ctl.oOk at ho
  cases hs : c.sc
  · simp only [hs, Bool.false_eq_true, if_false, Bool.and_eq_true] at hf ⊢; exact hf.1
  · simp only [hs, if_true, Bool.and_eq_true] at hf ⊢
    cases he : c.oen
    · simp only [he, Bool.false_eq_true, if_false, Bool.and_eq_true, Bool.not_eq_true'] at ho; exact ⟨hf.1, rfl, ho.2⟩
    · simp [he, hs] at ho

theorem destOk_of_fltForm {c : Ctl} {d : Spec} {xs : List Spec} (h : fltForm c d xs = true) : DestOk c d ∧ c.sc = false := by
  unfold fltForm at h
  simp only [Bool.and_eq_true, Bool.not_eq_true'] at h
  obtain ⟨⟨⟨⟨hs, -⟩, -⟩, hd⟩, -⟩ := h
  exact ⟨by simp [DestOk, hs, hd], hs⟩

theorem isFile_of_isV {d : Spec} (h : d.isV = true) : Spec.isFile d = true ∧ d.isS = false := by
  cases d <;> simp_all [Spec.isV, Spec.isFile, Spec.isS]

theorem isFile_of_isS {d : Spec} (h : d.isS = true) : Spec.isFile d = true ∧ d.isV = false := by
  cases d <;> simp_all [Spec.isV, Spec.isFile, Spec.isS]

/-- A cell does not depend on where the warp stands. -/
@[simp] theorem cell_advance (w : Warp) (i : Instr) (y : Spec) (l : Nat) : (w.advance i).cell y l = w.cell y l := by
  cases y <;> rfl

/-- The result of a vector word, whatever poison it leaves: every destination of every active lane holds it (R74). -/
theorem results_putResult (s t : State) (g : Guard) (c : Ctl) (d : Spec) (n : Nat) (hn : n = 1 ∨ n = 2) (hd : d.isV = true)
    (hs : c.sc = false) (f : Nat → Nat)
    (hc : ∀ y l, l < 32 → t.w.cell y l = (s.w.putResult c d n (s.w.active g) f).cell y l)
    (e0 : t.w.l0 = (s.w.putResult c d n (s.w.active g) f).l0) (e1 : t.w.l1 = (s.w.putResult c d n (s.w.active g) f).l1)
    (e2 : t.w.lprod = (s.w.putResult c d n (s.w.active g) f).lprod) : Results g c d n f s t := by
  obtain ⟨hf, hS⟩ := isFile_of_isV hd
  unfold Results Warp.actsIn
  simp only [hs, Bool.false_eq_true, if_false]
  exact ⟨fun y l hl => (hc y l hl).trans (cell_putResult _ _ _ hf hS _ hn (fun _ => hd) _ _ _ _ hl),
    lastResult_putLast s t _ n hn _ f (by simp) e0 e1 e2⟩

/-- The result of a scalar word (R122). -/
theorem results_scalar (s t : State) (g : Guard) (c : Ctl) (d : Spec) (n : Nat) (hn : n = 1 ∨ n = 2) (hd : DestOk c d)
    (hs : c.sc = true) (f : Nat → Nat)
    (hc : ∀ y l, l < 32 → t.w.cell y l = (if s.w.scalarOn g then Warp.putWide n s.w d 0 (f 0) else s.w).cell y l)
    (e0 : t.w.l0 = s.w.l0) (e1 : t.w.l1 = s.w.l1) (e2 : t.w.lprod = s.w.lprod) : Results g c d n f s t := by
  unfold DestOk at hd
  simp only [hs, if_true] at hd
  obtain ⟨hd, hoe, hnd⟩ := hd
  obtain ⟨hf, -⟩ := isFile_of_isS hd
  unfold Results Warp.actsIn
  simp only [hs, if_true]
  refine ⟨fun y l hl => ?_, e0, e1, e2⟩
  rw [hc y l hl]
  split
  · rw [cell_putWide _ _ hf _ hn _ _ _ _ (by omega) hl]
    simp only [hd, or_true, if_true, destAt, hnd, hoe, Bool.false_eq_true, if_false]
    cases Spec.indexIn y d n <;> rfl
  · rfl

/-- A two-source word of OPC 0x10 to 0x3F or 0x40 to 0x6F: its destinations, L0 and L1, and nothing else. -/
theorem alu2_spec (i : Instr) (s : State) (x : Alu2) (n : Nat) (hn : n = 1 ∨ n = 2) (hd : DestOk x.ctl x.d) (f : Nat → Nat)
    (t : State) (ht : t = (s.mapWarp fun w => w.alu2 x n f).advance i) :
    RegsOnly i s t ∧ SameFlags s t ∧ Results x.g x.ctl x.d n f s t := by
  subst ht
  cases hs : x.ctl.sc
  · have hv : x.d.isV = true := by simpa [DestOk, hs] using hd
    refine ⟨?_, ?_, results_putResult s _ _ _ _ _ hn hv hs _ ?_ ?_ ?_ ?_⟩
    all_goals simp [RegsOnly, SameFlags, State.advance, State.mapWarp, Warp.alu2, hs]
    simp [Warp.advance]
  · refine ⟨?_, ?_, results_scalar s _ _ _ _ _ hn hd hs _ ?_ ?_ ?_ ?_⟩
    all_goals simp only [RegsOnly, SameFlags, State.advance, State.mapWarp, Warp.alu2, hs, if_true, cell_advance]
    all_goals by_cases hon : s.w.scalarOn x.g = true <;> simp [hon, Warp.advance]

theorem alu3_eq_alu2 (w : Warp) (x : Alu3) (n : Nat) (f : Nat → Nat) :
    w.alu3 x n f = w.alu2 (Alu2.mk x.g x.ctl x.ty x.rnd x.xf x.fn x.d x.a (.spec x.b)) n f := rfl

/-- The same for a three-source word. -/
theorem alu3_spec (i : Instr) (s : State) (x : Alu3) (n : Nat) (hn : n = 1 ∨ n = 2) (hd : DestOk x.ctl x.d) (f : Nat → Nat)
    (t : State) (ht : t = (s.mapWarp fun w => w.alu3 x n f).advance i) :
    RegsOnly i s t ∧ SameFlags s t ∧ Results x.g x.ctl x.d n f s t :=
  alu2_spec i s (Alu2.mk x.g x.ctl x.ty x.rnd x.xf x.fn x.d x.a (.spec x.b)) n hn hd f t ht

end Machine

end Sys2Proof
end

