-- ==== Sys2Proof/Laws/Encoding.lean ====
section
/-! SUPPORT. The fields of a word: decoding what the encoder writes gives it back, and what decodes was written so. -/

namespace Sys2Proof

/-! ### Register specifiers, types and roundings -/

/-- A decoding that is a value, from a check that can be evaluated. -/
theorem ok_of_check {α : Type} [DecidableEq α] {e : Dec α} {y : α}
    (h : (match e with
      | .ok x => decide (x = y)
      | .error _ => false) = true) : e = .ok y := by
  cases e with
  | ok x => simpa using h
  | error _ => cases h

theorem encSpec_lt (x : Spec) : encSpec x < 1024 := by
  cases x with
  | v n => have := n.isLt; simp only [encSpec]; omega
  | s n => have := n.isLt; simp only [encSpec]; omega
  | o n => have := n.isLt; simp only [encSpec]; omega
  | l n => have := n.isLt; simp only [encSpec]; omega
  | t n => have := n.isLt; simp only [encSpec]; omega
  | sp r => cases r <;> decide
  | q r => cases r <;> decide
  | imm n => have := n.isLt; simp only [encSpec]; omega

/-- R65: a specifier reads back as it was written. -/
theorem decSpec_encSpec (x : Spec) : decSpec (encSpec x) = .ok x := by
  cases x with
  | v n =>
    have := n.isLt
    have e : n.toNat % 256 = n.toNat := by omega
    simp [decSpec, encSpec, e, this]
  | s n =>
    have := n.isLt
    have e : (256 + n.toNat) % 256 = n.toNat := by omega
    have a : ¬ 256 + n.toNat < 256 := by omega
    have b : 256 + n.toNat < 512 := by omega
    simp [decSpec, encSpec, e, b]
  | o n =>
    have := n.isLt
    have e : (512 + n.toNat) % 256 = n.toNat := by omega
    have a : ¬ 512 + n.toNat < 256 := by omega
    have b : ¬ 512 + n.toNat < 512 := by omega
    have c : 512 + n.toNat < 768 := by omega
    simp [decSpec, encSpec, e, a, c, this]
  | l n => exact ok_of_check (by revert n; decide)
  | t n => exact ok_of_check (by revert n; decide)
  | sp r => cases r <;> rfl
  | q r => cases r <;> rfl
  | imm n =>
    have := n.isLt
    have e : (768 + n.toNat) % 256 = n.toNat := by omega
    have a : ¬ 768 + n.toNat < 256 := by omega
    have b : ¬ 768 + n.toNat < 512 := by omega
    have c : 768 + n.toNat < 1024 := by omega
    simp [decSpec, encSpec, e, a, b, c] <;> (intro h; omega)

/-- R65: what reads as a specifier is its code. -/
theorem encSpec_of_decSpec {x : Nat} {y : Spec} (h : decSpec x = .ok y) : encSpec y = x := by
  have all : ∀ x < 1024, (match decSpec x with
    | .ok y => encSpec y == x
    | .error _ => true) = true := by decide +kernel
  by_cases hx : x < 1024
  · have := all x hx
    rw [h] at this
    simpa using this
  · have : decSpec x = .error (.reserved "specifier") := by
      simp [decSpec, show ¬ x < 256 by omega, show ¬ x < 512 by omega, show ¬ x < 768 by omega, hx]
    rw [this] at h
    cases h

theorem encTy_lt (t : Ty) : encTy t < 16 := by cases t <;> decide

theorem decTy_encTy (t : Ty) : decTy (encTy t) = .ok t := by cases t <;> rfl

theorem encTy_of_decTy {x : Nat} {t : Ty} (h : decTy x = .ok t) : encTy t = x := by
  unfold decTy at h
  split at h <;> cases h <;> rfl

theorem encRnd_lt (r : Rnd) : encRnd r < 8 := by cases r <;> decide

theorem decRnd_encRnd (r : Rnd) : decRnd (encRnd r) = .ok r := by cases r <;> rfl

theorem encRnd_of_decRnd {x : Nat} {r : Rnd} (h : decRnd x = .ok r) : encRnd r = x := by
  unfold decRnd at h
  split at h <;> cases h <;> rfl

/-! ### Control bits and predicate fields -/

theorem encCtl_lt (c : Ctl) : encCtl c < 256 := by
  have : c.oidx.toNat < 8 := c.oidx.isLt
  unfold encCtl bit1
  split <;> split <;> split <;> split <;> split <;> omega

theorem decCtl_encCtl (c : Ctl) : decCtl (encCtl c) = c := by
  obtain ⟨sc, oen, oidx, nodst, rls, yld⟩ := c
  have h : ∀ (a b d e f : Bool) (o : BitVec 3), decCtl (encCtl ⟨a, b, o, d, e, f⟩) = ⟨a, b, o, d, e, f⟩ := by decide +kernel
  exact h sc oen nodst rls yld oidx

theorem encCtl_decCtl {x : Nat} (h : x < 256) : encCtl (decCtl x) = x := by
  have all : ∀ x < 256, encCtl (decCtl x) = x := by decide +kernel
  exact all x h

theorem encPSrc_lt (p : PSrc) : encPSrc p < 16 := by
  have : p.p.toNat < 8 := p.p.isLt
  unfold encPSrc bit1
  split <;> omega

theorem decPSrc_encPSrc (p : PSrc) : decPSrc (encPSrc p) = .ok p := by
  obtain ⟨n, p⟩ := p
  exact ok_of_check (by revert n p; decide)

theorem encPSrc_of_decPSrc {x : Nat} {p : PSrc} (h : decPSrc x = .ok p) : encPSrc p = x := by
  have all : ∀ x < 16, (match decPSrc x with
    | .ok y => encPSrc y == x
    | .error _ => true) = true := by decide
  unfold decPSrc at h
  split at h
  · rename_i hx
    have := all x hx
    unfold decPSrc at this
    rw [if_pos hx] at this
    cases h
    simpa using this
  · cases h

/-! ### The base word (R73) -/

/-- The fields of a base word in their ranges. -/
def Raw.Bounded (r : Raw) : Prop :=
  r.len < 4 ∧ r.opc < 256 ∧ r.fn < 16 ∧ r.pn < 2 ∧ r.pr < 8 ∧ r.d < 1024 ∧ r.a < 1024 ∧ r.b < 1024 ∧ r.mod < 256 ∧ r.ctl < 256

/-- Two fields side by side, taken apart. -/
theorem low_high {m a b : Nat} (h : a < m) : (a + m * b) % m = a ∧ (a + m * b) / m = b := by
  constructor
  · rw [Nat.add_mul_mod_self_left, Nat.mod_eq_of_lt h]
  · rw [Nat.add_mul_div_left _ _ (by omega), Nat.div_eq_of_lt h, Nat.zero_add]

/-- Every field reads back as it was written. -/
theorem Raw.ofWord_toWord (r : Raw) (h : r.Bounded) : Raw.ofWord r.toWord = r := by
  obtain ⟨len, opc, fn, pn, pr, d, a, b, mod, ctl, ext⟩ := r
  obtain ⟨h1, h2, h3, h4, h5, h6, h7, h8, h9, h10⟩ := h
  simp only at h1 h2 h3 h4 h5 h6 h7 h8 h9 h10
  unfold Raw.toWord Raw.ofWord
  dsimp only
  rw [(low_high h1).1, (low_high h1).2, (low_high h2).1, (low_high h2).2, (low_high h3).1, (low_high h3).2, (low_high h4).1,
    (low_high h4).2, (low_high h5).1, (low_high h5).2, (low_high h6).1, (low_high h6).2, (low_high h7).1, (low_high h7).2,
    (low_high h8).1, (low_high h8).2, (low_high h9).1, (low_high h9).2, (low_high h10).1, (low_high h10).2]

theorem Raw.bounded_ofWord (x : Nat) : (Raw.ofWord x).Bounded := by
  have h : ∀ n y : Nat, 0 < n → y % n < n := fun n y hn => Nat.mod_lt y hn
  exact ⟨h 4 _ (by decide), h 256 _ (by decide), h 16 _ (by decide), h 2 _ (by decide), h 8 _ (by decide), h 1024 _ (by decide),
    h 1024 _ (by decide), h 1024 _ (by decide), h 256 _ (by decide), h 256 _ (by decide)⟩

/-- No bit of a word is outside its fields. -/
theorem Raw.toWord_ofWord (x : Nat) : (Raw.ofWord x).toWord = x := by
  unfold Raw.toWord Raw.ofWord
  dsimp only
  rw [Nat.mod_add_div, Nat.mod_add_div, Nat.mod_add_div, Nat.mod_add_div, Nat.mod_add_div, Nat.mod_add_div, Nat.mod_add_div,
    Nat.mod_add_div, Nat.mod_add_div, Nat.mod_add_div]

theorem Raw.guard_bit1 (g : Guard) (r : Raw) (h : r.pn = bit1 g.pn) (h2 : r.pr = g.pr.toNat) : r.guard = g := by
  obtain ⟨pr, pn⟩ := g
  simp only [Raw.guard, h, h2]
  cases pn <;> simp [bit1]

/-- The fields of a base word as the encoder writes it (R73). -/
theorem ofWord_encBase (len opc fn d a b mod ext : Nat) (g : Guard) (c : Ctl) (h1 : len < 4) (h2 : opc < 256) (h3 : fn < 16)
    (h4 : d < 1024) (h5 : a < 1024) (h6 : b < 1024) (h7 : mod < 256) :
    Raw.ofWord (encBase len opc fn g d a b mod c ext) = Raw.mk len opc fn (bit1 g.pn) g.pr.toNat d a b mod (encCtl c) ext := by
  have hp : bit1 g.pn < 2 := by unfold bit1; split <;> omega
  exact Raw.ofWord_toWord _ ⟨h1, h2, h3, hp, g.pr.isLt, h4, h5, h6, h7, encCtl_lt c⟩

/-! ### Whole words -/

/-- The length that the low bits of a word give (R67). -/
theorem lenOfWord_toWord (r : Raw) (h : r.Bounded) :
    lenOfWord r.toWord = if r.len = 0 then 8 else if r.len = 1 then 12 else if r.len = 2 then 16 else 32 := by
  obtain ⟨h1, -⟩ := h
  have : r.toWord % 4 = r.len := (low_high h1).1
  simp only [lenOfWord, this]
  have : r.len = 0 ∨ r.len = 1 ∨ r.len = 2 ∨ r.len = 3 := by omega
  rcases this with e | e | e | e <;> simp [e]

end Sys2Proof
end

