-- ==== Sys2Proof/Laws/Mem.lean ====
section
/-! SUPPORT. Memory: every operation keeps the canonical form, and a byte reads back as it was last written. -/

namespace Sys2Proof.Machine

/-! ### The canonical form -/

/-- The canonical form said by membership: every cell differs from the unlisted byte, and addresses rise. -/
theorem cellsWf_iff (m : List Host.Cell) :
    cellsWf m = true ↔ (∀ p ∈ m, p.2 ≠ unlistedByte) ∧ m.Pairwise (fun p q => p.1 < q.1) := by
  induction m with
  | nil => simp [cellsWf]
  | cons p m ih =>
    obtain ⟨a, b⟩ := p
    cases m with
    | nil => simp [cellsWf]
    | cons q m =>
      obtain ⟨c, x⟩ := q
      simp only [cellsWf, Bool.and_eq_true, bne_iff_ne, ne_eq, decide_eq_true_eq, ih]
      constructor
      · rintro ⟨⟨hb, hac⟩, hne, hp⟩
        refine ⟨fun p hp' => ?_, ?_⟩
        · rcases List.mem_cons.1 hp' with rfl | h
          · exact hb
          · exact hne p h
        refine List.Pairwise.cons ?_ hp
        intro r hr
        rcases List.mem_cons.1 hr with rfl | hr
        · exact hac
        · exact Nat.lt_trans hac (List.rel_of_pairwise_cons hp hr)
      · rintro ⟨hne, hp⟩
        exact ⟨⟨hne _ (List.mem_cons_self ..), List.rel_of_pairwise_cons hp (List.mem_cons_self ..)⟩,
          fun p h => hne p (List.mem_cons_of_mem _ h), hp.of_cons⟩

theorem mem_del {m : List Host.Cell} {k : Nat} {p : Host.Cell} (h : p ∈ Map.del m k) : p ∈ m := by
  induction m with
  | nil => simp [Map.del] at h
  | cons q m ih =>
    obtain ⟨j, y⟩ := q
    unfold Map.del at h
    split at h
    · exact List.mem_cons_of_mem _ (ih h)
    · rcases List.mem_cons.1 h with rfl | h
      · exact List.mem_cons_self ..
      · exact List.mem_cons_of_mem _ (ih h)

theorem mem_put {m : List Host.Cell} {k : Nat} {x : Byte} {p : Host.Cell} (h : p ∈ Map.put m k x) : p = (k, x) ∨ p ∈ m := by
  induction m with
  | nil => simpa [Map.put] using h
  | cons q m ih =>
    obtain ⟨j, y⟩ := q
    unfold Map.put at h
    split at h
    · simpa using h
    · split at h
      · rcases List.mem_cons.1 h with rfl | h
        · exact .inl rfl
        · exact .inr (List.mem_cons_of_mem _ h)
      · rcases List.mem_cons.1 h with rfl | h
        · exact .inr (List.mem_cons_self ..)
        · rcases ih h with h | h
          · exact .inl h
          · exact .inr (List.mem_cons_of_mem _ h)

/-- Writing one byte keeps the canonical form. -/
theorem putCell_wf {m : List Host.Cell} (h : cellsWf m = true) (a : Nat) (b : Byte) : cellsWf (putCell m a b) = true := by
  rw [cellsWf_iff] at h ⊢
  obtain ⟨hne, hp⟩ := h
  unfold putCell Map.putC
  split
  · refine ⟨fun p hp' => hne p (mem_del hp'), ?_⟩
    clear hne
    induction m with
    | nil => simp [Map.del]
    | cons q m ih =>
      obtain ⟨j, y⟩ := q
      unfold Map.del
      split
      · exact ih hp.of_cons
      · exact List.Pairwise.cons (fun r hr => List.rel_of_pairwise_cons hp (mem_del hr)) (ih hp.of_cons)
  · rename_i hb
    refine ⟨fun p hp' => (mem_put hp').elim (fun e => e ▸ hb) (hne p), ?_⟩
    clear hne
    induction m with
    | nil => simp [Map.put]
    | cons q m ih =>
      obtain ⟨j, y⟩ := q
      unfold Map.put
      split
      · rename_i hlt
        refine List.Pairwise.cons (fun r hr => ?_) hp
        rcases List.mem_cons.1 hr with rfl | hr
        · exact hlt
        · exact Nat.lt_trans hlt (List.rel_of_pairwise_cons hp hr)
      · split
        · subst_vars; exact List.Pairwise.cons (fun r hr => List.rel_of_pairwise_cons hp hr) hp.of_cons
        · refine List.Pairwise.cons (fun r hr => ?_) (ih hp.of_cons)
          rcases mem_put hr with rfl | hr
          · show j < a; omega
          · exact List.rel_of_pairwise_cons hp hr

theorem putCells_wf {m : List Host.Cell} (h : cellsWf m = true) (a : Nat) (bs : List Byte) :
    cellsWf (putCells m a bs) = true := by
  induction bs generalizing m a with
  | nil => exact h
  | cons b bs ih => exact ih (putCell_wf h a b) (a + 1)

/-! ### What one operation leaves of the cells -/

@[simp] theorem dirty_cells (m : PMem) (k : Nat) : (m.dirty k).cells = m.cells := by
  unfold PMem.dirty; dsimp only; split <;> rfl

@[simp] theorem foldl_dirty_cells (ks : List Nat) (m : PMem) : (ks.foldl PMem.dirty m).cells = m.cells := by
  induction ks generalizing m with
  | nil => rfl
  | cons k ks ih => simp [ih]

@[simp] theorem write_cells (m : PMem) (a : Nat) (bs : List Byte) : (m.write a bs).cells = putCells m.cells a bs := by
  simp [PMem.write]

@[simp] theorem raw_cells (m : PMem) (a : Nat) (bs : List Byte) : (m.raw a bs).cells = putCells m.cells a bs := rfl

@[simp] theorem setMark_cells (m : PMem) (k : Nat) : (m.setMark k).cells = m.cells := rfl

@[simp] theorem foldl_setMark_cells (ks : List Nat) (m : PMem) : (ks.foldl PMem.setMark m).cells = m.cells := by
  induction ks generalizing m with
  | nil => rfl
  | cons k ks ih => simp [ih]

@[simp] theorem flushSector_cells (m : PMem) (k : Nat) : (m.flushSector k).cells = m.cells := by
  unfold PMem.flushSector; split
  · split <;> rfl
  · rfl

/-! ### Every operation keeps the canonical form -/

theorem write_wf {m : PMem} (h : m.wf = true) (a : Nat) (bs : List Byte) : (m.write a bs).wf = true := by
  simpa [PMem.wf] using putCells_wf h a bs

theorem raw_wf {m : PMem} (h : m.wf = true) (a : Nat) (bs : List Byte) : (m.raw a bs).wf = true := putCells_wf h a bs

theorem writeNat_wf {m : PMem} (h : m.wf = true) (a n x : Nat) : (m.writeNat a n x).wf = true := write_wf h a _

theorem writeWords_wf {m : PMem} (h : m.wf = true) (a : Nat) (ws : List Word) : (m.writeWords a ws).wf = true :=
  write_wf h a _

theorem setMark_wf {m : PMem} (h : m.wf = true) (k : Nat) : (m.setMark k).wf = true := h

theorem foldl_setMark_wf {m : PMem} (h : m.wf = true) (ks : List Nat) : (ks.foldl PMem.setMark m).wf = true := by
  simpa [PMem.wf] using h

theorem flushSector_wf {m : PMem} (h : m.wf = true) (k : Nat) : (m.flushSector k).wf = true := by
  simpa [PMem.wf] using h

theorem dropSector_wf {m : PMem} (h : m.wf = true) (k : Nat) : (m.dropSector k).wf = true := by
  unfold PMem.dropSector
  split
  · split
    · exact h
    · exact putCells_wf h _ _
  · exact h

theorem hbmPut_wf {m : PMem} (h : m.wf = true) (l2 : Bool) (a : Nat) (b : Byte) : (m.hbmPut l2 a b).wf = true := by
  unfold PMem.hbmPut
  split
  · exact h
  · split
    · exact h
    · exact raw_wf h _ _

theorem hbmWrite_wf {m : PMem} (h : m.wf = true) (l2 : Bool) (a : Nat) (bs : List Byte) :
    (m.hbmWrite l2 a bs).wf = true := by
  induction bs generalizing m a with
  | nil => exact h
  | cons b bs ih => exact ih (hbmPut_wf h l2 a b) (a + 1)

/-! ### A byte after a write -/

theorem byte_eq (m : PMem) (a : Nat) : m.byte a = Map.getD m.cells a unlistedByte := rfl

/-- A byte of a cell list after bytes were written from `a` on. -/
theorem getD_putCells (m : List Host.Cell) (a j : Nat) (bs : List Byte) :
    Map.getD (putCells m a bs) j unlistedByte =
      if a ≤ j ∧ j < a + bs.length then bs.getD (j - a) unlistedByte else Map.getD m j unlistedByte := by
  induction bs generalizing m a with
  | nil => simp [putCells] <;> omega
  | cons b bs ih =>
    rw [putCells, ih]
    simp only [putCell, Map.getD_putC, List.length_cons]
    by_cases h1 : a + 1 ≤ j ∧ j < a + 1 + bs.length
    · rw [if_pos h1, if_pos (by omega)]
      obtain ⟨k, rfl⟩ : ∃ k, j = a + 1 + k := ⟨j - (a + 1), by omega⟩
      rw [show a + 1 + k - (a + 1) = k by omega, show a + 1 + k - a = k + 1 by omega]; rfl
    · rw [if_neg h1]
      by_cases h2 : j = a
      · subst h2; simp
      · rw [if_neg h2, if_neg (by omega)]

/-- A byte after a write: the byte written, or what it was. -/
theorem byte_write (m : PMem) (a j : Nat) (bs : List Byte) :
    (m.write a bs).byte j = if a ≤ j ∧ j < a + bs.length then bs.getD (j - a) unlistedByte else m.byte j := by
  simp only [byte_eq, write_cells, getD_putCells]

/-- A write leaves every byte outside it alone. -/
theorem byte_write_of_out (m : PMem) {a j : Nat} {bs : List Byte} (h : j < a ∨ a + bs.length ≤ j) :
    (m.write a bs).byte j = m.byte j := by
  rw [byte_write, if_neg (by omega)]

theorem length_bytesLE (n x : Nat) : (bytesLE n x).length = n := by
  induction n generalizing x with
  | zero => rfl
  | succ n ih => simp [bytesLE, ih]

theorem length_bytes (m : PMem) (a n : Nat) : (m.bytes a n).length = n := by
  induction n generalizing a with
  | zero => rfl
  | succ n ih => simp [PMem.bytes, ih]

/-- Bytes read after the same bytes were written. -/
theorem bytes_write (m : PMem) (a : Nat) (bs : List Byte) : (m.write a bs).bytes a bs.length = bs := by
  suffices h : ∀ (n k : Nat) , k + n = bs.length → (m.write a bs).bytes (a + k) n = bs.drop k by
    simpa using h bs.length 0 (by omega)
  intro n
  induction n with
  | zero => intro k hk; rw [PMem.bytes, List.drop_eq_nil_of_le (by omega)]
  | succ n ih =>
    intro k hk
    have hlt : k < bs.length := by omega
    rw [PMem.bytes, show a + k + 1 = a + (k + 1) by omega, ih (k + 1) (by omega), byte_write, if_pos (by omega),
      show a + k - a = k by omega, List.drop_eq_getElem_cons hlt]
    simp [List.getD, hlt]

theorem ofBytesLE_bytesLE (n x : Nat) : ofBytesLE (bytesLE n x) = x % 256 ^ n := by
  induction n generalizing x with
  | zero => simp [bytesLE, ofBytesLE, Nat.mod_one]
  | succ n ih =>
    rw [bytesLE, ofBytesLE, ih, Nat.pow_succ, Nat.mul_comm (256 ^ n), Nat.mod_mul]
    simp

/-- A number read after it was written. -/
theorem nat_writeNat (m : PMem) (a n x : Nat) : (m.writeNat a n x).nat a n = x % 256 ^ n := by
  have h := bytes_write m a (bytesLE n x)
  rw [length_bytesLE] at h
  rw [PMem.nat, PMem.writeNat, h, ofBytesLE_bytesLE]

end Sys2Proof.Machine
end

