-- ==== Sys2Proof/Laws/Shared.lean ====
section
/-! SUPPORT. What each shared operation leaves: the canonical form of memory kept by records, tokens, faults, ends, and reads
and writes at their coherence points, and all that taking a fault can do. -/

namespace Sys2Proof.Machine

/-- A fold keeps the canonical form where each of its steps does. -/
theorem foldl_wf {α : Type} (f : State → α → State) (h : ∀ s a, s.mem.wf = true → (f s a).mem.wf = true) (xs : List α) (s : State)
    (hs : s.mem.wf = true) : (xs.foldl f s).mem.wf = true := by
  induction xs generalizing s with
  | nil => exact hs
  | cons x xs ih => exact ih _ (h s x hs)

/-- A fold leaves memory alone where each of its steps does. -/
theorem foldl_mem {α : Type} (f : State → α → State) (h : ∀ s a, (f s a).mem = s.mem) (xs : List α) (s : State) :
    (xs.foldl f s).mem = s.mem := by
  induction xs generalizing s with
  | nil => rfl
  | cons x xs ih => exact (ih _).trans (h s x)

/-! ### Operations that leave memory alone -/

@[simp] theorem post_mem (s : State) (i : Item) (n : Nat) (a : List Dep) : (s.post i n a).mem = s.mem := rfl
@[simp] theorem post_w (s : State) (i : Item) (n : Nat) (a : List Dep) : (s.post i n a).w = s.w := rfl
@[simp] theorem post_turns (s : State) (i : Item) (n : Nat) (a : List Dep) : (s.post i n a).turns = s.turns := rfl

/-- A message put on its circuit is the newest there; nothing else of the device changes but the next name (R262). -/
theorem post_d (s : State) (i : Item) (n : Nat) (a : List Dep) :
    (s.post i n a).d = { s.d with
      nextId := s.d.nextId + 1
      net := s.d.net ++ [{ id := s.d.nextId, item := { i with task := s.d.frameTask i.tok.ctx i.tok.dest i.tok.ofs }, sender := n, dest := i.tok.dest, cclass := i.tok.cclass, after := a }] } := rfl

@[simp] theorem requestAll_mem (s : State) (c : Nat) : (s.requestAll c).mem = s.mem := rfl
@[simp] theorem requestAll_w (s : State) (c : Nat) : (s.requestAll c).w = s.w := rfl

@[simp] theorem suspend_mem (s : State) (c : Nat) : (s.suspend c).mem = s.mem := by
  unfold State.suspend
  dsimp only
  split <;> rfl

@[simp] theorem suspend_w (s : State) (c : Nat) : (s.suspend c).w = s.w := by
  unfold State.suspend
  dsimp only
  split <;> rfl

@[simp] theorem ringFails_mem (s : State) (c : Nat) : (s.ringFails c).mem = s.mem := by
  unfold State.ringFails
  dsimp only
  split <;> simp

@[simp] theorem ringFails_w (s : State) (c : Nat) : (s.ringFails c).w = s.w := by
  unfold State.ringFails
  dsimp only
  split <;> simp

@[simp] theorem sendNotice_mem (s : State) (k : Token) (g : Nat) : (s.sendNotice k g).mem = s.mem := by
  unfold State.sendNotice
  split <;> rfl

@[simp] theorem sendNotice_w (s : State) (k : Token) (g : Nat) : (s.sendNotice k g).w = s.w := by
  unfold State.sendNotice
  split <;> rfl

@[simp] theorem notify_mem (s : State) (c g n h f v b : Nat) (ok : Bool) : (s.notify c g n h f v b ok).mem = s.mem := by
  unfold State.notify
  dsimp only
  repeat' split
  all_goals simp

@[simp] theorem notify_w (s : State) (c g n h f v b : Nat) (ok : Bool) : (s.notify c g n h f v b ok).w = s.w := by
  unfold State.notify
  dsimp only
  repeat' split
  all_goals simp

@[simp] theorem happen_mem (s : State) (g : Nat) (h : Happening) : (s.happen g h).mem = s.mem := rfl
@[simp] theorem happen_w (s : State) (g : Nat) (h : Happening) : (s.happen g h).w = s.w := rfl
@[simp] theorem forgetPend_mem (s : State) (c g ofs : Nat) : (s.forgetPend c g ofs).mem = s.mem := rfl

@[simp] theorem sweepFrames_mem (s : State) (c g : Nat) : (s.sweepFrames c g).mem = s.mem := rfl
@[simp] theorem sweepFrames_w (s : State) (c g : Nat) : (s.sweepFrames c g).w = s.w := rfl

@[simp] theorem focus_mem (s : State) (u : Nat) : (s.focus u).mem = s.mem := by
  unfold State.focus
  repeat' split
  all_goals rfl

@[simp] theorem focus_turns (s : State) (u : Nat) : (s.focus u).turns = s.turns := by
  unfold State.focus
  repeat' split
  all_goals rfl

@[simp] theorem mapUid_mem (s : State) (u : Nat) (f : Warp → Warp) : (s.mapUid u f).mem = s.mem := by
  unfold State.mapUid
  split <;> rfl

@[simp] theorem fillTlb_mem (s : State) (g c va : Nat) : (s.fillTlb g c va).mem = s.mem := by
  unfold State.fillTlb
  split <;> rfl

@[simp] theorem fillTlb_w (s : State) (g c va : Nat) : (s.fillTlb g c va).w = s.w := by
  unfold State.fillTlb
  split <;> rfl

@[simp] theorem markDirty_mem (s : State) (c t va n : Nat) : (s.markDirty c t va n).mem = s.mem := by
  unfold State.markDirty
  dsimp only
  split <;> rfl

/-! ### Writes of units (R259, R269) -/

theorem modifyBytes_mem (s : State) (g pa : Nat) (bs : List Byte) : (s.modifyBytes g pa bs).mem = s.mem.write pa bs := by
  unfold State.modifyBytes
  dsimp only
  split <;> rfl

theorem modifyBytes_wf {s : State} (h : s.mem.wf = true) (g pa : Nat) (bs : List Byte) : (s.modifyBytes g pa bs).mem.wf = true := by
  rw [modifyBytes_mem]
  exact write_wf h _ _

@[simp] theorem modifyBytes_w (s : State) (g pa : Nat) (bs : List Byte) : (s.modifyBytes g pa bs).w = s.w := by
  unfold State.modifyBytes
  dsimp only
  split <;> rfl

/-- The writes of atomics made before a unit's access keep the canonical form. -/
theorem settle_wf {s : State} (h : s.mem.wf = true) (a n : Nat) : (s.settle a n).mem.wf = true := by
  unfold State.settle
  dsimp only
  split
  · exact h
  · exact foldl_wf (fun (u : State) (x : Nat × Nat × List Byte) => u.modifyBytes x.1 x.2.1 x.2.2) (fun u x hu => modifyBytes_wf hu _ _ _) _ _ h

/-- They leave the issuing warp alone. -/
@[simp] theorem settle_w (s : State) (a n : Nat) : (s.settle a n).w = s.w := by
  unfold State.settle
  dsimp only
  split
  · rfl
  · generalize List.flatMap _ _ = xs
    have : ∀ (xs : List (Nat × Nat × List Byte)) (u : State), (xs.foldl (fun u x => u.modifyBytes x.1 x.2.1 x.2.2) u).w = u.w := by
      intro xs
      induction xs with
      | nil => exact fun _ => rfl
      | cons x xs ih => exact fun u => (ih _).trans (modifyBytes_w _ _ _ _)
    exact this xs s

theorem putMem_wf {s : State} (h : s.mem.wf = true) (a : Nat) (bs : List Byte) : (s.putMem a bs).mem.wf = true :=
  write_wf (settle_wf h _ _) _ _

@[simp] theorem putMem_w (s : State) (a : Nat) (bs : List Byte) : (s.putMem a bs).w = s.w := settle_w s _ _

/-! ### Marks met (R392) -/

/-- A mark met changes no byte and keeps the canonical form. -/
theorem meetMark_wf {s : State} (h : s.mem.wf = true) (a n : Nat) : (s.meetMark a n).mem.wf = true := by
  unfold State.meetMark
  split
  · unfold State.rowFailing
    split <;> exact h
  · exact h

theorem meetPlace_wf {s : State} (h : s.mem.wf = true) (p : Place) (n : Nat) : (s.meetPlace p n).mem.wf = true := by
  unfold State.meetPlace
  split
  · exact h
  · exact meetMark_wf h _ _

@[simp] theorem meetMark_w (s : State) (a n : Nat) : (s.meetMark a n).w = s.w := by
  unfold State.meetMark
  split
  · unfold State.rowFailing
    split <;> rfl
  · rfl

/-- Where no reader is the first to meet an error, nothing changes. -/
theorem meetMark_old {s : State} {a n : Nat} (h : s.mem.unmet a n = false) : s.meetMark a n = s := by
  unfold State.meetMark
  rw [h]; rfl

/-! ### Records (R386 to R388) -/

/-- A record keeps the canonical form of memory, whether it is written, dropped or waits. -/
theorem writeRec_wf {s : State} (h : s.mem.wf = true) (r : FaultRec) : (s.writeRec r).1.mem.wf = true := by
  unfold State.writeRec
  dsimp only
  split
  · exact h
  · split
    · simpa using h
    · have h1 : ∀ hp : Nat, (s.settle hp 64).mem.wf = true := fun hp => settle_wf h hp 64
      split
      · split
        · exact writeNat_wf (h1 _) _ _ _
        · exact h1 _
      · split
        · simpa using h1 _
        · simpa using writeNat_wf (writeWords_wf (settle_wf (h1 _) _ _) _ _) _ _ _

/-- A record leaves the issuing warp alone. -/
@[simp] theorem writeRec_w (s : State) (r : FaultRec) : (s.writeRec r).1.w = s.w := by
  unfold State.writeRec
  dsimp only
  repeat' split
  all_goals simp

theorem record_wf {s : State} (h : s.mem.wf = true) (k : WaitRec) : (s.record k).1.mem.wf = true := by
  unfold State.record
  dsimp only
  split
  · exact h
  · split
    · exact h
    · split
      · exact writeRec_wf h _
      · exact writeRec_wf h _

@[simp] theorem record_w (s : State) (k : WaitRec) : (s.record k).1.w = s.w := by
  unfold State.record
  dsimp only
  repeat' split
  all_goals simp

theorem note_wf {s : State} (h : s.mem.wf = true) (r : FaultRec) : (s.note r).mem.wf = true := record_wf h _

@[simp] theorem note_w (s : State) (r : FaultRec) : (s.note r).w = s.w := record_w s _

theorem noteUnit_wf {s : State} (h : s.mem.wf = true) (r : FaultRec) : (s.noteUnit r).mem.wf = true := record_wf h _

@[simp] theorem noteUnit_w (s : State) (r : FaultRec) : (s.noteUnit r).w = s.w := record_w s _

theorem noteFor_wf {s : State} (h : s.mem.wf = true) (u n : Nat) (r : FaultRec) : (s.noteFor u n r).mem.wf = true := record_wf h _

@[simp] theorem noteFor_w (s : State) (u n : Nat) (r : FaultRec) : (s.noteFor u n r).w = s.w := record_w s _

theorem noteOp_wf {s : State} (h : s.mem.wf = true) (u n : Nat) (r : FaultRec) : (s.noteOp u n r).mem.wf = true := record_wf h _

@[simp] theorem noteOp_w (s : State) (u n : Nat) (r : FaultRec) : (s.noteOp u n r).w = s.w := record_w s _

theorem noteWarp_wf {s : State} (h : s.mem.wf = true) (r : FaultRec) : (s.noteWarp r).mem.wf = true := record_wf h _

@[simp] theorem noteWarp_w (s : State) (r : FaultRec) : (s.noteWarp r).w = s.w := record_w s _

/-! ### Tokens (R226, R262, R404) -/

theorem dropTok_wf {s : State} (h : s.mem.wf = true) (t : Token) (n g : Nat) : (s.dropTok t n g).mem.wf = true := by
  unfold State.dropTok
  exact note_wf (by simpa using h) _

@[simp] theorem dropTok_w (s : State) (t : Token) (n g : Nat) : (s.dropTok t n g).w = s.w := by
  unfold State.dropTok
  simp

theorem route_wf {s : State} (h : s.mem.wf = true) (i : Item) (n : Nat) (a : List Dep) : (s.route i n a).mem.wf = true := by
  unfold State.route
  dsimp only
  repeat' split
  all_goals first | exact h | exact dropTok_wf h _ _ _

@[simp] theorem route_w (s : State) (i : Item) (n : Nat) (a : List Dep) : (s.route i n a).w = s.w := by
  unfold State.route
  dsimp only
  repeat' split
  all_goals simp

theorem sendTok_wf {s : State} (h : s.mem.wf = true) (t : Token) (n : Nat) (a : List Dep) : (s.sendTok t n a).mem.wf = true :=
  route_wf h _ n a

@[simp] theorem sendTok_w (s : State) (t : Token) (n : Nat) (a : List Dep) : (s.sendTok t n a).w = s.w := route_w s _ n a

/-- A token for a core of this device that is not offline is put on its circuit (R226, R262). -/
theorem sendTok_here (s : State) (t : Token) (n : Nat) (a : List Dep) (h : t.device = s.d.devnum)
    (ho : (s.d.core t.dest).offline = false) : s.sendTok t n a = s.post { kind := 0, tok := t, ctr := 0 } n a := by
  unfold State.sendTok State.route
  simp [h, ho]

/-! ### Frames, and the end of a warp (R112, R385) -/

theorem releaseFrame_wf {s : State} (h : s.mem.wf = true) (c g o : Nat) : (s.releaseFrame c g o).mem.wf = true := by
  unfold State.releaseFrame
  dsimp only
  split
  · exact h
  · split
    · exact h
    · rw [sweepFrames_mem]
      have h1 := foldl_wf (fun (t : State) (k : Token) => t.dropTok k 2 g) (fun s a hs => dropTok_wf hs _ _ _)
      have h2 := fun (f : Desc → FaultRec) (k : Ctx → Ctx) =>
        foldl_wf (fun (t : State) (d : Desc) => (t.mapCtx c k).note (f d)) (fun s a hs => note_wf (by simpa using hs) _)
      split <;> exact h1 _ _ (h2 _ _ _ _ (by simpa using h))

theorem endWarp_wf {s : State} (h : s.mem.wf = true) : s.endWarp.mem.wf = true := by
  have h1 := foldl_wf (fun (t : State) (o : Nat) => t.releaseFrame s.w.ctx s.w.core o) (fun t o ht => releaseFrame_wf ht _ _ _) s.w.pend s h
  unfold State.endWarp
  dsimp only
  rw [sweepFrames_mem]
  split <;> exact h1

/-- A warp that ends leaves its core. -/
theorem endWarp_w (s : State) : s.endWarp.w = Warp.absent := by
  unfold State.endWarp
  dsimp only
  rw [sweepFrames_w]
  split <;> rfl

/-! ### Taking a fault (R250, R335, R385) -/

/-- TAKING AN EXCEPTION keeps the canonical form. -/
theorem raise_wf {s : State} (h : s.mem.wf = true) (r : Raise) : (s.raise r).mem.wf = true := by
  unfold State.raise State.faultWith
  dsimp only
  split
  · exact record_wf h _
  · exact endWarp_wf (record_wf h _)

theorem raiseAll_wf {s : State} (h : s.mem.wf = true) (c : Nat) (x : Word) : (s.raiseAll c x).mem.wf = true := raise_wf h _

/-- All that taking an exception does to the warp: it is gone, or it waits for its record's room (R385, R387). -/
theorem raise_w (s : State) (r : Raise) : (s.raise r).w = Warp.absent ∨ (s.raise r).w = { s.w with status := .ringWait } := by
  unfold State.raise State.faultWith
  dsimp only
  split
  · right; simp
  · left; exact endWarp_w _

theorem parkWith_wf {s : State} (h : s.mem.wf = true) (kind sd : Nat) (r : FaultRec) : (s.parkWith kind sd r).mem.wf = true := by
  unfold State.parkWith
  dsimp only
  rw [State.mapWarp_mem]
  exact record_wf (by simpa using h) _

/-- All that parking does to the warp: it waits at its word, under its entry or for its record's room (R335). -/
theorem parkWith_w (s : State) (kind sd : Nat) (r : FaultRec) :
    (s.parkWith kind sd r).w = { s.w with status := .ringWait } ∨
    (s.parkWith kind sd r).w = { s.w with status := .parked (s.d.share s.w.ctx s.w.core).freePark } := by
  unfold State.parkWith
  dsimp only
  simp only [State.mapWarp_w, record_w, State.mapShare_w]
  generalize (State.record _ _).2 = b
  cases b
  · right; rfl
  · left; rfl

theorem parkTransl_wf {s : State} (h : s.mem.wf = true) (code : Nat) (m : Lanes) (a d0 : Nat) :
    (s.parkTransl code m a d0).mem.wf = true := parkWith_wf h 1 0 _

theorem parkEngine_wf {s : State} (h : s.mem.wf = true) (kind idx c g code a d0 : Nat) :
    (s.parkEngine kind idx c g code a d0).1.mem.wf = true := by
  unfold State.parkEngine
  exact noteUnit_wf (by simpa using h) _

@[simp] theorem dropLeave_mem (s : State) (c : Nat) : (s.dropLeave c).mem = s.mem := by
  unfold State.dropLeave
  exact foldl_mem (fun (t : State) (p : Nat × Nat) => t.returnLeave p.1 p.2) (fun _ _ => rfl) _ s

@[simp] theorem discard_mem (s : State) (c : Nat) : (s.discard c).mem = s.mem := dropLeave_mem s c

@[simp] theorem freeCtx_mem (s : State) (c : Nat) : (s.freeCtx c).mem = s.mem := discard_mem s c

theorem endCtx_wf {s : State} (h : s.mem.wf = true) (c code cause core : Nat) : (s.endCtx c code cause core).mem.wf = true := by
  unfold State.endCtx
  dsimp only
  by_cases hc : ((s.d.ctx c).state = .free || (s.d.ctx c).state = .ending) = true
  · rw [if_pos hc]; exact h
  · rw [if_neg hc]
    generalize hr : State.note s _ = t
    have ht : t.mem.wf = true := hr ▸ note_wf h _
    split
    · simpa using ht
    · exact ht

/-! ### Reads and writes at their coherence points (R167 to R171, R260, R282, R344) -/

theorem writeVirt_wf {s : State} (h : s.mem.wf = true) (c va : Nat) (bs : List Byte) : (s.writeVirt c va bs).mem.wf = true := by
  unfold State.writeVirt
  split
  · exact putMem_wf h _ _
  · exact h

theorem storeBytes_wf {s : State} (h : s.mem.wf = true) (g pa : Nat) (bs : List Byte) : (s.storeBytes g pa bs).mem.wf = true := by
  unfold State.storeBytes
  dsimp only
  split <;> exact write_wf h _ _

/-- A store writes its bytes and nothing else of memory. -/
theorem storeBytes_mem (s : State) (g pa : Nat) (bs : List Byte) : (s.storeBytes g pa bs).mem = s.mem.write pa bs := by
  unfold State.storeBytes
  dsimp only
  split <;> rfl

@[simp] theorem loadL1_mem (s : State) (g pa n : Nat) : (s.loadL1 g pa n).2.2.mem = s.mem := by
  unfold State.loadL1
  repeat' split
  all_goals rfl

@[simp] theorem readPlace_mem (s : State) (c g : Nat) (l1 : Bool) (p : Place) (n : Nat) : (s.readPlace c g l1 p n).state.mem = s.mem := by
  unfold State.readPlace
  split
  · rfl
  · split
    · simp
    · rfl

theorem exactAdd_wf {s : State} (h : s.mem.wf = true) (g pa size : Nat) (v : FV) : (s.exactAdd g pa size v).mem.wf = true := by
  unfold State.exactAdd
  dsimp only
  exact modifyBytes_wf (s := s.fresh.2) h g pa _

theorem copyGranule_wf {m : PMem} (h : m.wf = true) (a b : Nat) : (m.copyGranule a b).wf = true := by
  unfold PMem.copyGranule
  dsimp only
  generalize (List.range 64).filter _ = ks
  have : ∀ (ks : List Nat) (t : PMem), t.wf = true → (ks.foldl (fun t k => t.setMark (b / 64 + k)) t).wf = true := by
    intro ks
    induction ks with
    | nil => exact fun _ ht => ht
    | cons k ks ih => exact fun t ht => ih _ (setMark_wf ht _)
  exact this _ _ (write_wf h _ _)

theorem moveAccs_wf {m : PMem} (h : m.wf = true) (a : Option Nat) (b : Nat) : (m.moveAccs a b).wf = true := by
  unfold PMem.moveAccs
  split <;> exact h

/-- The copy before a first write keeps the canonical form (R344). -/
theorem cow_wf {s t : State} (h : s.mem.wf = true) (c task va pa : Nat) (e : s.cow c task va pa = some t) : t.mem.wf = true := by
  unfold State.cow at e
  dsimp only at e
  split at e
  · cases e
  split at e
  · cases e; exact h
  · split at e
    · cases e
    · split at e
      · cases e; exact moveAccs_wf (copyGranule_wf h _ _) _ _
      · cases e; exact copyGranule_wf h _ _

end Sys2Proof.Machine
end

