-- ==== Sys2Proof/Laws/Perform.lean ====
section
/-! SUPPORT. Performing accesses keeps the canonical form of memory: a piece, an operation, and every piece of an operation. -/

namespace Sys2Proof.Machine

/-! ### Writes of a party -/

theorem writeAt_wf {s t : State} (h : s.mem.wf = true) {c g task va pa : Nat} {bs : List Byte}
    (e : s.writeAt c g task va pa bs = some t) : t.mem.wf = true := by
  unfold State.writeAt at e
  split at e
  · cases e
  · rename_i s1 hs
    cases e
    exact storeBytes_wf (by simpa using cow_wf h _ _ _ _ hs) _ _ _

theorem modifyAt_wf {s t : State} (h : s.mem.wf = true) {c task va pa n : Nat} {f : Nat → State → State}
    (hf : ∀ a u, u.mem.wf = true → (f a u).mem.wf = true) (e : s.modifyAt c task va pa n f = some t) : t.mem.wf = true := by
  unfold State.modifyAt at e
  split at e
  · cases e
  · rename_i s1 hs
    cases e
    exact hf _ _ (by simpa using cow_wf h _ _ _ _ hs)

/-! ### The end of an operation -/

@[simp] theorem setOp_mem (s : State) (o : MemOp) : (s.setOp o).mem = s.mem := rfl

@[simp] theorem freeEnded_mem (s : State) (u : Nat) : (s.freeEnded u).mem = s.mem := by
  unfold State.freeEnded
  split <;> rfl

theorem markRecord_wf {s : State} (h : s.mem.wf = true) (o : MemOp) : (s.markRecord o).mem.wf = true := by
  unfold State.markRecord
  split
  · exact noteOp_wf h _ _ _
  · exact h

theorem finishOp_wf {s : State} (h : s.mem.wf = true) (o : MemOp) : (s.finishOp o).mem.wf = true := by
  unfold State.finishOp
  dsimp only
  rw [freeEnded_mem]
  apply markRecord_wf
  split
  · simpa using h
  · exact h

theorem putOp_wf {s : State} (h : s.mem.wf = true) (o : MemOp) : (s.putOp o).mem.wf = true := by
  unfold State.putOp
  split
  · exact finishOp_wf h o
  · exact h

@[simp] theorem deliverLane_mem (s : State) (o : MemOp) (l : Nat) : (s.deliverLane o l).mem = s.mem := by
  unfold State.deliverLane
  simp

/-! ### Pieces -/

theorem readPiece_wf {x : State × MemOp} (h : x.1.mem.wf = true) (p : Piece) : (readPiece x p).1.mem.wf = true := by
  unfold readPiece
  dsimp only
  split
  · rw [mapUid_mem]; exact meetPlace_wf (by simpa using h) _ _
  · simpa using h

theorem readPieces_wf (ps : List Piece) {x : State × MemOp} (h : x.1.mem.wf = true) : (ps.foldl readPiece x).1.mem.wf = true := by
  induction ps generalizing x with
  | nil => exact h
  | cons p ps ih => exact ih (readPiece_wf h p)

theorem performLoad_wf {s t : State} (h : s.mem.wf = true) {o : MemOp} {p : Piece} (e : s.performLoad o p = some t) :
    t.mem.wf = true := by
  unfold State.performLoad at e
  dsimp only at e
  split at e
  · cases e
    apply putOp_wf
    rw [foldl_mem _ (fun t l => deliverLane_mem t _ l)]
    exact readPieces_wf _ h
  · cases e

theorem putPiece_wf {s t : State} (h : s.mem.wf = true) {o : MemOp} {p : Piece} {bs : List Byte} (e : s.putPiece o p bs = some t) :
    t.mem.wf = true := by
  unfold State.putPiece at e
  split at e
  · exact writeAt_wf h e
  · cases e; exact h

theorem foldl_sector_wf (f : PMem → Nat → PMem) (hf : ∀ m k, m.wf = true → (f m k).wf = true) (ks : List Nat) (m : PMem)
    (h : m.wf = true) : (ks.foldl f m).wf = true := by
  induction ks generalizing m with
  | nil => exact h
  | cons k ks ih => exact ih _ (hf m k h)

theorem writePiece_wf {s t : State} (h : s.mem.wf = true) {o : MemOp} {i : Nat} {p : Piece} (e : s.writePiece o i p = some t) :
    t.mem.wf = true := by
  unfold State.writePiece at e
  have sectors : ∀ (m : PMem) (ks : List Nat) (b : Bool), m.wf = true →
      (ks.foldl (if b = true then PMem.dropSector else PMem.flushSector) m).wf = true := by
    intro m ks b hm
    cases b
    · exact foldl_sector_wf _ (fun m k hm => flushSector_wf hm k) ks m hm
    · exact foldl_sector_wf _ (fun m k hm => dropSector_wf hm k) ks m hm
  have clean : ∀ (a n : Nat) (c : Prop) [Decidable c],
      ((sectorsOf a n).foldl (if c then PMem.dropSector else PMem.flushSector)
        { s.mem with accs := s.mem.accs.filter fun x => !x.meets a n }).wf = true := by
    intro a n c _
    by_cases hc : c
    · rw [if_pos hc]; exact sectors _ _ true h
    · rw [if_neg hc]; exact sectors _ _ false h
  split at e
  · exact putPiece_wf h e
  · exact putPiece_wf h e
  · split at e
    · exact modifyAt_wf h (fun a u hu => modifyBytes_wf hu _ _ _) e
    · cases e; exact h
  · split at e
    · exact modifyAt_wf h (fun a u hu => modifyBytes_wf hu _ _ _) e
    · cases e; exact h
  · split at e
    · cases e; exact clean _ _ _
    · cases e; exact h
  · split at e
    · cases e; exact clean _ _ _
    · cases e; exact h
  · cases e

@[simp] theorem clearCovered_wf {s : State} (o : MemOp) (p : Piece) (ks : List Nat) :
    (s.clearCovered o p ks).mem.wf = s.mem.wf := by
  unfold State.clearCovered
  split
  · split <;> rfl
  · rfl

theorem writePieces_wf {o : MemOp} (ms : List (Piece × Nat)) (x : Option State) (hx : ∀ u, x = some u → u.mem.wf = true) (t : State)
    (e : ms.foldl (fun (t : Option State) q => t.bind fun u => u.writePiece o q.2 q.1) x = some t) : t.mem.wf = true := by
  induction ms generalizing x with
  | nil => exact hx t e
  | cons m ms ih =>
    refine ih _ ?_ e
    intro u hu
    cases x with
    | none => cases hu
    | some v => exact writePiece_wf (hx v rfl) hu

theorem performStore_wf {s t : State} (h : s.mem.wf = true) {o : MemOp} {i : Nat} {p : Piece} (e : s.performStore o i p = some t) :
    t.mem.wf = true := by
  unfold State.performStore at e
  dsimp only at e
  split at e
  · split at e
    · rename_i u hu
      cases e
      apply putOp_wf
      rw [clearCovered_wf]
      exact writePieces_wf _ (some s) (fun v hv => by cases hv; exact h) u hu
    · cases e
  · cases e

theorem endAtomic_wf {s : State} (h : s.mem.wf = true) (o : MemOp) (i : Nat) (p : Piece) : (s.endAtomic o i p).mem.wf = true := by
  unfold State.endAtomic
  apply putOp_wf
  split
  · exact h
  · simpa using h

theorem meetOld_wf {s : State} (h : s.mem.wf = true) (o : MemOp) (p : Piece) : (s.meetOld o p).1.mem.wf = true := by
  unfold State.meetOld
  split
  · split
    · dsimp only
      split
      · exact meetMark_wf h _ _
      · simpa using meetMark_wf h _ _
    · exact h
  · exact h

theorem performAtom_wf {s t : State} (h : s.mem.wf = true) {o : MemOp} {i : Nat} {p : Piece} {op data cmp : Nat} {whole : Bool}
    (e : s.performAtom o i p op data cmp whole = some t) : t.mem.wf = true := by
  unfold State.performAtom at e
  split at e
  · dsimp only at e
    split at e
    · obtain ⟨u, hu, rfl⟩ := Option.map_eq_some_iff.mp e
      exact endAtomic_wf (modifyAt_wf (meetOld_wf h o p) (fun a u hu => modifyBytes_wf hu _ _ _) hu) _ _ _
    · split at e
      · cases e
      · cases e; exact meetOld_wf h o p
  · cases e

theorem performRed_wf {s t : State} (h : s.mem.wf = true) {o : MemOp} {i : Nat} {p : Piece} {flt : Bool} {v : List Nat} {whole : Bool}
    (e : s.performRed o i p flt v whole = some t) : t.mem.wf = true := by
  unfold State.performRed at e
  split at e
  · dsimp only at e
    split at e
    · obtain ⟨u, hu, rfl⟩ := Option.map_eq_some_iff.mp e
      refine putOp_wf (modifyAt_wf (meetOld_wf h o p) (fun a u hu => ?_) hu) _
      split
      · exact foldl_wf _ (fun u x hx => exactAdd_wf hx _ _ _ _) _ _ hu
      · exact modifyBytes_wf hu _ _ _
    · split at e
      · cases e
      · cases e; exact meetOld_wf h o p
  · cases e

/-- The write that ends an atomic keeps the canonical form. -/
theorem performEnd_wf {s t : State} (h : s.mem.wf = true) {o : MemOp} {i : Nat} {p : Piece} (e : s.performEnd o i p = some t) :
    t.mem.wf = true := by
  unfold State.performEnd at e
  obtain ⟨u, hu, rfl⟩ := Option.map_eq_some_iff.mp e
  split at hu
  · exact endAtomic_wf (writePiece_wf h hu) _ _ _
  · cases hu; exact endAtomic_wf h _ _ _

/-- Performing one piece keeps the canonical form, whatever it does. -/
theorem performPiece_wf {s t : State} (h : s.mem.wf = true) {o : MemOp} {i : Nat} {p : Piece} (e : s.performPiece o i p = some t) :
    t.mem.wf = true := by
  unfold State.performPiece at e
  split at e
  · exact performLoad_wf h e
  · split at e
    · exact performAtom_wf h e
    · cases e
  · split at e
    · exact performRed_wf h e
    · cases e
  · split at e
    · exact performEnd_wf h e
    · cases e
  · exact performStore_wf (meetOld_wf h o p) e
  · exact performStore_wf h e

theorem performAll_wf (n : Nat) {s : State} (h : s.mem.wf = true) (id : Nat) : (s.performAll id n).mem.wf = true := by
  induction n generalizing s with
  | zero => exact h
  | succ n ih =>
    unfold State.performAll
    split
    · exact h
    · split
      · exact h
      · rename_i o _ t ht
        obtain ⟨q, _, hq⟩ := List.exists_of_findSome?_eq_some ht
        exact ih (performPiece_wf h hq)

end Sys2Proof.Machine
end

