-- ==== Sys2Proof/Tests/Slice0.lean ====
section
/-! SUPPORT. Tests: words written out from the encoding tables and read by the decoder, words that are not well formed, a witness for
the hypotheses of each obligation, and single steps whose results are worked out by hand from the rules. -/

namespace Sys2Proof.Tests

open Sys2Proof.Machine

-- One theorem at a time, so that their evaluation needs no thread each.
set_option Elab.async false

/-- A state that answers a next state; the state itself otherwise. -/
def after (i : Instr) (s : State) : State :=
  match exec i s with
  | .next t => t
  | _ => s

/-- Numbers laid in memory: address, bytes, value. -/
def image (xs : List (Nat × Nat × Nat)) : PMem :=
  xs.foldl (fun m x => m.raw x.1 (bytesLE x.2.1 x.2.2)) PMem.reset

/-- Page tables that map the lowest gibibyte to itself, readable and writable (R330, R331); a block table of one block and
its header (R91, R104). -/
def pages : List (Nat × Nat × Nat) :=
  [(0x10000, 8, 0x11001), (0x11000, 8, 0x12001), (0x12000, 8, 0xF), (0x30000, 4, 0x100),
    (0x30100, 4, 0x400), (0x30104, 4, 0x20400000), (0x30108, 4, 0x00200F00), (0x3010C, 4, 0x00020000)]

def header : Header := Header.ofWords [0x400, 0x20400000, 0x00200F00, 0x00020000]

def task0 : Task :=
  { code := 0x30000, codeLen := 0x1000, btab := 0x30000, nblk := 1, succx := 0x31000, nsuccx := 1, const := 0, constLen := 0,
    crec := 0, cblk := 0, fr := nullHandle, frTag := 0, child := none, depth := 0, forks := 0, debug := false, done := false,
    doneSeq := 0 }

def context0 : Ctx :=
  { Ctx.free with
    state := .active, troot := 0x10000, cring := 0x21000, sring := 0x22000, fring := 0x20000, save := 0x100000, frameg := 1, scrg := 1
    supv := true, tasks := [(0, task0)] }

def frame0 : Frame := Frame.fresh .live 0 1 0 0

def share0 : Share := { Share.empty with slot := some 0, frames := [(0, frame0), (16, frame0)] }

def warp0 : Warp :=
  { Warp.absent with
    live := true, uid := 1, hdr := header, base := 0x30100, filled := 3, frame := [(0, 0), (1, 16)], tag := [(0, 32), (1, 33)] }

/-- A supervisor context with one warp of two lanes on core 0, its registers given: V by register × 32 + lane, S by
register. -/
def state0 (v s : Map Word) (mem : List (Nat × Nat × Nat)) : State :=
  { State.reset with
    w := { warp0 with v := v, s := s }
    d := { Dev.reset with ctxs := [(0, context0)], shares := [(0, share0)], nextId := 2 }
    mem := image (pages ++ mem) }

/-- The same with a sequencer warp. -/
def state0q : State := { state0 [] [] [] with w := { (state0 [] [] []).w with seq := true, hdr := { header with seq := true } } }

/-! ### Decoding: words written out from the manual's tables -/

/-- Each word decodes to an instruction of the mnemonic beside it. -/
def reads (ws : List (Nat × Nat × String)) : Bool :=
  ws.all fun p => (decodeTableWord p.1 p.2.1).map Instr.mnemonic == some p.2.2

/-- Words of the control rows, put together field by field from R65, R73 to R82 and R85 to R87. -/
def controlWords : List (Nat × Nat × String) := [
  (128, 0x0000003C0000F00002420C9108324002, "END"),
  (128, 0x0000003C0000F00003C0000710518006, "ENDR"),
  (64, 0x002A000000038008, "TRAP"),
  (64, 0x000000000003800C, "NOP"),
  (96, 0x000000090000000020038011, "SEND"),
  (96, 0x000000090000000020038015, "SENDM"),
  (64, 0x000FC08010038018, "ARM"),
  (96, 0x0000000000000031000B801D, "FALLOC"),
  (64, 0x0000000020038020, "FFREE"),
  (128, 0x00000000000000000080C00000078026, "LDF"),
  (128, 0x00000000000000030080C0000007802A, "STF"),
  (64, 0x0000C1501003802C, "TCSET"),
  (64, 0x0007000000038030, "BRK")]

/-- Words of the integer rows, put together field by field from R65, R73 to R82 and R85 to R87. -/
def integerWords : List (Nat × Nat × String) := [
  (64, 0x0000C040401B8040, "IADD"),
  (64, 0x00004080401B8044, "ISUB"),
  (96, 0x00000C0200100140401B8049, "IADDC"),
  (96, 0x1234567800000000401B804D, "IMUL"),
  (64, 0x00100140401B8050, "IMULH"),
  (96, 0x0000000700000140401B8055, "IMAD"),
  (96, 0x0000000800000140401B8059, "IMADW"),
  (64, 0x00000140401B805C, "IMIN"),
  (64, 0x00000140401B8060, "IMAX"),
  (64, 0x00000000401B8064, "IABS"),
  (64, 0x00000140401B8080, "AND"),
  (64, 0x00000140401B8084, "OR"),
  (64, 0x00000140401B8088, "XOR"),
  (64, 0x00000140401B808C, "ANDN"),
  (64, 0x0000C0C0401B8090, "SHL"),
  (64, 0x0000C0C0401B8094, "SHR"),
  (64, 0x0000C0C0401B8098, "SAR"),
  (64, 0x0000C0C0401B809C, "ROT"),
  (96, 0x000003050000C0C0401B80A1, "BFE"),
  (96, 0x0000000700000140401B80A5, "BFI"),
  (64, 0x00000000401B80A8, "POPC"),
  (64, 0x00000000401B80AC, "CLZ"),
  (64, 0x00000000401B80B0, "CTZ"),
  (64, 0x00000000401B80B4, "BREV"),
  (64, 0x00000000401B80B8, "HASH"),
  (64, 0x0000C040300788C0, "ISETP"),
  (96, 0x0000000900000140401B80C5, "ISEL"),
  (96, 0x0000030200000140202380C9, "LEA"),
  (64, 0x00000010401B80CC, "MOV"),
  (96, 0x0000000000000000001380D1, "MOVI"),
  (64, 0x00100022201380D4, "MOVS"),
  (64, 0x000002C0200780D8, "PAND"),
  (64, 0x000000C0200780DC, "POR"),
  (64, 0x000000C0200780E0, "PXOR"),
  (64, 0x00000000200780E4, "PNOT")]

/-- Words of the float rows, put together field by field from R65, R73 to R82 and R85 to R87. -/
def floatWords : List (Nat × Nat × String) := [
  (64, 0x00400140401B8100, "FADD"),
  (64, 0x00420140401B8104, "FSUB"),
  (64, 0x00400140401B8108, "FMUL"),
  (96, 0x0000000700400140401B810D, "FFMA"),
  (64, 0x00400140401B8110, "FMIN"),
  (64, 0x00410140401B8114, "FMAX"),
  (64, 0x0040014040078918, "FSETP"),
  (64, 0x00400000401B811C, "FCLASS"),
  (64, 0x00420000401B8120, "FRND"),
  (64, 0x0040C0C0401B8124, "FSCALE"),
  (96, 0x0000000700800140401B8129, "FDOT2"),
  (96, 0x0000000700400140401B892D, "FDOT4"),
  (96, 0x0000000000500000401B9141, "FCVT"),
  (96, 0x0000000000400000401B8145, "ICVT"),
  (96, 0x0000080C0040000000178549, "CVTN"),
  (64, 0x004000000007814C, "PTEST"),
  (64, 0x0040000000038150, "PCLR"),
  (64, 0x00400000401B8180, "RCP"),
  (64, 0x00400000401B8184, "RSQ"),
  (64, 0x00420000401B8188, "SQRT"),
  (64, 0x00400000401B818C, "EXP2"),
  (64, 0x00400000401B8190, "LOG2"),
  (64, 0x00400000401B8194, "SIN"),
  (64, 0x00400000401B8198, "COS"),
  (64, 0x00400000401B819C, "TANH"),
  (64, 0x00400000401B81A0, "SIGM")]

/-- Words of the lane rows, put together field by field from R65, R73 to R82 and R85 to R87. -/
def laneWords : List (Nat × Nat × String) := [
  (64, 0x0000C040401B85C0, "LSHUF"),
  (64, 0x00000000401B85C4, "LBCAST"),
  (64, 0x00100000200781C8, "LVOTE"),
  (64, 0x00100000701B85CC, "LCNT"),
  (64, 0x0040C000401B81D0, "LSCAN"),
  (64, 0x00400000301F81D4, "LRED"),
  (64, 0x0040C230400381E0, "SELCFG"),
  (64, 0x00100000400381E4, "SELPUSH"),
  (64, 0x00100030001381E8, "SELPOP")]

/-- Words of the memory rows, put together field by field from R65, R73 to R82 and R85 to R87. -/
def memoryWords : List (Nat × Nat × String) := [
  (128, 0x0000000000000000008000A13013A202, "LD"),
  (128, 0xFFFFFFFFFFFFFFF800A0C01020138206, "ST"),
  (128, 0x0000000000000000008801900007860A, "LDS"),
  (128, 0x00000000000000000080C0300013820E, "STS"),
  (128, 0x0000000000000000008001B000138212, "LDX"),
  (128, 0x0000000000000000008001B000138216, "STX"),
  (128, 0x00000000000000030080C0211C03821A, "STRED"),
  (128, 0x0000000000000000008001E11013821E, "LDZ"),
  (128, 0x00000000000000000080C02110138622, "STZ"),
  (128, 0x0000000000001403009000A110138626, "ATOM"),
  (128, 0xFFFFFFFFFFC00003008000A11C03822A, "RED"),
  (64, 0x0005000000038E40, "FENCE"),
  (64, 0x0000000000038244, "CINV_L1"),
  (64, 0x0000411020038644, "CINV_L2"),
  (64, 0x0000411020038248, "CFLUSH"),
  (128, 0x00000000000000000080C0211C03824E, "PREF"),
  (64, 0x0000411028478250, "BIND"),
  (64, 0x0000000008478254, "UNBIND")]

/-- Words of the queue rows, put together field by field from R65, R73 to R82 and R85 to R87. -/
def queueWords : List (Nat × Nat × String) := [
  (64, 0x0000000049038E80, "QPUSH"),
  (64, 0x0000002420138E84, "QPOP"),
  (64, 0x0001000000038288, "QFENCE"),
  (96, 0xFFFFFF00000000000003828D, "WAIT"),
  (96, 0x000000000000001100038691, "CPY"),
  (256, 0x00000000000000100000000000000100000000000000100000000000001F07E3, "VLOOP"),
  (256, 0x00000000000000000000000000000100000000000000100000000000001F07E7, "VLOOPR_ADD"),
  (256, 0x00000000000000000000000000000100000000000000100000000000001F07EB, "VLOOPR_MIN"),
  (256, 0x00000000000000000000000000000100000000000000100000000000001F07EF, "VLOOPR_MAX"),
  (128, 0x05C08018070000205C040170100003C2, "PAIR_WORD")]

/-- Words of the matrix rows, put together field by field from R65, R73 to R82 and R85 to R87. -/
def matrixWords : List (Nat × Nat × String) := [
  (96, 0x0000000000000000000382C1, "MLDW"),
  (64, 0x00000000000382C4, "MSWAP"),
  (96, 0x000000000000C030400382C9, "MSTREAM"),
  (96, 0x000000000000C030400382CD, "MDRAIN"),
  (64, 0x0000000000038AD0, "MZERO"),
  (64, 0x00230000000382D4, "MFMT"),
  (64, 0x00000000042382D8, "EVPOP"),
  (64, 0x00000000042382DC, "EVWAIT")]

/-- Words of the context rows, put together field by field from R65, R73 to R82 and R85 to R87. -/
def contextWords : List (Nat × Nat × String) := [
  (128, 0x0000000000000000008001D020138302, "KVLD"),
  (128, 0x0000000000000000008001D020138306, "POSLD"),
  (128, 0x0000000000000003008001D02C03830A, "MASSACC"),
  (64, 0x000000110003830C, "EVICT"),
  (64, 0x0000001020038310, "SEQLOCK_ACQ"),
  (64, 0x0000001020038710, "SEQLOCK_REL"),
  (64, 0x0000001020078B10, "SEQLOCK_TRY"),
  (96, 0x000003030021411020038321, "RDEF"),
  (64, 0x0000003034178324, "RSTAT"),
  (96, 0x000000200000000004178341, "CSRR"),
  (96, 0x000000100000001050038345, "CSRW"),
  (64, 0x0009001064178348, "ECALL"),
  (64, 0x0000C0505003834C, "SRET"),
  (64, 0x00000030241B8350, "PERFRD"),
  (64, 0x0000001040038354, "RESUMEQ")]

theorem test_decode_control : reads controlWords = true := by decide +kernel
theorem test_decode_integer : reads integerWords = true := by decide +kernel
theorem test_decode_float : reads floatWords = true := by decide +kernel
theorem test_decode_lane : reads laneWords = true := by decide +kernel
theorem test_decode_memory : reads memoryWords = true := by decide +kernel
theorem test_decode_queue : reads queueWords = true := by decide +kernel
theorem test_decode_matrix : reads matrixWords = true := by decide +kernel
theorem test_decode_context : reads contextWords = true := by decide +kernel

/-- R87: 118 major opcodes are unassigned. -/
theorem test_unassigned : ((List.range 256).filter fun o => match decFields (4 * o) with
    | .error (.unassigned _) => true
    | _ => false).length = 118 := by decide +kernel

/-- R149, R196, R181 and R81 print these words. -/
theorem test_printed_words : (decodeTableWord 64 0x00400000301F81D4).map Instr.mnemonic = some "LRED" ∧
    (decodeTableWord 64 0x00230000000382D4).map Instr.mnemonic = some "MFMT" ∧
    (decodeTableWord 96 0xFFFFFF00000000000003828D).map Instr.mnemonic = some "WAIT" ∧
    (decodeTableWord 64 0x000000000003800C).map Instr.mnemonic = some "NOP" := by decide +kernel

/-! ### Words that are not well formed -/

/-- Each word's fields read as an instruction that is not well formed, and the decoder refuses the word. -/
def breaks (ws : List Nat) : Bool :=
  ws.all fun w => (match decFields w with
    | .ok i => !i.legal
    | .error _ => false) && (decodeTableWord (8 * lenOfWord w) w).isNone

/-- Words of the control rows whose fields decode but break a rule of R66, R74, R75, R77, R80 to R84 or R88. -/
theorem test_illformed_control : breaks [
    0x3C0000F00003C0000F04000002, 0x3C0000F00003C0000F00008006, 0x78008, 0x8,
    0x100000000038030, 0x80090000000020038011, 0x90000000020078011, 0x90000000020078015,
    0xC08010078018, 0x10031000B801D, 0x4020038020, 0x80C00004078026,
    0x80C00000078426, 0xC0C0000007802A, 0xC1401003802C, 0x5000000101003802D] = true := by decide +kernel

/-- Words of the integer rows whose fields decode but break a rule of R66, R74, R75, R77, R80 to R84 or R88. -/
theorem test_illformed_integer : breaks [
    0x40C040401B8040, 0x20C040401F8040, 0x2004080401B8044, 0x80004080401B8044,
    0x10140401B804C, 0x200200401B8050, 0x40700000140401B8055, 0x800000140401F8059,
    0x161101B805C, 0x100000401B8064, 0x40401B8064, 0x140401B8480,
    0xC0C0441B8090, 0xC0C0C0401B80A1, 0xC00000401B80A8, 0x200000401B80B8,
    0xC0200200140401B8049, 0x200200100140401B8049, 0xC0403007A0C0, 0x8000C050301780C0,
    0x900400140401B80C5, 0x800140202380C9, 0x10485B80CC, 0x490B80CC,
    0x101380D1, 0x22201380D4, 0x300022201380D4, 0x400000C0200780D8,
    0x800000C0201780DC, 0x40200780E4, 0x800C040401B8040] = true := by decide +kernel

/-- Words of the float rows whose fields decode but break a rule of R66, R74, R75, R77, R80 to R84 or R88. -/
theorem test_illformed_float : breaks [
    0x140401B8100, 0x80400140401B8100, 0x410140401B8108, 0x420140401B8110,
    0x40700400140401B810D, 0x4001404007B918, 0x800000401B811C, 0x410000401B8120,
    0xC0C0401B8124, 0x400140401B8129, 0x400140401BA12D, 0x500080401B9141,
    0x500000401B8141, 0x401B8545, 0x40000000178949, 0x4000000007894C,
    0x40000000078150, 0x420000401B8180, 0x410000401B8188, 0x500000401B818C,
    0x400040401B81A0] = true := by decide +kernel

/-- Words of the lane rows whose fields decode but break a rule of R66, R74, R75, R77, R80 to R84 or R88. -/
theorem test_illformed_lane : breaks [
    0xC040401B91C0, 0x4000C040401B81C0, 0x40401B85C4, 0x100000202381C8,
    0x100000701B89CC, 0x4AC000401B81D0, 0x400040401B81D0, 0x400040301F81D4,
    0x400000301F91D4, 0x20C230400381E0, 0x100010400381E4, 0x400030001381E8] = true := by decide +kernel

/-- Words of the memory rows whose fields decode but break a rule of R66, R74, R75, R77, R80 to R84 or R88. -/
theorem test_illformed_memory : breaks [
    0x8100A130138202, 0x28000A130138202, 0xA000A130178202, 0x80008030138202,
    0x98C01020138206, 0x80C01030138206, 0x81C01020138206, 0xE001900007820A,
    0x80C03000138A0E, 0x8001B00013960E, 0x8001B000139212, 0x80019020138216,
    0x30088C0211C03821A, 0xA001E11013821E, 0x88C02110138222, 0x80C02110178222,
    0x3009000A110138E26, 0x1403008000A110138226, 0x1403009000A11C03862A, 0x5000000038240,
    0x6000000038E40, 0x1020038244, 0x410020038644, 0x411030038248,
    0x80C0211013824E, 0x411020078250, 0x1028478254] = true := by decide +kernel

/-- Words of the queue rows whose fields decode but break a rule of R66, R74, R75, R77, R80 to R84 or R88. -/
theorem test_illformed_queue : breaks [
    0x490B8280, 0x1049038280, 0x2450138284, 0x38288,
    0x40000000038288, 0x3868D, 0x1100038A91, 0x1080038291,
    0x83E3, 0x5C08018070000205C040140900003C2, 0x5C04018070000205C040170100003C2, 0x5C080180700002000010000000003C2,
    0x49C040170100003C2, 0x5C08018070000285C040170100003C2, 0x5C040170100403C2] = true := by decide +kernel

/-- Words of the matrix rows whose fields decode but break a rule of R66, R74, R75, R77, R80 to R84 or R88. -/
theorem test_illformed_matrix : breaks [
    0x392C1, 0xC0782C1, 0x386C4, 0xC021100382C9,
    0x1C030400382C9, 0xC03040039ACD, 0x1C030400382CD, 0x3010038AD0,
    0x392D0, 0xA00000000382D4, 0x41382D8, 0x2382DC,
    0x2C4] = true := by decide +kernel

/-- Words of the context rows whose fields decode but break a rule of R66, R74, R75, R77, R80 to R84 or R88. -/
theorem test_illformed_context : breaks [
    0x6001D020138302, 0x8001E120138302, 0x4008001D020138306, 0x3008101D02C03830A,
    0x108003830C, 0x1030038310, 0x1020178B10, 0x1020078310,
    0x3030028411020038321, 0x3030000001020038721, 0x34178324, 0x10000000000004178341,
    0x100000000050038345, 0x1060178348, 0xC0505407834C, 0x3024178350,
    0x40038354, 0x1014178341] = true := by decide +kernel

/-! ### Witnesses: words that pass their checks -/

/-- Each word decodes, and the state's warp may issue it: it passes every check of R88 and R89. -/
def allowed (s : State) (ws : List (Nat × Nat × String)) : Bool :=
  ws.all fun p => match decodeTableWord p.1 p.2.1 with
    | some i => (s.wordFault i).isNone
    | none => false

/-- A small machine whose registers are all zero. -/
def quiet : State := state0 [] [] []

/-- The premise of IntegerArithmetic to Predicates, of Moves and of every clause of theirs. -/
theorem witness_integer : allowed quiet integerWords = true := by decide +kernel

/-- The premise of FloatArithmetic to SpecialFunctions and of Conversions, for each word. -/
theorem witness_float : allowed quiet floatWords = true := by decide +kernel

/-- The premise of CrossLane and of the select words. -/
theorem witness_lane : allowed quiet laneWords = true := by decide +kernel

theorem witness_control : allowed quiet controlWords = true := by decide +kernel

theorem witness_memory : allowed quiet memoryWords = true := by decide +kernel

theorem witness_queue : allowed quiet queueWords = true := by decide +kernel

theorem witness_matrix : allowed state0q matrixWords = true := by decide +kernel

theorem witness_context : allowed quiet contextWords = true := by decide +kernel

/-! ### Witnesses: operands of memory words -/

def ctl0 : Ctl := { sc := false, oen := false, oidx := 0, nodst := false, rls := false, yld := false }

def always : Guard := { pr := 7, pn := false }

/-- The premises of the clauses of Predicates that raise 0x01. -/
theorem witness_ptest_codes : 2 ≤ (PtestW.mk always ctl0 2 1).fn.toNat ∧ (PtestW.mk always ctl0 1 0).fn ≠ 0 := by decide

def memW (esz : BitVec 3) (d a b : Spec) (ofs : BitVec 64) : MemW :=
  { g := always, ctl := ctl0, esz := esz, cp := 0, scope := 0, scl := 0, sub := 0, d := d, a := a, b := b, ofs := ofs }

def maW (op : BitVec 4) (d a c c2 : Spec) : MaW :=
  { g := always, ctl := ctl0, esz := 4, cp := op.setWidth 4 >>> 2 |>.setWidth 2, scope := 0, scl := 0, sub := op.setWidth 2
    d := d, a := a, b := .imm 0, c := c, c2 := c2, ofs := 0 }

def sysW (fn : BitVec 4) (mod : BitVec 8) (d a b : Spec) : SysW :=
  { g := always, ctl := ctl0, fn := fn, mod := mod, d := d, a := a, b := b }

def sysC (fn : BitVec 4) (mod : BitVec 8) (d a b c : Spec) (mod2 : BitVec 6) : SysC :=
  { g := always, ctl := ctl0, fn := fn, mod := mod, d := d, a := a, b := b, c := c, mod2 := mod2 }

def alu2 (ty : Ty) (fn : BitVec 4) (d a : Spec) (b : Opd) : Alu2 :=
  { g := always, ctl := ctl0, ty := ty, rnd := .rne, xf := false, fn := fn, d := d, a := a, b := b }

/-- S2 and S3 hold 0x40000, V2 and V3 of both lanes too. -/
def busyRegs : State :=
  state0 [(64, 0x40000), (65, 0x40008), (96, 0), (97, 0)] [(2, 0x40000), (3, 0)] []

/-- Both lanes are poisoned in lane 1. -/
def spoiled : State := { busyRegs with w := { busyRegs.w with pz := 2 } }

theorem witness_GlobalLoads_ld :
    let s := busyRegs
    let x := memW 5 (.v 4) (.s 2) (.imm 0) 8
    let t := s.rebind x.a
    s.wordFault (.ld x) = none ∧ s.w.ldc ≠ 255 ∧ ∀ l, l < 32 → (t.w.active x.g).getLsbD l = true →
      ((t.w.gbase x.a).va + t.ldOff x l) % 2 ^ 64 < 2 ^ 57 ∧ t.Reaches (t.w.gbase x.a) 0 (t.ldOff x l) (t.lanePlace x l).2.1 := by
  unfold State.Reaches; decide +kernel

/-- The last bytes below 2^57 are in range; one element further is not (MemoryChecks). -/
theorem witness_GlobalLoads_ldx :
    let s := busyRegs
    let x := memW 4 (.v 4) (.imm 0) (.v 2) (-4)
    s.wordFault (.ldx x) = none ∧ s.w.ldc ≠ 255 ∧ ∀ l, l < 32 → (s.w.active x.g).getLsbD l = true →
      ((GBase.virt 0).va + s.ldxOff x l) % 2 ^ 64 < 2 ^ 57 ∧ s.Reaches (.virt 0) 0 (s.ldxOff x l) (s.lanePlace x l).2.1 := by
  unfold State.Reaches; decide +kernel

theorem witness_GlobalStores :
    let s := spoiled
    let x := memW 4 (.v 4) (.s 2) (.imm 0) 0
    let t := s.rebind x.a
    let t1 := t.sinkNote (t.w.active x.g &&& t.w.poisoned) fun l => ((t.w.gbase x.a).va + t.ldOff x l) % 2 ^ 64
    s.wordFault (.st x) = none ∧ s.w.stc ≠ 255 ∧ ∀ l, l < 32 → (t.w.active x.g).getLsbD l = true →
      ((t.w.gbase x.a).va + t.ldOff x l) % 2 ^ 64 < 2 ^ 57 ∧ t1.Reaches (t.w.gbase x.a) 1 (t.ldOff x l) (t.lanePlace x l).2.1 := by
  unfold State.Reaches; decide +kernel

theorem witness_GlobalStores_stx :
    let s := busyRegs
    let x := { memW 6 (.v 8) (.imm 0) (.v 2) 0 with scope := 0 }
    s.wordFault (.stx x) = none ∧ s.w.stc ≠ 255 ∧ ∀ l, l < 32 → (s.w.active x.g).getLsbD l = true →
      s.ldxOff x l < 2 ^ 57 ∧ (s.sinkNote 0 fun _ => 0).Reaches (.virt 0) 1 (s.ldxOff x l) 16 := by
  unfold State.Reaches; decide +kernel

/-- A narrow store of the codes of FD2. -/
theorem witness_GlobalStores_narrow :
    let s := busyRegs
    let y := { memW 7 (.v 4) (.s 2) (.imm 0) 1 with scope := 2 }
    s.wordFault (.st y) = none ∧ ∀ l, l < 32 → (s.w.active y.g).getLsbD l = true →
      ((s.rebind y.a).sinkNote 0 fun _ => 0).Reaches (s.w.gbase y.a) 1 (s.ldOff y l) (s.lanePlace y l).2.1 := by
  unfold State.Reaches; decide +kernel

/-- The last word of own scratch; a window of a gang of two cores; the last word of a frame of 16. -/
theorem witness_CoreMemoryWords_own :
    let s := busyRegs
    let x := memW 4 (.v 4) (.imm 0) (.imm 0) 65532
    x.sub = 0 ∧ (s.d.ctx s.w.ctx).scratchAt + 65532 = 131068 ∧
    (∀ l, l < 32 → (s.w.active x.g).getLsbD l = true →
      s.ownOfs x l = 65532 ∧ s.ownOfs x l + 4 ≤ ((s.d.ctx s.w.ctx).scratchBytes : Int)) ∧
    s.wordFault (.lds x) = none ∧ s.wordFault (.sts x) = none ∧ s.w.ldc ≠ 255 ∧ s.w.stc ≠ 255 := by
  decide +kernel

def ganged : State :=
  let win : Window :=
    { base := 0, gen := 5, member := 0, cores := [0, 1], retire := 32, retireCore := 0, retireBlk := 0, size := 65536, frames := [(0, 0), (0, 16)], task := 0 }
  let s := state0 [(64, 0x10A00040), (65, 0x10A00080)] [] []
  let y := { Share.empty with slot := some 0, windows := [{ win with member := 1 }] }
  { s with d := { s.d with shares := [(0, { share0 with windows := [win] }), (1, y)] } }

theorem witness_CoreMemoryWords_remote :
    let s := ganged
    let x := { memW 4 (.v 4) (.imm 0) (.v 2) (-64) with sub := 1, cp := 1 }
    (∀ l, l < 32 → (s.w.active x.g).getLsbD l = true → s.remoteCore x l = none ∨
      (s.remoteCore x l).map Prod.snd = some 1) ∧ s.wordFault (.lds x) = none ∧ s.wordFault (.sts x) = none ∧
    (s.remoteCore x 0).isSome = true ∧ s.remoteOfs x 0 = 0 ∧ s.remoteOfs x 1 = 64 ∧ s.inClass x.cp 1 = true ∧
    ((s.remoteCore x 0).bind fun p => s.memberWindow p.1 p.2).isSome = true := by
  decide +kernel

theorem witness_CoreMemoryWords_frame :
    let s := busyRegs
    let x := memW 4 (.v 4) (.v 0) (.imm 0) 15
    (∀ l, l < 32 → (s.w.active x.g).getLsbD l = true → s.FrameAt x l (0, (s.w.frame.getD l 0 + 15) * 4)) ∧
    s.wordFault (.ldf x) = none ∧ s.wordFault (.stf x) = none ∧ s.w.ldc ≠ 255 ∧ s.w.stc ≠ 255 := by
  unfold State.FrameAt; decide +kernel

theorem witness_AtomicWords :
    let s := spoiled
    let x := maW 9 (.v 4) (.s 2) (.v 3) (.v 5)
    let y := maW 0 (.imm 0) (.s 2) (.v 3) (.v 0)
    let t := s.rebind x.a
    let va := fun l => ((t.w.gbase x.a).va + t.maOff x l) % 2 ^ 64
    let t1 := t.sinkNote (t.w.active x.g &&& t.w.poisoned) va
    (∀ l, l < 32 → (t.w.active x.g).getLsbD l = true →
      va l % 4 = 0 ∧ va l < 2 ^ 57 ∧ t1.Reaches (t.w.gbase x.a) 2 (t.maOff x l) 1) ∧
    s.wordFault (.atom x) = none ∧ s.wordFault (.red y) = none ∧ s.wordFault (.stred y) = none ∧ s.w.ldc ≠ 255 ∧ s.w.stc ≠ 255 := by
  unfold State.Reaches; decide +kernel

/-- One lane or both break each check: an odd address, 2^57, the word past scratch, a pointer without a gang, the word past
the frame. -/
theorem witness_MemoryChecks :
    let s := busyRegs
    let a := { maW 0 (.v 4) (.s 2) (.v 3) (.v 0) with ofs := 1 }
    let x := memW 4 (.v 4) (.s 2) (.imm 0) (2 ^ 57 - 0x40000)
    let y := memW 4 (.v 4) (.imm 0) (.imm 0) 65533
    let z := { memW 4 (.v 4) (.imm 0) (.v 2) 0 with sub := 1 }
    let f := memW 4 (.v 4) (.v 0) (.imm 0) 16
    s.w.ldc ≠ 255 ∧ s.w.stc ≠ 255 ∧
    (s.wordFault (.atom a) = none ∧ (badLanes (s.w.active a.g) fun l =>
      (((s.rebind a.a).w.gbase a.a).va + s.maOff a l) % 2 ^ 64 % eszBytes a.esz ≠ 0) ≠ 0) ∧
    (s.wordFault (.ld x) = none ∧ (badLanes (s.w.active x.g) fun l =>
      2 ^ 57 ≤ (((s.rebind x.a).w.gbase x.a).va + s.ldOff x l) % 2 ^ 64) ≠ 0) ∧
    (s.wordFault (.lds y) = none ∧ (badLanes (s.w.active y.g) fun l =>
      s.ownOfs y l < 0 || ((s.d.ctx s.w.ctx).scratchBytes : Int) < s.ownOfs y l + eszBytes y.esz) ≠ 0) ∧
    (z.sub ≠ 0 ∧ s.wordFault (.sts z) = none ∧ (badLanes (s.w.active z.g) fun l => (s.remoteCore z l).isNone) ≠ 0) ∧
    (s.wordFault (.ldf f) = none ∧ (badLanes (s.w.active f.g) fun l => s.w.memOfs f.b f.scl f.ofs.toInt l < 0 ||
      (s.frameSize l : Int) < s.w.memOfs f.b f.scl f.ofs.toInt l + eszWords f.esz) ≠ 0) := by
  decide +kernel

/-- Above the gibibyte that is mapped nothing translates. -/
theorem witness_TranslationFault :
    let s := state0 [(64, 0x40000000), (96, 0), (65, 0x7FFFFFF0), (97, 1)] [] []
    let x := memW 4 (.v 4) (.imm 0) (.v 2) 0
    s.wordFault (.ldx x) = none ∧ s.w.ldc ≠ 255 ∧ s.w.active x.g ≠ 0 ∧
    ∀ l, l < 32 → (s.w.active x.g).getLsbD l = true → s.ldxOff x l < 2 ^ 57 ∧
      ∀ k, k < 16 → (s.hit s.w.core s.w.ctx (.virt 0) ((s.ldxOff x l + k) % 2 ^ 64)).isNone = true := by
  decide +kernel

/-! ### Witnesses: formats, streams, ordering and queues -/

/-- FD0 an OCP E4M3 under block scales of 32 (R30, R31); FD1 as it is unset, without scales. -/
def scaled : State :=
  { quiet with d := { quiet.d with ctxs := [(0, { context0 with fd := [(0, 0x00320070), (2, 0x00000028)] })] } }

def alu3 (ty : Ty) (fn : BitVec 4) (xf : Bool) (d a b c : Spec) (mod2 : BitVec 6) : Alu3 :=
  { g := always, ctl := ctl0, ty := ty, rnd := .rne, xf := xf, fn := fn, d := d, a := a, b := b, c := c, mod2 := mod2 }

/-- Every clause: into wide elements and into codes, from an integer and to one, a format with a scale and one without,
eight-bit codes and four-bit ones. -/
theorem witness_Conversions :
    let s := scaled
    s.wordFault (.fcvt (alu3 .f32 4 false (.v 4) (.v 5) (.v 0) (.v 0) 0)) = none ∧
    s.wordFault (.fcvt (alu3 .u32 15 true (.v 4) (.v 5) (.v 6) (.v 7) 8)) = none ∧
    s.wordFault (.icvt (alu3 .i32 4 false (.v 4) (.v 5) (.v 0) (.v 0) 0)) = none ∧
    s.wordFault (.icvt (alu3 .f32 0 false (.v 4) (.v 5) (.v 0) (.v 0) 0)) = none ∧
    s.wordFault (.cvtn (alu3 .f32 1 false (.v 4) (.v 0) (.v 0) (.v 6) 0)) = none ∧
    s.wordFault (.cvtn (alu3 .f32 0 false (.v 4) (.v 5) (.imm 0) (.v 6) 1)) = none ∧
    s.wordFault (.fdot4 (alu3 .f32 0 false (.v 4) (.v 5) (.v 6) (.v 7) 0)) = none ∧
    s.wordFault (.fdot4 (alu3 .f32 2 false (.v 4) (.v 5) (.v 6) (.v 7) 0)) = none ∧
    (nfmt (s.fdWord 0)).skind ≠ .none ∧ (nfmt (s.fdWord 0)).style = .o ∧ (nfmt (s.fdWord 1)).skind = .none ∧
    (nfmt (s.fdWord 0)).width = 8 ∧ (nfmt (s.fdWord 2)).width = 4 := by decide +kernel

/-- A stream of room for four pairs, one written; the pair (7, 9) in it. V7 of lane 0 names it, of lane 1 the position
behind the last. -/
def streamed : State :=
  state0 [(224, 0), (225, 1), (128, 3), (129, 4), (160, 10), (161, 11)] [(2, 0x40000)]
    [(0x40000, 8, 0x50000), (0x40008, 4, 4), (0x4000C, 4, 1), (0x40010, 4, 1), (0x50000, 4, 7), (0x50004, 4, 9)]

theorem witness_StreamLoads :
    let s := streamed
    let x := memW 4 (.v 4) (.s 2) (.v 7) 0
    let t := s.rebind x.a
    let act := t.w.active x.g
    let base := t.w.gbase x.a
    let off := wrapInt 64 x.ofs.toInt
    let hva := (base.va + off) % 2 ^ 64
    let h := (t.hit t.w.core t.w.ctx base off).getD { pa := 0, r := false, w := false, nol1 := false, sysAtomic := false }
    let at_ := Place.phys (t.locate t.w.ctx t.w.task hva h.pa)
    let g := t.readPlace t.w.ctx t.w.core (x.cp = 1 && !h.nol1) at_ 32
    let hdr := streamHdr g.val
    s.wordFault (.ldz x) = none ∧ act ≠ 0 ∧ s.w.ldc ≠ 255 ∧ hva % 32 = 0 ∧ hva < 2 ^ 57 ∧
    (t.hit t.w.core t.w.ctx base off).isSome = true ∧ h.r = true ∧ t.depsDone t.w.acqAfter = true ∧ t.warpMeets at_ 32 = false ∧
    g.bad = false ∧ hdr.ok = true ∧ hdr.written = 1 ∧ (t.w.read32 x.b 0 1).toNat = 0 ∧ (t.w.read32 x.b 1).toNat = 1 := by
  decide +kernel

theorem witness_StreamLoads_pair :
    streamed.Reaches (.virt 0) 0 0x50000 8 := by unfold State.Reaches; decide +kernel

/-- Two pairs enter behind the one that is there; with V4 zero in every lane and no active lane the word only goes on. -/
theorem witness_StreamStores :
    let s := streamed
    let x := memW 4 (.v 4) (.s 2) (.imm 0) 0
    let t := s.rebind x.a
    let act := t.w.active x.g
    let base := t.w.gbase x.a
    let off := wrapInt 64 (t.w.memOfs x.b x.scl x.ofs.toInt 0)
    let hva := (base.va + off) % 2 ^ 64
    let h := (t.hit t.w.core t.w.ctx base off).getD { pa := 0, r := false, w := false, nol1 := false, sysAtomic := false }
    let pa := t.locate t.w.ctx t.w.task hva h.pa
    let hdr := streamHdr (t.mem.nat pa 32)
    let keeps := maskOf fun l => act.getLsbD l && decide (t.w.read32 x.d l 3 ≠ 0)
    s.wordFault (.stz x) = none ∧ act ≠ 0 ∧ s.w.stc ≠ 255 ∧ hva % 32 = 0 ∧ hva < 2 ^ 57 ∧
    (t.hit t.w.core t.w.ctx base off).isSome = true ∧ t.accessFault t.w.ctx t.w.task hva 2 (some h) = none ∧
    (t.d.ctx t.w.ctx).needsPage t.w.task hva = false ∧ t.depsDone (t.w.acqAfter ++ t.w.relAfter) = true ∧
    t.warpMeets (.phys pa) 32 = false ∧ t.mem.marked pa 32 = false ∧ hdr.ok = true ∧ keeps = 3 ∧ keeps &&& t.w.poisoned = 0 ∧
    hdr.needed + 2 ≤ hdr.capacity ∧ hdr.buf + 8 * (hdr.needed + 2) ≤ 2 ^ 57 := by
  decide +kernel

theorem witness_StreamStores_pairs :
    let v := (streamed.markDirty 0 0 0x40000 32).modifyBytes 0 0x4000C (bytesLE 8 (3 + 3 * 2 ^ 32) ++ bytesLE 4 0)
    v.Reaches (.virt 0) 1 0x50008 8 ∧ v.Reaches (.virt 0) 1 0x50010 8 := by unfold State.Reaches; decide +kernel

/-- One load and one store outstanding: `FENCE` in all its parts, a `WAIT` at its limit and beyond it, `CINV.L2` and
`CFLUSH.L2` over a range that begins and ends inside a line. -/
def outstanding : State :=
  let s := after (.ldx (memW 4 (.v 4) (.imm 0) (.v 2) 0)) busyRegs
  let t := after (.stx (memW 4 (.v 6) (.imm 0) (.v 2) 64)) s
  { t with w := { t.w with s := [(2, 0x40020), (4, 0x41)] } }

theorem witness_OrderingWords :
    let s := outstanding
    s.d.ops.length = 2 ∧ s.w.ldc = 1 ∧ s.w.stc = 1 ∧ s.depsDone s.w.acqAfter = true ∧
    s.wordFault (.fence (sysW 3 5 (.v 0) (.v 0) (.v 0))) = none ∧ s.wordFault (.fence (sysW 3 0 (.v 0) (.v 0) (.v 0))) = none ∧
    s.wordFault (.cinvL1 (sysW 0 0 (.v 0) (.v 0) (.v 0))) = none ∧ s.wordFault (.cinvL2 (sysW 1 0 (.v 0) (.s 2) (.s 4))) = none ∧
    s.wordFault (.cflush (sysW 0 0 (.v 0) (.s 2) (.s 4))) = none ∧ s.wordFault (.bind (sysW 0 0 (.t 1) (.s 2) (.s 4))) = none ∧
    s.wordFault (.unbind (sysW 0 0 (.t 1) (.v 0) (.v 0))) = none ∧ s.w.sPair (.s 2) = 0x40020 ∧
    (s.w.read32 (.s 4) 0).toNat = 0x41 ∧ (s.translate s.w.core s.w.ctx 0x40000).isSome = true ∧
    (s.translate s.w.core s.w.ctx 0x40040).isSome = true := by decide +kernel

theorem witness_OrderingWords_wait :
    let s := outstanding
    let y := fun imm => SysJ.mk always ctl0 0 0 (.v 0) (.v 0) (.v 0) imm
    s.wordFault (.wait (y 0xFFFF0101)) = none ∧ s.wordFault (.wait (y 0xFFFF0100)) = none ∧ s.w.cpc = 0 ∧ s.w.tlc = 0 := by
  decide +kernel

/-- A queue entry with a row of 32 words. -/
def entry (id : Nat) (data : List Word) : QEntry := { QEntry.blank with id := id, data := data, uid := 1 }

/-- The state with entries in queues of the warp's share. -/
def queued (s : State) (q : Map (List QEntry)) : State :=
  { s with d := { s.d with shares := [(0, { s.d.share 0 0 with queues := q })] } }

def full (q : Queue) : State := queued quiet [(q.idx, (List.range q.depth).map fun k => entry (100 + k) [])]

theorem witness_QueueWords :
    let push := sysW 3 0 (.q .qma) (.v 4) (.v 0)
    let pop := sysW 1 0 (.v 4) (.q .qmo) (.v 0)
    let movTo := alu2 .u32 0 (.q .qma) (.v 3) (.spec (.v 0))
    let movFrom := alu2 .u32 0 (.v 4) (.q .qmo) (.spec (.v 0))
    let some_ := queued quiet [(Queue.idx .qmo, [entry 100 (List.replicate 32 7), entry 101 (List.replicate 32 8)])]
    quiet.wordFault (.qpush push) = none ∧ (full .qma).wordFault (.qpush push) = none ∧ some_.wordFault (.qpop pop) = none ∧
    quiet.wordFault (.qpop pop) = none ∧ quiet.wordFault (.mov movTo) = none ∧ (full .qma).wordFault (.mov movTo) = none ∧
    some_.wordFault (.mov movFrom) = none ∧ quiet.wordFault (.mov movFrom) = none ∧
    ((full .qma).d.share 0 0).queue .qma ≠ [] ∧ (some_.d.share 0 0).queue .qmo ≠ [] ∧
    quiet.wordFault (.qfence (sysW 0 1 (.v 0) (.v 0) (.v 0))) = none := by decide +kernel

/-- Each word with room and without; `SELPOP` with its row returned and before it asks. -/
theorem witness_CommandWords :
    let cpy := sysC 1 0 (.v 0) (.s 16) (.v 0) (.v 0) 0
    let ev := sysW 0 0 (.v 0) (.s 16) (.v 0)
    let cfg := alu2 .u32 0 (.v 0) (.imm 4) (.spec (.imm 2))
    let psh := alu2 .u32 1 (.v 0) (.v 4) (.spec (.imm 2))
    let pop := alu2 .u32 1 (.v 4) (.imm 0) (.spec (.v 0))
    let evp := sysW 0 0 (.s 8) (.v 0) (.v 0)
    let rows := queued quiet [(Queue.idx .qso, [entry 100 (List.replicate 32 7)])]
    let evs := queued state0q [(Queue.idx .qce, [entry 101 [1, 2]])]
    (∀ s, s ∈ [quiet, full .qcb] → s.wordFault (.cpy cpy) = none ∧ s.w.cpc ≠ 255) ∧
    (∀ s, s ∈ [quiet, full .qek] → s.wordFault (.evict ev) = none) ∧
    (∀ s, s ∈ [quiet, full .qsi] → s.wordFault (.selcfg cfg) = none ∧ s.wordFault (.selpush psh) = none) ∧
    rows.wordFault (.selpop pop) = none ∧ quiet.wordFault (.selpop pop) = none ∧
    ((rows.d.share 0 0).queue .qso).find? (fun e => e.uid = rows.w.uid) = some (entry 100 (List.replicate 32 7)) ∧
    (quiet.d.share 0 0).queue .qso = [] ∧ (quiet.d.share 0 0).queue .qsi = [] ∧
    (∀ s, s ∈ [state0q, evs] → s.wordFault (.evpop evp) = none ∧ s.wordFault (.evwait evp) = none) ∧
    (state0q.d.share 0 0).queue .qce = [] ∧ (evs.d.share 0 0).queue .qce ≠ [] := by decide +kernel

/-! ### Witnesses: sequences, loop nests and accesses performed -/

/-- A sequence of two tokens of rows of 64 bytes at 0x40000: its page list at 0x41000, its remap table at 0x42000, its one
entry's pages at 0x50000 and 0x60000 (R355 to R359). V7 of lane 0 names token 1, of lane 1 none; V3 of lane 0 is 0.5. -/
def sequenced (busy : Nat) : State :=
  state0 [(224, 1), (225, 5), (96, 0x3F000000)] [(2, 0x40000)]
    [(0x40000, 8, 0x41000), (0x40008, 4, 2), (0x4000C, 4, 3), (0x40010, 8, 0x42000), (0x40018, 2, 64), (0x4001C, 2, 1),
      (0x4001E, 2, 4), (0x40020, 4, busy), (0x41000, 8, 0x50000), (0x41008, 8, 0x60000), (0x42004, 4, 1)]

/-- A decidable form of `SeqAt`. -/
def seqAt (s : State) (a : Spec) (kind : Nat) (write : Bool) : Bool :=
  s.w.sPair a % 64 = 0 && s.w.sPair a < 2 ^ 57 && (s.issueMiss (s.w.sPair a) kind).isNone &&
    (s.translate s.w.core s.w.ctx (s.w.sPair a)).isSome && s.depsDone (s.memAfter write false) &&
    ((s.translate s.w.core s.w.ctx (s.w.sPair a)).map fun t =>
      s.warpMeets (.phys (s.locate s.w.ctx s.w.task (s.w.sPair a) t.pa)) 64) == some false

/-- What `seqAt` finds is `SeqAt`. -/
theorem seqAt_sound (s : State) (a : Spec) (kind : Nat) (write : Bool) (h : seqAt s a kind write = true) :
    ∃ d pa, s.SeqAt a kind write d pa := by
  simp only [seqAt, Bool.and_eq_true, decide_eq_true_eq, Option.isNone_iff_eq_none, Option.isSome_iff_exists, beq_iff_eq] at h
  obtain ⟨⟨⟨⟨⟨h1, h2⟩, h3⟩, ⟨t, h4⟩⟩, h5⟩, h6⟩ := h
  rw [h4] at h6
  exact ⟨_, _, h1, h2, h3, ⟨t, h4, rfl⟩, h5, by simpa using h6, rfl⟩

theorem witness_SequenceWords :
    let s := sequenced 0
    let k := { memW 6 (.v 4) (.s 2) (.v 7) 48 with sub := 2 }
    let d := SeqDesc.of (s.mem.nat 0x40000 64)
    d.busy = false ∧ d.ok = true ∧ s.mem.marked 0x40000 64 = false ∧ seqAt s k.a 0 false = true ∧ seqAt s k.a 2 true = true ∧
    s.wordFault (.kvld k) = none ∧ s.wordFault (.posld (memW 4 (.v 4) (.s 2) (.v 7) 0)) = none ∧
    s.wordFault (.massacc { maW 0 (.imm 0) (.s 2) (.v 3) (.v 0) with b := .v 7 }) = none ∧ s.w.ldc ≠ 255 ∧ s.w.stc ≠ 255 ∧
    k.ofs.toNat % eszBytes k.esz = 0 ∧ k.ofs.toNat + eszBytes k.esz ≤ d.rbytes ∧
    (∀ o, o ∈ [false, true] → s.resolve d o 1 = .at 0x50000 0x60000 1 ∧ s.resolve d o 5 = .absent) ∧
    q824OfF32 (s.w.read32 (.v 3) 0) = some 0x800000 := by
  decide +kernel

theorem witness_SequenceWords_rows :
    (sequenced 0).Reaches (.virt 0) 0 (0x50000 + 64 + 48) 16 ∧ (sequenced 0).Reaches (.virt 0) 0 (0x50000 + 64 * 64 + 256 + 4) 4 ∧
    (sequenced 0).Reaches (.virt 0) 2 (0x50000 + 64 * 64 + 4) 1 := by unfold State.Reaches; decide +kernel

/-- BUSY clear and BUSY set. -/
theorem witness_SequenceLocks :
    let x := sysW 0 0 (.v 0) (.s 2) (.v 0)
    let y := sysW 2 0 (.v 1) (.s 2) (.v 0)
    let z := sysW 1 0 (.v 0) (.s 2) (.v 0)
    (∀ b, b ∈ [0, 1] → seqAt (sequenced b) x.a 2 true = true ∧ (sequenced b).wordFault (.seqlockAcq x) = none ∧
      (sequenced b).wordFault (.seqlockTry y) = none ∧ (SeqDesc.of ((sequenced b).mem.nat 0x40000 64)).busy = decide (b = 1) ∧
      (SeqDesc.of ((sequenced b).mem.nat 0x40000 64)).ok = true ∧ (sequenced b).w.live = true ∧ (sequenced b).w.status = .running) ∧
    (sequenced 1).wordFault (.seqlockRel z) = none ∧ ((sequenced 0).d.ctx 0).needsPage 0 0x40020 = false := by decide +kernel

/-- A nest in S8 to S14: its bases 0x40000, 0x41000 and 0x42000, its control word of U32 copies. -/
def nested (control base : Word) : State :=
  state0 [] [(8, base), (10, 0x41000), (12, 0x42000), (14, control)] [(0x40000, 4, 5), (0x41000, 4, 6)]

def five (n : BitVec 12) : Five := { l0 := n, l1 := 0, l2 := 0, l3 := 0, l4 := 0 }

def loopW (n st2 : BitVec 12) : LoopW := { sblk := 1, ext := five n, st0 := five 1, st1 := five 1, st2 := five st2 }

/-- A valid control word, one with a reserved bit, a misaligned base; 32 iterations, and 4,096 × 2 of them. -/
theorem witness_LoopWords :
    let y := { loopW 4095 1 with ext := { five 4095 with l1 := 1 } }
    (nested 0x100 0x40000).wordFault (.vloop (loopW 31 1)) = none ∧ (nested 0x100 0x40000).w.tlc ≠ 255 ∧
    (nested 0x100 0x40002).wordFault (.vloop (loopW 31 1)) = none ∧
    (nested 0x100 0x40000).wordFault (.vlooprAdd (loopW 31 0)) = none ∧ (nested 0x100 0x40000).wordFault (.vloop y) = none ∧
    ((nested 0x100 0x40000).loopOf y none).total = 8192 := by decide +kernel

theorem witness_LoopWords_operands :
    let o := (nested 0x100 0x40000).loopOf (loopW 31 1) none
    loopCtlBad 0x180 none (five 1) = true ∧ loopCtlBad o.control none (five 1) = false ∧ o.used = [0, 2] ∧ o.total = 32 ∧
    ∀ j, j ∈ o.used → o.outside 65536 j = false ∧ o.bases.getD j 0 % o.esize = 0 := by decide +kernel

theorem witness_LoopWords_misaligned :
    let o := (nested 0x100 0x40002).loopOf (loopW 31 1) none
    0 ∈ o.used ∧ o.bases.getD 0 0 % o.esize ≠ 0 ∧ ∀ j, j ∈ o.used → o.inScratch j = false := by decide +kernel

theorem witness_LoopIterations :
    let s := after (.vloop (loopW 31 1)) (nested 0x100 0x40000)
    let o := s.d.loops.headD ((nested 0x100 0x40000).loopOf (loopW 31 1) none)
    let x := o.lanes.headD { lane := 9, next := 9, parts := [], stuck := false }
    let r := s.loopReads o (o.iter 0 0)
    o.id = 2 ∧ s.op 2 = none ∧ s.d.loops.find? (fun q => q.id = 2) = some o ∧ o.leave = 2 ∧ s.mayRun o.ctx o.core = true ∧
    o.lanes.find? (fun y => y.lane = 0) = some x ∧ x.next < o.share 0 ∧ x.stuck = false ∧ o.marked = [] ∧ s.iterFault o (o.iter 0 0) = none ∧
    (∀ j, j ∈ o.touches → s.loopBehind o 0 (s.operandPlace o j (o.iter 0 0)) = false) ∧ r.bad = false ∧ r.err.isNone = true ∧
    o.reduce = none ∧ o.inScratch 2 = false ∧ (s.hit o.core o.ctx (.virt (o.addr 2 (o.iter 0 0))) 0).isSome = true ∧
    (s.d.ctx o.ctx).needsPage o.task (o.addr 2 (o.iter 0 0)) = false := by decide +kernel

theorem witness_LoopIterations_reduction :
    let s := after (.vlooprAdd (loopW 31 0)) (nested 0x100 0x40000)
    let o := s.d.loops.headD ((nested 0x100 0x40000).loopOf (loopW 31 0) none)
    s.d.loops.find? (fun q => q.id = 2) = some o ∧ o.reduce = some 0 ∧ s.iterFault o (o.iter 0 0) = none ∧
    (∀ j, j ∈ o.touches → s.loopBehind o 0 (s.operandPlace o j (o.iter 0 0)) = false) ∧ (s.loopReads o (o.iter 0 0)).bad = false ∧
    (s.loopReads o (o.iter 0 0)).err.isNone = true := by decide +kernel

/-- The first operation of a state, and its first piece. -/
def firstOp (s : State) : MemOp := s.d.ops.headD (s.opOf (.nop { len := 0, g := always }) .ld)

def firstPiece (s : State) : Piece :=
  (firstOp s).pieces.headD (Piece.mk 9 0 (.phys 0) 0 0 .load false false false false 0)

/-- Common premises of the accesses that may be performed. -/
def mayPerform (s : State) : Bool :=
  (s.op 2 == some (firstOp s)) && ((firstOp s).pieces[0]? == some (firstPiece s)) && s.pieceReady (firstOp s) [0] 0 (firstPiece s) &&
    (firstOp s).marked.isEmpty && !(s.d.ctx (firstOp s).ctx).needsPage (firstOp s).task (firstPiece s).va &&
    match (firstPiece s).place with
    | .phys pa => !(s.d.ctx (firstOp s).ctx).hostBarred (firstPiece s).va pa
    | _ => true

/-- Two lanes with addresses in V2:V3 far apart and data in V4. -/
def spread (act : Lanes) : State :=
  let s := state0 [(64, 0x40000), (65, 0x40100), (128, 1), (129, 2)] [(2, 0x40000)] []
  { s with w := { s.w with filled := act } }

/-- A load of a word in two lanes far apart. -/
theorem witness_LoadsPerformed :
    let s := after (.ldx (memW 4 (.v 4) (.imm 0) (.v 2) 0)) (spread 3)
    let o := firstOp s
    let p := firstPiece s
    let g := s.readPlace o.ctx o.core p.l1 (s.placeOf o p) p.size
    mayPerform s = true ∧ p.act = .load ∧ s.loadGroup o p = [0] ∧ g.bad = false ∧ g.code = 0 ∧ s.w.live = true ∧ s.w.uid = o.uid := by
  decide +kernel

/-- A store to memory, one of masked bits, one to scratch, a saturating addition; and a store under RLS. -/
theorem witness_StoresPerformed :
    let ss := [after (.stx (memW 4 (.v 4) (.imm 0) (.v 2) 0)) (spread 3), after (.st (memW 7 (.v 4) (.s 2) (.imm 0) 0)) (spread 1),
      after (.sts (memW 4 (.v 4) (.imm 0) (.v 6) 4)) (spread 1),
      after (.massacc { maW 0 (.imm 0) (.s 2) (.v 3) (.v 0) with b := .v 7 }) (sequenced 0)]
    (∀ s, s ∈ ss → mayPerform s = true ∧ s.storeGroup (firstOp s) 0 (firstPiece s) = [0] ∧
      ∀ q, q ∈ (firstOp s).pieces.drop 1 → q.ok = true → q.lane ≠ (firstPiece s).lane →
        (s.placeOf (firstOp s) q).meets q.size (s.placeOf (firstOp s) (firstPiece s)) (firstPiece s).size = false) ∧
    ss.map (fun s => (firstPiece s).act) = [.store 1, .bits 1 255, .store 1, .mass 0x800000] ∧
    ss.map (fun s => (firstPiece s).place) = [.phys 0x40000, .phys 0x40000, .core 0 65540, .phys 0x51004] := by
  decide +kernel

theorem witness_StoresPerformed_release :
    let s := after (.stx { memW 4 (.v 4) (.imm 0) (.v 2) 0 with ctl := { ctl0 with rls := true } }) (spread 1)
    mayPerform s = true ∧ (firstOp s).rls = true ∧ (firstOp s).pieces = [firstPiece s] := by decide +kernel

/-- An atomic in one step, one in two, and a reduction store. -/
theorem witness_AtomicsPerformed :
    let ss := [after (.atom (maW 4 (.v 5) (.s 2) (.v 4) (.v 0))) (spread 1), after (.stred (maW 0 (.imm 0) (.s 2) (.v 4) (.v 0))) (spread 1)]
    (∀ s, s ∈ ss → mayPerform s = true ∧ (firstPiece s).place = .phys 0x40000 ∧ s.mem.marked 0x40000 4 = false) ∧
    ss.map (fun s => (firstPiece s).act) = [.atom 4 1 0 true, .red false [1] true] := by
  decide +kernel

/-! ### Witnesses: the matrix engine and the governor -/

/-- The engine owned, with a loaded plane of ones (E4M3 0x38) in ACTIVE. S2 is 65,536 − 128 × 256, S3 0x40000. -/
def engine : State :=
  let plane : Plane := { Plane.initial with loaded := true, data := [(0, List.replicate 128 0x38)] }
  let s := { state0q with w := { state0q.w with s := [(2, 32768), (4, 0x40000)] } }
  { s with d := { s.d with shares := [(0, { share0 with mx := { Matrix.initial with active := plane, owned := true } })] } }

/-- The same core with its engine in another context's hands. -/
def taken : State :=
  let other := { Share.empty with mx := { Matrix.initial with owned := true } }
  { state0q with d := { state0q.d with shares := [(0, share0), (256, other)] } }

def mxC (fn : BitVec 4) (mod : BitVec 8) (a b c : Spec) (mod2 : BitVec 6) : SysC := sysC fn mod (.v 0) a b c mod2

/-- Row ranges of 1 to 512 and one past; offsets at the last place of scratch; formats that fit and that do not. -/
theorem witness_MatrixWords :
    let s := engine
    s.matrixStalls 0 0 true = false ∧ s.matrixStalls 0 0 false = false ∧ taken.matrixStalls 0 0 true = true ∧
    s.wordFault (.mfmt (sysW 0 0x23 (.v 0) (.v 0) (.v 0))) = none ∧ (s.mfmtOf 2).fits (s.mfmtOf 3) = true ∧
    s.wordFault (.mfmt (sysW 0 0x83 (.v 0) (.v 0) (.v 0))) = none ∧ (s.mfmtOf 8).fits (s.mfmtOf 3) = false ∧
    s.wordFault (.mldw (mxC 1 0 (.s 2) (.v 0) (.v 0) 0)) = none ∧ (s.w.read32 (.s 2) 0).toNat % 128 = 0 ∧
    (s.w.read32 (.s 2) 0).toNat + 128 * (s.d.share 0 0).mx.wgt.tile = (s.d.ctx 0).scratchBytes ∧
    s.wordFault (.mswap (sysW 0 0 (.v 0) (.v 0) (.v 0))) = none ∧ taken.wordFault (.mswap (sysW 0 0 (.v 0) (.v 0) (.v 0))) = none ∧
    s.wordFault (.mstream (mxC 0 0 (.imm 1) (.imm 31) (.v 0) 0)) = none ∧ (s.d.share 0 0).mx.projected.1.isSome = true ∧
    ((s.d.share 0 0).mx.projected.1.map (s.d.share 0 0).mx.act.fits) = some true := by decide +kernel

theorem witness_MatrixWords_drain :
    let s := engine
    (∀ x, x ∈ [mxC 0 0 (.imm 4) (.imm 0) (.v 0) 0, mxC 2 0 (.imm 4) (.imm 0) (.s 2) 0, mxC 4 0 (.imm 4) (.imm 0) (.s 4) 0x30] →
      s.wordFault (.mdrain x) = none) ∧
    s.w.sPair (.s 4) % 64 = 0 ∧ (s.w.read32 (.s 2) 0).toNat % 64 = 0 ∧ drainFd (s.fdWord 0) = true ∧
    s.wordFault (.mzero (sysW 2 0 (.v 0) (.v 0) (.v 0))) = none ∧ s.wordFault (.mzero (sysW 0 0 (.v 0) (.imm 4) (.imm 0))) = none ∧
    s.wordFault (.mzero (sysW 0 0 (.v 0) (.imm 0) (.imm 0))) = none := by decide +kernel

/-- An instruction of the engine: the newest of its core, begun. -/
def began (i : Instr) (s : State) : State := after (.matrixInstructionBegin 0) (after i s)

/-- The first instruction issued that meets a condition. -/
def issuedAt (s : State) (f : MInstr → Bool) : Option MInstr := (s.d.share 0 0).mx.issued.find? f

theorem witness_MatrixSteps_begin :
    let ok := fun (i : Instr) (kind : MKind) =>
      let s := after i engine
      s.engineOwner 0 == some 0 && s.engineRuns 0 0 &&
        match nextBegin (fun k => s.depsDone k.after && (k.leave = 0 || k.leave = 2)) [] (s.d.share 0 0).mx.issued with
        | some m => !m.kind.heavy && m.kind == kind
        | none => false
    ok (.mswap (sysW 0 0 (.v 0) (.v 0) (.v 0))) .mswap = true ∧
    ok (.mzero (sysW 0 0 (.v 0) (.imm 4) (.imm 3))) (.mzero false 4 3) = true ∧
    ok (.mldw (mxC 0 0 (.v 0) (.v 0) (.v 0) 0)) (.mldw false 0) = true := by decide +kernel

theorem witness_MatrixSteps_load :
    let s := queued (began (.mldw (mxC 0 0 (.v 0) (.v 0) (.v 0) 0)) engine) [(Queue.idx .qmw, [entry 100 (List.replicate 32 1)])]
    s.engineOwner 0 = some 0 ∧ s.engineRuns 0 0 = true ∧
    (issuedAt s fun k => k.begun && !k.finished && k.kind.isLoad).map MInstr.kind = some (.mldw false 0) ∧
    (s.d.share 0 0).mx.shadow.fmt.block = 0 ∧ (s.readyHead 0 0 256 ((s.d.share 0 0).queue .qmw)).length = 1 := by decide +kernel

theorem witness_MatrixSteps_stream :
    let s := queued (began (.mstream (mxC 0 0 (.imm 4) (.imm 7) (.v 0) 0)) engine)
      [(Queue.idx .qma, [entry 100 (List.replicate 32 1), entry 101 (List.replicate 32 1)])]
    let m := issuedAt s fun k => k.begun && !k.finished && k.kind.isStream
    s.engineOwner 0 = some 0 ∧ s.engineRuns 0 0 = true ∧ m.map MInstr.kind = some (.mstream false false false 4 7 0) ∧
    m.map (fun k => k.kind.heavy) = some false ∧ m.map (fun k => k.act.rowEntries) = some 2 ∧
    (s.readyHead 0 0 2 ((s.d.share 0 0).queue .qma)).length = 2 := by decide +kernel

/-- A row to QMO, to scratch, to memory, and one that is marked. -/
theorem witness_MatrixDrains :
    let s0 := began (.mdrain (mxC 0 0 (.imm 4) (.imm 0) (.v 0) 0)) engine
    let s1 := began (.mdrain (mxC 2 0 (.imm 4) (.imm 0) (.s 2) 0)) engine
    let s2 := began (.mdrain (mxC 4 0 (.imm 4) (.imm 0) (.s 4) 0)) engine
    (∀ s, s ∈ [s0, s1, s2] → s.engineOwner 0 = some 0 ∧ s.engineRuns 0 0 = true ∧
      (issuedAt s fun k => k.begun && !k.finished && k.kind.isDrain && (s.d.share 0 0).drainRoom k).map MInstr.suppressed = some []) ∧
    (s0.d.share 0 0).room .qmo ≥ 4 ∧ 0x40000 % 4096 + drainSize 0 0 ≤ 4096 ∧
    (s2.hit 0 0 (.virt 0x40000) 0).isSome = true ∧ s2.accessFault 0 0 0x40000 1 (s2.hit 0 0 (.virt 0x40000) 0) = none ∧
    (s2.d.ctx 0).needsPage 0 0x40000 = false ∧ ((s2.d.share 0 0).mx.acc false).mark = [] := by decide +kernel

theorem witness_MatrixDrains_event :
    let s := { began (.mldw (mxC 2 0 (.v 0) (.v 0) (.v 0) 0)) engine with turns := [] }
    let x := s.d.share 0 0
    let t := s.mapMx 0 0 fun k => { k with issued := k.issued.map fun m => { m with finished := true } }
    x.mx.issued.length = 1 ∧ (issuedAt t fun m => m.finished && m.ev).isSome = true ∧ 0 < (t.d.share 0 0).room .qce ∧
    t.engineOwner 0 = some 0 ∧ t.mayRun 0 0 = true := by decide +kernel

theorem witness_MatrixDrains_release :
    let s := { state0q with w := { state0q.w with status := .matrixStall } }
    s.warp 1 = some s.w ∧ s.w.status = .matrixStall ∧ s.matrixStalls 0 0 true = false := by decide +kernel

/-- A request within the budget, one beyond it, one beyond the ramp; a window of 1,024 clocks that has passed. -/
theorem witness_PowerGovernor :
    let at_ := fun (use window clk : Nat) => ({ quiet with d := { quiet.d with
      dies := [(0, { Die.reset with use := use, window := window, reqs := [LeaveReq.mk 1 0 0 2 1 0] })]
      cores := [(0, { Core.reset with clk := clk })] } } : State)
    let x := fun s : State => s.d.die 0
    let fits := fun s : State => (x s).reqs = [LeaveReq.mk 1 0 0 2 1 0] ∧ (x s).use + 1 ≤ (x s).budget ∧ (x s).window < (x s).ramp
    fits (at_ 159 7 0) ∧ (x (at_ 160 0 0)).budget < (x (at_ 160 0 0)).use + 1 ∧ (x (at_ 0 8 0)).ramp ≤ (x (at_ 0 8 0)).window ∧
    (x (at_ 0 0 1024)).winClk + 1024 ≤ ((at_ 0 0 1024).d.core 0).clk := by decide +kernel

/-! ### Witnesses: control flow, tokens and frames -/

def unused : Clause := { cpred := 15, fr := 0, pl := 0, tg := 0 }

/-- Entry 0 is a DATA clause to slot 1 of block 0 (R92); V4 of both lanes names a frame of the core, V5 of lane 0 holds
the null handle, V6 a tag. Its task is debugged. -/
def sender : State :=
  let s := state0 [(128, handleOf 0 0), (129, handleOf 0 16), (160, 0xFFFFFFFF), (161, 8), (192, 32), (193, 32)] [] []
  { s with
    w := { s.w with hdr := { header with succ := [0x20010000, 0, 0, 0] } }
    d := { s.d with ctxs := [(0, { context0 with tasks := [(0, { task0 with debug := true })] })] } }

def used : Clause := { cpred := 7, fr := 4, pl := 5, tg := 6 }

/-- The counters at zero and not; a clause over no entry; a register that holds no handle. -/
theorem witness_Terminators :
    let x := EndW.mk used unused unused unused
    let none_ := EndW.mk unused unused unused unused
    let bad := EndW.mk { used with fr := 5 } unused unused unused
    let s := sender
    let busy := { s with w := { s.w with ldc := 1 } }
    s.wordFault (.endK x) = none ∧ s.wordFault (.endR none_) = none ∧ busy.wordFault (.endK x) = none ∧ busy.w.drained = false ∧
    s.w.clauseMissing (EndW.mk unused used unused unused) = true ∧ s.wordFault (.endK (EndW.mk unused used unused unused)) = none ∧
    s.w.clauseMissing x = false ∧ s.w.clauseMissing none_ = false ∧ s.w.drained = true ∧ s.w.status = .running ∧
    s.clauseFails x = 0 ∧ s.clauseFails bad ≠ 0 ∧ s.wordFault (.endK bad) = none ∧ s.w.pend = [] ∧ s.d.devnum < 4096 ∧
    (s.w.hdr.entry 0).kind = 1 ∧ s.w.clauseOn x.c0 = 3 ∧ s.w.clauseOn x.c1 = 0 ∧ (s.d.share 0 0).frames.map Prod.fst = [0, 16] := by
  decide +kernel

/-- No core of the witnesses is offline. -/
theorem witness_online : ∀ g, (sender.d.core g).offline = false ∧ (quiet.d.core g).offline = false := fun _ => ⟨rfl, rfl⟩

theorem witness_TrapWords :
    let s := sender
    let busy := { s with w := { s.w with stc := 255 } }
    (∀ i, i ∈ [Instr.trap (sysW 0 0x2A (.v 0) (.v 0) (.v 0)), .ecall (sysW 0 9 (.s 5) (.s 6) (.v 0)), .brk (sysW 0 7 (.v 0) (.v 0) (.v 0))] →
      s.wordFault i = none ∧ busy.wordFault i = none ∧ quiet.wordFault i = none) ∧
    s.w.drained = true ∧ busy.w.drained = false ∧ (s.task.map Task.debug).getD false = true ∧
    (quiet.task.map Task.debug).getD false = false := by decide +kernel

/-- Handles to frames of the device; one register that holds no handle; for `SENDM` a group of two members. -/
theorem witness_SendWords :
    let x := sysC 0 0 (.v 0) (.v 4) (.v 5) (.v 6) 0
    let y := sysC 0 0 (.v 0) (.v 7) (.v 5) (.v 6) 0
    let c := { context0 with grouptab := 0x40000 }
    let s := sender
    let g := { s with
      d := { s.d with ctxs := [(0, c)] }
      mem := image (pages ++ [(0x40000, 8, 0x41000), (0x40008, 4, 2), (0x41000, 4, 0x10), (0x41004, 4, 0x80020)]) }
    (s.sendEntry x).isSome = true ∧ s.wordFault (.send x) = none ∧
    (badLanes (s.w.active x.g) fun l => 4095 < s.sendDev x l || !s.goodHandle (s.w.read32 x.a l)) = 0 ∧
    s.wordFault (.send { x with a := .v 5 }) = none ∧
    (badLanes (s.w.active x.g) fun l => 4095 < s.sendDev x l || !s.goodHandle (s.w.read32 (.v 5) l)) = 1 ∧
    (∀ l, l < 32 → s.sendDev x l = s.d.devnum) ∧ g.wordFault (.sendm y) = none ∧ (g.sendEntry y).isSome = true ∧
    (match g.readGroup 0 with
      | .members hs => hs == [0x10, 0x80020] && hs.all g.goodHandle
      | _ => false) = true := by decide +kernel

/-- Frames of another core and of the core itself; a pending frame of one granule; sizes at both ends. -/
theorem witness_FrameWords :
    let s := { sender with w := { sender.w with v := [(32, handleOf 1 0), (33, handleOf 1 16), (64, handleOf 0 16), (65, handleOf 0 0)], filled := 3 } }
    let p := { sender with
      w := { sender.w with v := [(32, handleOf 0 32)], filled := 1 }
      d := { sender.d with shares := [(0, { share0 with frames := [(0, frame0), (32, Frame.fresh .pending 0 1 0 0)] })] } }
    let arm := SysI.mk always ctl0 0 15 (.v 0) (.v 1) (.spec (.imm 2))
    s.wordFault (.arm arm) = none ∧ p.wordFault (.arm arm) = none ∧ armCtr arm = 15 ∧
    (∀ l, l < 2 → s.goodHandle (s.w.read32 (.v 1) l) = true ∧ handleCore (s.w.read32 (.v 1) l) ≠ 0 ∧
      s.goodHandle (s.w.read32 (.v 2) l) = true ∧ handleCore (s.w.read32 (.v 2) l) = 0) ∧
    handleCore (p.w.read32 (.v 1) 0) = 0 ∧ p.w.active always = maskOf (fun k => decide (k = 0)) ∧
    ((p.d.share 0 0).frames.find 32).map (fun f => (f.state, f.size)) = some (.pending, 1) ∧
    (∀ n, n ∈ [16, 64] → p.wordFault (.falloc (sysC 0 0 (.v 2) (.imm (BitVec.ofNat 8 n)) (.v 0) (.v 0) 0)) = none ∧
      (p.d.placeFor 0 0 ((n + 15) / 16)).isSome = true) ∧
    s.wordFault (.ffree (sysW 0 0 (.v 0) (.v 1) (.v 0))) = none ∧ s.wordFault (.ffree (sysW 0 0 (.v 0) (.v 2) (.v 0))) = none := by
  decide +kernel

/-- One message on its way to the frame at offset 0, with the share's words and presence bits given. -/
def arriving (kind : Nat) (f : TokFlags) (words : Map Word) (pres : Map Bool) : State :=
  { quiet with d := { quiet.d with
    shares := [(0, { share0 with words := words, pres := pres })]
    net := [Msg.mk 9 { kind := kind, tok := tokenTo 0 (handleOf 0 0) 0 1 f 0 0 32 7, ctr := 15 } 0 0 0 []] } }

def msg (s : State) : Msg := s.d.net.headD (Msg.mk 0 { kind := 0, tok := mkToken 0 0 0 0 0 {} 0 0 0 0, ctr := 0 } 0 0 0 [])

/-- `Takes` and `Meets` hold, the counter at 15 still needing `left` arrivals and the slot full or not. -/
def arrives (s : State) (kind left : Nat) (full : Bool) : Prop :=
  let t := (msg s).item.tok
  s.Takes (msg s) kind ∧ (s.d.share 0 0).slot.isSome = true ∧ t.illFormed = false ∧ (s.d.share 0 0).frames.find t.ofs = some frame0 ∧
  frame0.state = .live ∧
  ((s.blockAt 0 0 0).map fun p => (p.2.ctrofs, p.2.inputs)) = some (15, 2) ∧ frame0.park = none ∧
  ctrLeft ((s.d.share 0 0).word 15) 2 = left ∧ (s.d.share 0 0).pres.getD 1 false = full ∧
  (s.d.ctx 0).orderedWait 0 t (msg s).circuit none = false

theorem witness_TokenArrivals : arrives (arriving 0 {} [] []) 0 2 false := by unfold arrives State.Takes; decide +kernel

theorem witness_TokenArrivals_last :
    let s := arriving 0 {} [(15, ctrWord false true 32 1)] []
    arrives s 0 1 false ∧ frame0.ctl = [] ∧ frame0.mix = [] ∧ (s.d.ctx 0).det = false ∧ (s.d.share 0 0).windows = [] ∧
    s.d.poolFree 0 0 = true ∧ s.d.shares.length = 1 := by unfold arrives State.Takes; decide +kernel

theorem witness_TokenArrivals_control : arrives (arriving 0 { control := true } [] []) 0 2 false := by
  unfold arrives State.Takes; decide +kernel

theorem witness_TokenArrivals_scale : arrives (arriving 0 { scale := true } [(15, ctrWord false true 32 1)] [(1, true)]) 0 1 true := by
  unfold arrives State.Takes; decide +kernel

theorem witness_TokenArrivals_collision :
    let s := arriving 0 {} [(15, ctrWord false true 32 1)] [(1, true)]
    arrives s 0 1 true ∧ s.d.collUsed 0 < 2 ^ (s.d.ctx 0).clog ∧
    (s.engineAddr 0 ((s.d.ctx 0).cring + 32 * ((s.d.ctx 0).collSeq % 2 ^ (s.d.ctx 0).clog)) true).isSome = true := by
  unfold arrives State.Takes; decide +kernel

theorem witness_FrameMessages :
    (arriving 1 {} [] []).Takes (msg (arriving 1 {} [] [])) 1 ∧ (msg (arriving 1 {} [] [])).item.ctr < frame0.size * 16 ∧
    (arriving 2 {} [] []).Takes (msg (arriving 2 {} [] [])) 2 := by unfold State.Takes; decide +kernel

/-- A token for a frame that is not there, and one collided that its slot now takes. -/
theorem witness_FrameMessages_gone :
    let s := arriving 0 {} [] []
    let t : State := { s with d := { s.d with shares := [(0, { share0 with frames := [(16, frame0)] })] } }
    t.Takes (msg t) 0 ∧ (t.d.share 0 0).frames.find (msg t).item.tok.ofs = none := by unfold State.Takes; decide +kernel

def collided : State :=
  let e : Collided := { seqno := 3, core := 0, tok := (msg (arriving 0 {} [] [])).item.tok, parked := false, hit := true, circuit := 0, ready := true }
  { quiet with d := { quiet.d with ctxs := [(0, { context0 with collided := [e] })] } }

theorem witness_FrameMessages_retry :
    let s := collided
    let e := (s.d.ctx 0).collided.headD ⟨0, 0, (msg s).item.tok, false, false, 0, false⟩
    let x := s.d.share 0 0
    (s.d.ctx 0).state = .active ∧ x.saved = false ∧ (s.d.ctx 0).collided.find? (fun k => k.core = 0 && k.ready) = some e ∧
    x.frames.find e.tok.ofs = some frame0 ∧ frame0.park = none ∧ ((s.blockAt 0 0 e.tok.blk).map fun p => p.2.inputs) = some 2 ∧
    (s.d.ctx 0).orderedWait 0 e.tok e.circuit (some e.seqno) = false ∧ e.tok.control = false ∧
    x.pres.getD (e.tok.ofs + e.tok.slot) false = false ∧ e.tok.slot ≠ 15 ∧ e.tok.ordered = false ∧
    2 ≤ ctrLeft (x.word (e.tok.ofs + 15)) 2 := by decide +kernel

theorem witness_FrameMessages_parked :
    let dsc : Desc := { tag := 32, blk := 0, ofs := 0, last := false }
    let x := { share0 with frames := [(0, { frame0 with park := some dsc })] }
    let s := { quiet with d := { quiet.d with shares := [(0, x)] } }
    (s.d.core 0).now.contains .freed = false ∧ (s.scanNext 0).map (fun p => (p.ctx, p.ofs, p.dsc)) = some (0, 0, dsc) ∧
    (s.scanned 0).length = 1 := by
  decide +kernel

theorem witness_FrameMessages_held :
    let m := Msg.mk 9 { kind := 0, tok := tokenTo 0 (handleOf 0 0) 0 1 {} 0 0 32 7, ctr := 0 } 0 0 0 [⟨77, 0⟩]
    let s := { quiet with d := { quiet.d with net := [m] } }
    s.d.msg m.id = some m ∧ s.depsDone m.after = true := by decide +kernel

/-- A frame that waits for its die; a RANGE of two; a group of one instance; a gather timer that has run out. -/
theorem witness_SpawnsAndWarps :
    let tok := mkToken 0 0 0 0 1 {} 0 0 32 7
    let e : SpawnEnt := ⟨0, 0, 0, 1, [0, 1], 0, 0, [tok], 4, 0, 0, 0, false⟩
    let f : SpawnEnt := { e with seqno := 6 }
    let b : GangEnt := ⟨0, 0, 32, 1, 0, 0, 0, 1, 0x40000, 7, false, 1000, 0, 0, 0, true, 3, 0, 0, 0⟩
    let s := { quiet with d := { quiet.d with dies := [(0, { Die.reset with spawn := [f, e], gangs := [b] })] } }
    let key := fun (k : SpawnEnt) => s.d.servedAt 0 k.ctx k.seqno (fidNum k.fidHi k.fidLo)
    (s.d.die 0).spawn = [f, e] ∧ (s.d.die 0).gangs = [b] ∧ (∀ k, k ∈ [e, f] → (s.d.goesTo k).contains 1 = true) ∧
    (s.d.ctx e.ctx).state = .active ∧ s.d.fitsOn e.ctx e.granules 1 = some 0 ∧ key e < key f ∧
    s.d.servedAt 0 b.ctx b.seqno b.fidKey < key e ∧ s.gangReady 0 b = false ∧
    (s.blockAt e.ctx e.task e.blk).isSome = true ∧ (s.d.ctx e.ctx).heatbuf = 0 ∧ (s.d.share e.ctx 1).holds = false ∧
    (s.d.share e.ctx 0).holds = true ∧ ∀ t, t ∈ e.toks → t.device = s.d.devnum := by decide +kernel

theorem witness_SpawnsAndWarps_range :
    let r : RangeJob := ⟨0, 0, 1, 0, 5, 32, 1, 2, false, 0, 0, 0⟩
    let s := { quiet with d := { quiet.d with shares := [(0, { share0 with ranges := [r, r] })] } }
    (s.d.share 0 0).ranges = [r, r] ∧ s.mayRun 0 0 = true ∧ (s.d.share 0 0).holds = true ∧ r.count ≤ r.next + 1 := by decide +kernel

/-- One instance in bin 0. -/
def binned (seq : Bool) (since : Nat) : State :=
  let r : Ready := { desc := { tag := 32, blk := 0, ofs := 0, last := false }, task := 0, since := since, seqno := 1 }
  let x := if seq then { share0 with sbins := [(0, [r])] } else { share0 with vbins := [(0, [r])] }
  let w2 := if seq then 0x80 else 0
  { quiet with
    d := { quiet.d with shares := [(0, x)], cores := [(0, { Core.reset with clk := 100 })] }
    mem := image (pages ++ [(0x30100, 4, 0x400 + w2)]) }

theorem witness_SpawnsAndWarps_form :
    (∀ b, b ∈ [false, true] →
      ((binned b 0).choose 0 b).map (fun x => (x.ctx, x.key, x.va)) = some (0, ⟨b, 0, 0, 0, 0⟩, 0x30100) ∧
      (((binned b 0).choose 0 b).map fun x => ((binned b 0).choiceFault x).isNone && ((binned b 0).warpPlace 0 b x.hdr).isSome) = some true) := by
  decide +kernel

theorem witness_SpawnsAndWarps_gather :
    let s := binned false 40
    let k : GroupKey := ⟨false, 0, 0, 0, 0⟩
    let x := s.d.share 0 0
    (x.group (s.d.ctx 0).det k).length = 1 ∧ (s.blockAt 0 k.task k.blk).isSome = true ∧ x.saved = false ∧ x.timed = [] ∧
    (x.group (s.d.ctx 0).det k).map Ready.since = [40] ∧ 40 + header.gather ≤ (s.d.core 0).clk := by decide +kernel

/-! ### Witnesses: system words, parked warps, engines and tasks -/

def sysJ (d a : Spec) (imm : Word) : SysJ := SysJ.mk always ctl0 0 0 d a (.v 0) imm

/-- A task-level context, and one with a region and a count of its joins. -/
def taskLevel : State := { quiet with d := { quiet.d with ctxs := [(0, { context0 with supv := false })] } }

def regional : State :=
  let r : Region := { base := 0x40000, len := 0x10000, ty := 1, merge := 2, nlog := 0, nlogn := 0 }
  let c := { context0 with regions := [(3, r)], rootConf := [(3, 5)] }
  { quiet with w := { quiet.w with s := [(2, 0x50000), (4, 0x10000), (5, 0x70)] }, d := { quiet.d with ctxs := [(0, c)] } }

/-- Every register number of R59, in a supervisor context and at task level; a valid format and, in S4, one that is not. -/
theorem witness_SystemWords_csr :
    (∀ n, n ∈ [0, 1, 8, 15, 0x10, 0x20, 0x21, 0x22, 0x30] →
      regional.wordFault (.csrr (sysJ (.s 6) (.v 0) (BitVec.ofNat 32 n))) = none ∧
      regional.wordFault (.csrw (sysJ (.v 0) (.s 5) (BitVec.ofNat 32 n))) = none ∧
      taskLevel.wordFault (.csrw (sysJ (.v 0) (.s 5) (BitVec.ofNat 32 n))) = none) ∧
    regional.wordFault (.csrw (sysJ (.v 0) (.s 4) 8)) = none ∧ fdValid (regional.w.read32 (.s 5) 0) = true ∧
    fdValid (regional.w.read32 (.s 4) 0) = false ∧ (regional.d.ctx 0).supv = true ∧ (taskLevel.d.ctx 0).supv = false := by
  decide +kernel

/-- A definition beside the region, one that meets it, a removal; both counts; a counter read in both ranges. -/
theorem witness_SystemWords_regions :
    let c := regional.d.ctx 0
    (∀ x, x ∈ [sysC 0 0x21 (.v 0) (.s 2) (.s 4) (.imm 5) 0, sysC 1 0 (.v 0) (.v 0) (.v 0) (.imm 3) 0] →
      regional.wordFault (.rdef x) = none) ∧
    c.regionBad 5 0x50000 0x10000 = false ∧ c.regionBad 5 0x40000 0x10000 = true ∧ c.clearBad 3 = false ∧
    regional.wordFault (.rstat (sysW 0 0 (.s 6) (.imm 3) (.v 0))) = none ∧ (c.regions.find 3).isSome = true ∧
    regional.wordFault (.rstat (sysW 0 0 (.s 6) (.imm 4) (.v 0))) = none ∧ c.regions.find 4 = none ∧ c.revs.find 0 = none ∧
    (∀ n, n ∈ [2, 12] → regional.wordFault (.perfrd (sysW 0 0 (.s 6) (.imm (BitVec.ofNat 8 n)) (.v 0))) = none) ∧
    countsSource true ((regional.d.core 0).selections.getD 2 0) = false ∧ regional.w.active always ≠ 0 := by decide +kernel

/-- Warp 2 of the same core waits under an entry of kind 2 or 3, copy queue A under one of kind 4, the engine under one of
kind 5; S4 holds the identifier. -/
def parkedAt (kind : Nat) : State :=
  let p : Park := { kind := kind, gen := 7, uid := if kind < 4 then 2 else 0, sd := 9, used := true, held := none }
  let e : CopyCmd := { entry := entry 90 [], row := 0, col := 0, bytes := 0, status := 0, leave := 2, finished := false,
                       marked := false, parked := some 0 }
  let x := { share0 with park := [(parkKey kind 0, p)], copyA := if kind = 4 then some e else none }
  let m := ((after (.mswap (sysW 0 0 (.v 0) (.v 0) (.v 0))) engine).d.share 0 0).mx
  let y := if kind = 5 then { x with mx := { m with issued := m.issued.map fun k => { k with parked := some 0 } } } else x
  { quiet with
    w := { quiet.w with s := [(4, resid kind 0 0 0 7), (6, 0x1234)] }
    d := { quiet.d with shares := [(0, y)], warps := [{ warp0 with uid := 2, status := .parked 0 }] } }

theorem witness_ResumeWords :
    let r := Instr.resumeq (sysW 0 0 (.v 0) (.s 4) (.v 0))
    let t := Instr.sret (sysW 0 0 (.v 0) (.s 4) (.s 6))
    (∀ i, i ∈ [r, t] → i.legal = true ∧ i.inside 64 32 = true ∧ i.kindOk false = true) ∧
    (∀ k, k ∈ [2, 3, 4, 5] →
      ridKind ((parkedAt k).w.read32 (.s 4) 0) = k ∧ ((parkedAt k).parkNamed ((parkedAt k).w.read32 (.s 4) 0)).isSome = true ∧
      (parkedAt k).depsDone ((parkedAt k).writesOf 1) = true ∧ ((parkedAt k).d.share 0 0).saved = false ∧
      ((parkedAt k).d.share 0 0).halted = false ∧ ((parkedAt k).warp 2).isSome = true) ∧
    (taskLevel.d.ctx 0).supv = false ∧ quiet.parkNamed (quiet.w.read32 (.s 4) 0) = none ∧ quiet.w.active always ≠ 0 := by decide +kernel

/-- The state with its warp waiting at a word. -/
def waits (s : State) (st : WStatus) : State := { s with w := { s.w with status := st } }

theorem witness_ReleaseEvents :
    let x := sysJ (.v 0) (.v 0) 0xFFFF0101
    let s := waits outstanding (.waitLimits x)
    s.warp 1 = some s.w ∧ s.w.live = true ∧ s.mayRun 0 0 = true ∧ s.w.ldc ≤ 1 ∧ s.w.stc ≤ 1 ∧ s.w.cpc ≤ 255 ∧ s.w.tlc ≤ 255 ∧
    (waits quiet (.counterStall .ld)).w.counter .ld < 255 := by decide +kernel

/-- Words that were blocked, and words that waited for the counters. -/
theorem witness_ReleaseEvents_words :
    let blocked := [Instr.qpush (sysW 3 0 (.q .qma) (.v 4) (.v 0)), .qpop (sysW 1 0 (.v 4) (.q .qmo) (.v 0)),
      .mov (alu2 .u32 0 (.q .qma) (.v 3) (.spec (.v 0))), .cpy (sysC 1 0 (.v 0) (.s 16) (.v 0) (.v 0) 0),
      .evict (sysW 0 0 (.v 0) (.s 16) (.v 0)), .selcfg (alu2 .u32 0 (.v 0) (.imm 4) (.spec (.imm 2))),
      .selpush (alu2 .u32 1 (.v 0) (.v 4) (.spec (.imm 2))), .selpop (alu2 .u32 1 (.v 4) (.imm 0) (.spec (.v 0)))]
    let x := EndW.mk used unused unused unused
    let drained := [Instr.endK x, .endR x, .trap (sysW 0 0x2A (.v 0) (.v 0) (.v 0)), .ecall (sysW 0 9 (.s 5) (.s 6) (.v 0))]
    (∀ i, i ∈ blocked → (waits quiet (.blocked i)).mayRun 0 0 = true ∧ ((waits quiet (.blocked i)).focus 1).wordFault i = none) ∧
    (∀ i, i ∈ drained → ((waits sender (.draining i)).focus 1).wordFault i = none) ∧ sender.w.clauseMissing x = false ∧
    ((waits state0q (.blocked (.evwait (sysW 0 0 (.s 8) (.v 0) (.v 0))))).focus 1).wordFault (.evwait (sysW 0 0 (.s 8) (.v 0) (.v 0))) = none := by
  decide +kernel

theorem witness_ReleaseEvents_sequences :
    let is := [Instr.kvld (memW 4 (.v 4) (.s 2) (.v 7) 0), .posld (memW 4 (.v 4) (.s 2) (.v 7) 0),
      .massacc { maW 0 (.imm 0) (.s 2) (.v 3) (.v 0) with b := .v 7 }, .seqlockAcq (sysW 0 0 (.v 0) (.s 2) (.v 0))]
    ∀ i, i ∈ is → (waits (sequenced 0) (.busyPark i)).mayRun 0 0 = true ∧ ((waits (sequenced 0) (.busyPark i)).focus 1).wordFault i = none := by
  decide +kernel

/-- A copy command: words 0 to 15 (R183). -/
def copyEntry (op src dst len rows : Nat) : QEntry :=
  entry 90 ([op, src, 0, dst, 0, 0, len, rows, 0, 0, 0, 0, 0, 0, 5, 0].map (BitVec.ofNat 32))

def copyCmd (e : QEntry) (fin : Bool) : CopyCmd :=
  { entry := e, row := 0, col := 0, bytes := 0, status := 0, leave := 2, finished := fin, marked := false, parked := none }

def copying (e : QEntry) (fin : Bool) : State :=
  { quiet with
    d := { quiet.d with shares := [(0, { share0 with copyA := some (copyCmd e fin) })] }
    mem := image (pages ++ [(0x40000, 8, 0x1122334455667788)]) }

/-- Copies, a fill, one to scratch; one with a mark; one whose length is zero; one of more than a mebibyte. -/
theorem witness_CopyUnit_command :
    let s := fun e => queued quiet [(Queue.idx .qca, [e])]
    let ok := copyEntry 0 0x40000 0x50000 100 1
    (∀ e, e ∈ [ok, { ok with poison := true }, copyEntry 0 0x40000 0x50000 0 1, copyEntry 2 0x40000 0x50000 1024 1025] →
      ((s e).d.share 0 0).queue (copyQueue 0) = [e] ∧ ((s e).d.share 0 0).copy 0 = none ∧ (s e).mayRun 0 0 = true ∧
      (s e).entryReady 0 0 e = true) ∧
    (s ok).copyBad 0 ok = false ∧ (s ok).copyBad 0 (copyEntry 0 0x40000 0x50000 0 1) = true ∧ 1048576 < 1024 * 1025 ∧
    (s ok).copyBad 0 (copyEntry 2 0x40000 0x50000 1024 1025) = false := by decide +kernel

theorem witness_CopyUnit_chunk :
    ∀ e, e ∈ [copyEntry 0 0x40000 0x50000 100 1, copyEntry 1 0x11223344 0x50000 100 1, copyEntry 0x40 0x40000 0 100 1,
        copyEntry 0x10 0 0x50000 100 1, copyEntry 0 0x40000 0x50FF8 5000 1] →
      let s := copying e false
      let k := copyCmd e false
      ((s.d.share 0 0).copy 0).map (fun c => (c.finished, c.parked, c.leave)) = some (false, none, 2) ∧ s.copyRuns 0 0 = true ∧
      k.col < e.len ∧ k.row < e.rows ∧ s.chunkFault 0 0 k = none ∧ ((s.chunkBytes 0 0 k false).all fun b => !b.2) = true ∧
      (e.dsp = 0 → (s.hit 0 0 (.virt k.chunk.2.1) 0).isSome = true ∧ (s.d.ctx 0).needsPage e.task k.chunk.2.1 = false) := by
  decide +kernel

/-- A copy to a device whose path is down. -/
theorem witness_CopyUnit_path :
    let e := { copyEntry 0x80 0x40000 0x50000 100 1 with data := (copyEntry 0x80 0x40000 0x50000 100 1).data.set 5 3 }
    (copying e false).copyRuns 0 0 = true ∧ e.dsp = 2 ∧ e.ddev ≠ (copying e false).d.devnum ∧ (copying e false).pathUp 0 e.ddev = false := by
  decide +kernel

/-- Finished commands that ask for nothing, for an event, and for a token. -/
theorem witness_CopyUnit_completion :
    ∀ w, w ∈ [0, 0x100, 0x200, 0x300] →
      let e := copyEntry w 0x40000 0x50000 100 1
      let s := copying e true
      s.copyRuns 0 0 = true ∧ (s.d.ctx 0).state ≠ .ending ∧ s.d.devnum < 4096 ∧ bitOf e.cmpl 0 = decide (w = 0x100 ∨ w = 0x300) ∧
      e.wantsTok = decide (0x200 ≤ w) ∧ s.copyHandle 0 e = true ∧ (s.d.core (s.copyTok 0 (copyCmd e true)).dest).offline = false ∧
      ((s.d.share 0 0).queue .qce).length < Queue.depth .qce := by decide +kernel

theorem witness_CopyUnit_link :
    let s := copying (copyEntry 0 0x40000 0x50000 100 1) false
    (s.d.ctx 0).state ≠ .free ∧ (s.d.ctx 0).state ≠ .ending ∧ s.engineFault 0 0 256 0x50000 64 1 = none ∧ 0x50000 % 4096 + 64 ≤ 4096 ∧
    (s.hit 0 0 (.virt 0x50000) 0).isSome = true ∧ (s.d.ctx 0).needsPage 256 0x50000 = false := by decide +kernel

/-- Entries of every kind; a column of one candidate. -/
theorem witness_SelectAndEviction_select :
    ∀ n, n < 5 →
      let e := { entry 90 (List.replicate 32 7) with sel := n, selA := 0, selB := 2, lanes := 3 }
      let s := queued quiet [(Queue.idx .qsi, [e])]
      ((s.d.share 0 0).queue .qsi) = [e] ∧ s.mayRun 0 0 = true ∧ s.entryReady 0 0 e = true ∧
      ((s.d.share 0 0).queue .qso).length < Queue.depth .qso := by decide +kernel

/-- An eviction command (R214): sequence, budget, sinks and window. -/
def evictEntry (op : Nat) : QEntry :=
  { entry 90 ([op, 0x40000, 0, 1, 1 + 0 * 65536, 0, 0, 0, 0, 0, 0, 0, 0, 0, 0, 0].map (BitVec.ofNat 32)) with lanes := BitVec.allOnes 32 }

theorem witness_SelectAndEviction_command :
    ∀ e, e ∈ [evictEntry 1, { evictEntry 1 with poison := true }, evictEntry 2, { evictEntry 1 with lanes := 0xFF }] →
      let s := queued quiet [(Queue.idx .qek, [e])]
      ((s.d.share 0 0).queue .qek) = [e] ∧ s.mayRun 0 0 = true ∧ s.entryReady 0 0 e = true ∧
      s.cmdBad (EnckeCmd.new 0 0 e) = decide (e.cmd 0 = 2 ∨ e.lanes = 0xFF) := by decide +kernel

/-- The command at Encke: a free sequence, a BUSY one, one above the pages. -/
def evicting (busy : Nat) (e : QEntry) : State :=
  { sequenced busy with d := { (sequenced busy).d with dies := [(0, { Die.reset with encke := [EnckeCmd.new 0 0 e] })] } }

theorem witness_SelectAndEviction_eviction :
    let k := EnckeCmd.new 0 0 (evictEntry 1)
    let s := evicting 0 (evictEntry 1)
    let d := SeqDesc.of (s.mem.nat 0x40000 64)
    let far := EnckeCmd.new 0 0 { evictEntry 1 with data := (evictEntry 1).data.set 1 0x40000000 }
    k.seqVa = 0x40000 ∧ s.rangeMiss 0 0x40000 64 true = none ∧ s.engineAddr 0 0x40000 false = some 0x40000 ∧ d.busy = false ∧
    (SeqDesc.of ((evicting 1 (evictEntry 1)).mem.nat 0x40000 64)).busy = true ∧ d.ok = true ∧ s.d.ops = [] ∧
    s.rangeMiss 0 d.plist (16 * d.npages) false = none ∧ (s.livePages 0 d) = [(0x50000, 0x60000)] ∧
    s.evictMiss 0 0x40000 d (s.livePages 0 d) = none ∧ (s.rangeMiss 0 far.seqVa 64 true).isSome = true := by decide +kernel

/-- Budgets below, at and above the length. -/
theorem witness_SelectAndEviction_survivors :
    (∀ b, b ∈ [2, 4, 5] → (survivors 4 b 1 1 (fun i => i) id).length = min 4 b) ∧ survivors 4 3 1 1 (fun i => i) id = [0, 2, 3] := by
  decide +kernel

/-! ### Witnesses: tasks, merges and contexts -/

/-- A task descriptor at 0x40000: block 0 of the block table of the witnesses, 4 granules of frames, 1 of scratch (R316). -/
def descriptor : List (Nat × Nat × Nat) :=
  [(0x40000, 4, 1), (0x40004, 4, 0x8080), (0x40008, 8, 0x30000), (0x40010, 4, 0x1000), (0x40014, 4, 1), (0x40018, 8, 0x30000)]

/-- A context in a state of R312 with that descriptor's address in its launch queue. -/
def launching (st : CState) (addr : Nat) : State :=
  { quiet with
    d := { quiet.d with bootState := 3, ctxs := [(0, { context0 with state := st, frameg := 4, launches := [addr, 9] })] }
    mem := image (pages ++ descriptor) }

/-- Whether the launch is accepted, as task 1, without a gang and with core 0 as its home. -/
def accepted (st : CState) : Bool :=
  match (launching st 0x40000).checkLaunch 0 0x40000 with
  | .inr (d, _, i) => i == 1 && d.gsize == 0 && d.hcore == 0
  | .inl _ => false

theorem witness_TaskUnit_launch_active : accepted .active = true := by decide +kernel

theorem witness_TaskUnit_launch_idle : accepted .idle = true := by decide +kernel

/-- One at an unaligned address; a queue with room. -/
theorem witness_TaskUnit_launch :
    (match (launching .active 9).checkLaunch 0 9 with
      | .inl n => n == 2
      | .inr _ => false) = true ∧
    (launching .active 0x40000).blockAt 0 0 0 = some (0x30100, header) ∧ (launching .active 0x40000).d.hostDown = false ∧
    ((launching .active 0x40000).d.fitsOn 0 1 0).isSome = true ∧ ((launching .active 0x40000).d.ctx 0).launches.length < 16 ∧
    (launching .active 0x40000).d.devnum < 4096 := by decide +kernel

/-- A gang of 32 threads on one core, whose pages are the task's own or whose group entry lies in a revision. -/
def gangAt (e : GangEnt) (revs : Map Revision) : State :=
  { quiet with d := { quiet.d with
    ctxs := [(0, { context0 with frameg := 4, grouptab := 0x41000, revs := revs })], dies := [(0, { Die.reset with gangs := [e] })] } }

def gang0 : GangEnt := ⟨0, 0, 32, 1, 0, 0, 0, 1, 0x40000, 7, false, 1, 0, 0, 0, true, 5, 0, 0, 0⟩

theorem witness_TaskUnit_gang :
    let s := gangAt gang0 []
    (s.d.die 0).gangs[0]? = some gang0 ∧ (s.d.ctx 0).state = .active ∧ s.gangHeaders gang0 = true ∧ gang0.coresOk 0 [0] = true ∧
    s.gangNext 0 gang0 [0] = true ∧ 0 < gang0.gcores ∧ gang0.gsize % gang0.gcores = 0 ∧
    ((s.placeGang gang0 [0]).map fun u => (u.d.die 0).gangs.length) = some 0 := by decide +kernel

/-- A gang that lacks a page for a word it writes stays in its queue, held at that page. -/
theorem witness_TaskUnit_gang_held :
    let r : Region := { base := 0x40000, len := 0x10000, ty := 2, merge := 2, nlog := 0, nlogn := 0 }
    let v : Revision := { regions := [(0, r)], own := [], dirty := [], anc := [], conflicts := [], granules := [], record := 0x70000, count := 0, stuck := none, gen := 5 }
    let s := gangAt gang0 [(0, v)]
    s.gangNext 0 gang0 [0] = true ∧ s.gangHeaders gang0 = true ∧
    ((s.placeGang gang0 [0]).map fun u => (u.d.die 0).gangs.map fun e => (e.seqno, decide (e.held ≠ 0))) = some [(5, true)] := by
  decide +kernel

/-- Tasks with nothing left: with and without a completion record, a token and a parent. -/
def completing (crec : Nat) (fr : Word) (child : Option Child) : State :=
  { quiet with d := { quiet.d with
    shares := [], ctxs := [(0, { context0 with tasks := [(3, { task0 with crec := crec, fr := fr, child := child })] })] } }

/-- What the clauses on a completion ask of a state. -/
def completes (crec : Nat) (fr : Word) (child : Option Child) : Prop :=
  let s := completing crec fr child
  ((s.d.ctx 0).tasks.find 3).map (fun t => (t.done, t.crec, t.fr, t.child)) = some (false, crec, fr, child) ∧
  s.d.taskBusy 0 3 = false ∧ (s.d.ctx 0).state ≠ .ending ∧ (s.engineAddr 0 crec true).isSome = decide (crec ≠ 0x80000000)

theorem witness_TaskUnit_completion : completes 0 nullHandle none ∧ completes 0x40000 nullHandle none := by
  unfold completes; decide +kernel

theorem witness_TaskUnit_completion_child :
    completes 0x80000000 nullHandle (some ⟨0, 0, handleOf 1 0, 0, 0, 0⟩) ∧ completes 0 (handleOf 1 0) none := by
  unfold completes; decide +kernel

/-- A completed child of task 0 with a revision of the region at 0x40000; `own` are its pages, `dirty` its sectors. -/
def joining (own : Map Nat) (dirty : Map (BitVec 128)) (va : Nat) : State :=
  let r : Region := { base := va, len := 0x10000, ty := 2, merge := 2, nlog := 0, nlogn := 0 }
  let v : Revision := { regions := [(0, r)], own := own, dirty := dirty, anc := [], conflicts := [], granules := [], record := 0x70000, count := 0, stuck := none, gen := 5 }
  let c := { context0 with
    tasks := [(0, task0), (3, { task0 with child := some ⟨0, 0, handleOf 1 0, 0, 0, 0⟩, done := true, doneSeq := 1, depth := 1 })]
    regions := [(0, r)], revs := [(3, v)], pool := [(0x60000, 32)] }
  { quiet with d := { quiet.d with ctxs := [(0, c)] }, mem := image (pages ++ [(0x40000, 4, 5), (0x60000, 4, 7)]) }

theorem witness_ChildMerge :
    (∀ s, s ∈ [joining [] [] 0x40000, joining [(0x80000, 0x60000)] [(0x80000, 1)] 0x80000000] →
      let x := s.d.ctx 0
      (x.tasks.find 3).map Task.child = some (some ⟨0, 0, handleOf 1 0, 0, 0, 0⟩) ∧ x.state ≠ .free ∧ x.mayJoin 3 = true ∧
      ((x.tasks.find 3).map fun t => s.d.joinBehind 0 3 t ⟨0, 0, handleOf 1 0, 0, 0, 0⟩) = some false ∧ (x.revs.find 3).isSome = true) ∧
    ((joining [] [] 0x40000).d.ctx 0).mergeJobs 3 = [] ∧
    (((joining [(0x80000, 0x60000)] [(0x80000, 1)] 0x80000000).d.ctx 0).mergeJobs 3).map (fun p => p.2.2) = [0x80000] ∧
    (joining [(0x80000, 0x60000)] [(0x80000, 1)] 0x80000000).walk 0 0x80000000 = none := by decide +kernel

/-- Granule 0x40 of the child has a page and one written sector. -/
theorem witness_ChildMerge_granule :
    let s := joining [(0x40, 0x60000)] [(0x40, 1)] 0x40000
    let x := s.d.ctx 0
    (x.revs.find 3).isSome = true ∧ (x.revs.find 0) = none ∧ ((x.revs.find 3).bind fun r => r.own.find 0x40) = some 0x60000 ∧
    x.ancPage 0x40000 16 3 = none ∧ s.mem.marks = [] ∧ ((x.dropGranule 3 0x40).revs.all fun p => !(p.2.anc.find 0x40).isNone) = true ∧
    mergeElem 2 2 5 7 5 = some (7, false) ∧ mergeElem 2 2 6 7 5 = some (8, true) := by decide +kernel

/-- The quiet state with context 0 in another state. -/
def inState (st : CState) : State := { quiet with d := { quiet.d with ctxs := [(0, { context0 with state := st })] } }

/-- A configuration block at 0x40000 (R313), its address allowed or not; context 0 is the supervisor, context 1 FREE. -/
def configuring (flags : Nat) : State :=
  { quiet with
    d := { quiet.d with bootState := 3 }
    mem := image (pages ++ [(0x40000, 8, 0x10000), (0x40008, 8, 0x800000), (0x40010, 8, 0x50000), (0x40018, 8, 0x60000),
      (0x40020, 8, 0x70000), (0x40028, 4, 0x060A0A), (0x40034, 4, 0x10000), (0x40038, 4, 1), (0x4003C, 4, flags)]) }

theorem witness_Contexts_ccfg :
    ∀ f, f ∈ [0, 1] →
      let s := configuring f
      let x : Cfg := { bytes := s.mem.bytes 0x40000 64 }
      (s.d.ctx 1).state = .free ∧ (s.d.ctx 0).state ≠ .free ∧ (s.d.ctx 0).state ≠ .suspended ∧ s.d.launchable = true ∧
      s.d.needsReset = false ∧ isDevice 0x40000 = true ∧ s.mem.marked 0x40000 64 = false ∧ x.fieldsOk = true ∧
      s.ringsOk 1 x = true ∧ x.supv = decide (f = 1) ∧ (s.d.ctx 0).supv = true := by decide +kernel

theorem witness_Contexts_states :
    (∀ st, st ∈ [CState.active, .swapped, .suspended, .idle] → ((inState st).d.ctx 0).state = st) ∧
    (quiet.d.ctx 0).swapout = false ∧ ((inState .suspended).d.ctx 0).heldColl = [] ∧
    ((inState .suspended).d.ctx 0).heldSpill = [] ∧ ((inState .ending).d.ctx 0).state = .ending ∧
    ((inState .ending).d.shares.all fun p => (p.2.copyA.toList ++ p.2.copyB.toList).isEmpty) = true := by decide +kernel

/-- Context 0 holds a slot of core 0 at priority 0; context 1, at priority 2, has a saved share there. `n` granules of core
memory are context 0's. -/
def contended (n prio : Nat) : State :=
  let c1 := { context0 with supv := false, prio := prio, frameg := 4 }
  let x := { share0 with saved := true, slot := none }
  { quiet with d := { quiet.d with
    ctxs := [(0, { context0 with frameg := n }), (1, c1)]
    shares := [(0, { share0 with heldQuantum := true }), (256, x)] } }

/-- A waiter with a free slot, and with none: of higher priority than the holder, and of the same. -/
theorem witness_Contexts_choice :
    (∀ n, n ∈ [4, 31] → ∀ p, p ∈ [0, 2] →
      let s := contended n p
      s.chosenWaiter 0 = some 1 ∧ (s.d.share 1 0).holds = false ∧ (s.d.freeSlot 1 0).isSome = decide (n = 4) ∧
      s.victim 1 0 = some 0 ∧ (s.d.share 0 0).request = false ∧ (s.d.share 0 0).heldQuantum = true) ∧
    (contended 31 0).d.effPrio 1 0 = 0 ∧ 0 < (contended 31 2).d.effPrio 1 0 := by decide +kernel

/-- A share asked to halt, one halted, and one saved whose part of the save area is as the cut left it or not. -/
def shared (x : Share) : State :=
  { quiet with d := { quiet.d with shares := [(0, x)], ctxs := [(0, { context0 with frameg := 4 })] } }

theorem witness_Contexts_halt :
    let s := shared { share0 with request := true }
    let t := shared { share0 with halted := true }
    (s.d.share 0 0).request = true ∧ (s.d.share 0 0).halted = false ∧ (s.d.share 0 0).saved = false ∧
    (s.d.share 0 0).mx.issued = [] ∧ s.d.loops = [] ∧ (s.d.share 0 0).copyA = none ∧ (s.d.share 0 0).copyB = none ∧
    (s.d.ctx 0).state = .active ∧ (t.d.share 0 0).halted = true ∧ (t.d.share 0 0).saved = false ∧ t.d.ops = [] ∧
    (t.d.ctx 0).swapout = false := by decide +kernel

theorem witness_Contexts_restore :
    ∀ im, im ∈ [[], [(0x900000, 1#8)]] →
      let s := shared { share0 with saved := true, slot := none, halted := true, image := im }
      (s.d.share 0 0).saved = true ∧ (s.d.ctx 0).state = .active ∧ (s.d.ctx 0).swapout = false ∧ (s.d.core 0).offline = false ∧
      s.d.keptFor 0 0 = false ∧ s.chosenWaiter 0 = some 0 ∧ s.imageCells 0 0 = [] ∧ s.imageMarks 0 0 = [] ∧
      s.d.freeSlot 0 0 = some 0 ∧ (s.d.ctx 0).spill = [] ∧ (s.d.share 0 0).park = [] ∧ (s.d.share 0 0).mx.issued = [] ∧
      s.d.loops = [] ∧ (s.d.share 0 0).copyA = none := by decide +kernel

theorem witness_Contexts_watchdog :
    let s := shared { share0 with watch := 0x100000 }
    let t : State := { s with d := { s.d with wdoglim := 1 } }
    (t.d.share 0 0).holds = true ∧ t.d.wdoglim * 2 ^ 20 ≤ (t.d.share 0 0).watch ∧ t.d.wdoglim ≠ 0 ∧ (t.d.ctx 0).state = .active := by
  decide +kernel

/-! ### Witnesses: the host's port, Deimos and what happens to the module -/

/-- A warp parked at a load of 16 bytes above the mapped gibibyte, whose page has come since. -/
def missed : State :=
  let s := after (.ldx (memW 4 (.v 4) (.imm 0) (.v 2) 0)) (state0 [(64, 0x40000000), (65, 0x40000010)] [] [])
  { s with mem := s.mem.raw 0x12008 (bytesLE 8 0x4000000F) }

/-- Its entry of the park table, and the identifier of that entry. -/
theorem witness_HostPort_resume :
    let s := missed
    let id := resid 1 0 0 0 1
    ((s.parkNamed id).map Park.uid) = some 1 ∧ ridKind id = 1 ∧ (s.d.share 0 0).saved = false ∧ (s.d.share 0 0).halted = false ∧
    s.d.loopParked 1 0 = false ∧ (s.warp 1).map Warp.live = some true ∧ s.d.hostDown = false ∧
    s.d.opParked 1 0 = none ∧
    (match s.d.ops.find? fun y => y.uid = 1 && y.parked.isNone && y.pieces.any fun q => !q.ok with
      | some o => o.word == .ldx (memW 4 (.v 4) (.imm 0) (.v 2) 0) && o.ovf.isNone && o.pieces.all fun q => q.ok || (decide (0 < q.size) && decide (q.va < 2 ^ 64) &&
          ((s.hit 0 0 (.virt 0) q.va).map fun h => h.r) == some true)
      | none => false) = true := by decide +kernel

/-- Entries of the other kinds, and one whose share is saved. -/
theorem witness_HostPort_resume_others :
    (∀ k, k ∈ [2, 3, 4, 5] → ((parkedAt k).parkNamed (resid k 0 0 0 7)).isSome = true ∧ ridKind (resid k 0 0 0 7) = k ∧
      ((parkedAt k).d.share 0 0).saved = false ∧ ((parkedAt k).d.share 0 0).halted = false ∧
      ((parkedAt k).warp 2).isSome = true ∧ ridIdx (resid k 0 0 0 7) = 0) ∧
    quiet.parkNamed (resid 2 0 0 0 7) = none ∧
    (let x := { (parkedAt 2).d.share 0 0 with saved := true }
     let s : State := { parkedAt 2 with d := { (parkedAt 2).d with shares := [(0, x)] } }
     (s.parkNamed (resid 2 0 0 0 7)).isSome = true ∧ (s.d.share 0 0).saved = true) := by decide +kernel

/-- A record that waited and has room now. -/
theorem witness_HostPort_room :
    let k : WaitRec := { body := FaultRec.engine 0x32 5 0 0, uid := none, seq := 0, holds := false, unit := false, after := [] }
    let s : State := { quiet with d := { quiet.d with ctxs := [(0, { context0 with waiting := [k] })] } }
    (s.d.ctx 0).waiting = [k] ∧ s.writerHere k = true ∧ s.turnCome k = true ∧ k.body.ctx = 0 ∧ (s.writeRec k.body).2 = .written := by decide +kernel

theorem witness_HostPort_invalidation :
    quiet.d.hostDown = false ∧ quiet.d.inv.busy = false ∧ quiet.d.invCtx < 64 ∧ quiet.d.ops = [] := by decide +kernel

theorem witness_HostPort_busy :
    let s : State := { quiet with d := { quiet.d with inv := { quiet.d.inv with busy := true } } }
    s.d.inv.busy = true ∧ s.d.inv.ctx < 64 ∧ s.d.ops = [] := by decide +kernel

/-- Host accesses to device memory and to the host's own; a write held. -/
def hosted (held : List HeldWrite) : State := { quiet with d := { quiet.d with bootState := 3, held := held } }

theorem witness_HostPort_memory :
    let s := hosted [HeldWrite.mk 0 (.write 0x40000 [1, 2] false false)]
    (∀ a, a ∈ [HostAcc.read 0x40000 8 false, .write 0x40000 [1, 2] true false, .write 0x8000000000000 [1] false true,
        .atomicAdd 0x40000 4 1, .atomicXchg 0x40000 8 1, .atomicCas 0x40000 4 0 1] →
      s.d.hostServed a = true ∧ ((granulesOf (hostRange a).1 (hostRange a).2).all fun y => (s.hostNeeds y).isEmpty) = true) ∧
    s.mem.hbm = [] ∧ isDevice 0x40000 = true ∧ s.d.held.length = 1 ∧
    (match s.hostReady (granulesOf 0x40000 2) with
      | .inl _ => true
      | .inr _ => false) = true := by decide +kernel

/-- A write of the host to a page of which a child's ancestor has no copy yet, where the pool is empty. -/
def copyless : State :=
  let s := joining [] [] 0x40000
  { s with
    d := { s.d with bootState := 3, ctxs := [(0, { s.d.ctx 0 with pool := [] })] }
    mem := { PMem.reset with cells := [(0x10001, 0x10), (0x10000, 1), (0x10002, 1), (0x11000, 1), (0x11001, 0x20), (0x11002, 1), (0x12000, 0xF)] } }

theorem witness_HostPort_held :
    copyless.d.hostServed (.write 0x40000 [1] false false) = true ∧
    (match copyless.hostReady (granulesOf 0x40000 1) with
      | .inl _ => false
      | .inr c => c == 0) = true := by decide +kernel

theorem witness_HostPort_registers :
    quiet.d.hostDown = false ∧ (let c : Ctx := { context0 with heatbuf := 0x40000, heatn := 1 }
     let s : State := { quiet with d := { quiet.d with ctxs := [(0, c)], tlb := [(0, [(4, { pa := 0x40000, shift := 16, attrs := 7 })])] } }
     ((s.d.tlb.getD 0 []).find 4).isSome = true ∧ (s.engineAddr 0 0x40000 true).isSome = true ∧ (s.d.ctx 0).heatbuf ≠ 0 ∧
     (s.d.ctx 0).heatn ≠ 0 ∧ ((quiet.d.tlb.getD 0 []).find 4).isNone = true ∧ (quiet.d.ctx 0).heatbuf = 0) := by decide +kernel

theorem witness_HostPort_caches :
    let s : State := { quiet with
      d := { quiet.d with cores := [(0, { Core.reset with l1 := [(7, List.replicate 64 1)] })] }
      mem := { quiet.mem with hbm := [(5, { dirty := true, bytes := List.replicate 32 0 })] } }
    ((s.d.core 0).l1.find 7).isSome = true ∧ (s.mem.hbm.find 5).map HbmSector.dirty = some true ∧ s.mem.hbm.find 6 = none := by
  decide +kernel

/-- A command in Deimos's hands, with contexts in a state, and the boot state. -/
def commanded (cmd a b : Nat) (st : CState) (boot : Nat) : State :=
  let s := inState st
  { s with d := { s.d with bootState := boot, mbox := { cmd := cmd, busy := true, pending := true, result := 0, arg0 := a, arg1 := b, status := 0, vec := 0x80000007 } } }

/-- Buffers within host memory and behind it; every context FREE or not; a mode and none; a code of no command. -/
theorem witness_MailboxCommands :
    let free := commanded 0x06 16 0 .free 3
    let taken := commanded 0x07 17 0 .active 3
    free.d.mbox.pending = true ∧ (free.d.ctxs.all fun p => decide (p.2.state = .free)) = true ∧
    (taken.d.ctxs.all fun p => decide (p.2.state = .free)) = false ∧ taken.d.mbox.cmd = 0x07 ∧ free.d.mbox.arg0 ≤ 16 ∧
    16 < taken.d.mbox.arg0 ∧ (commanded 0x05 0x20040 0 .free 3).d.mbox.arg0 / 65536 % 256 ≠ 0 ∧
    (commanded 0x09 168 0 .free 3).d.mbox.arg0 ≤ 168 ∧ (commanded 0x0A 1 0 .free 3).d.needsReset = false ∧
    (commanded 0x0A 1 0 .free 3).d.bootState = 3 ∧ mbCodes.contains 0x12 = false ∧ (commanded 0x12 0 0 .free 3).d.mbox.busy = true := by
  decide +kernel

/-- SETMODE to normal where only a reset of the device leads back; route tables: one entry that is sound, one that is not. -/
theorem witness_MailboxCommands_refused :
    let s : State := { commanded 0x0A 1 0 .free 5 with d := { (commanded 0x0A 1 0 .free 5).d with needsReset := true } }
    s.d.bootState = 5 ∧ s.d.needsReset = true ∧ s.d.mbox.arg0 = 1 ∧
    (let t := commanded 0x08 0x1000 1 .free 3
     let u : State := { t with mem := t.mem.raw 0x8000000001000 [0, 0x10] }
     t.d.mbox.arg0 + 8 * t.d.mbox.arg1 ≤ 0x8000000000000 ∧ t.mem.nat 0x8000000001000 8 = 0 ∧
     u.mem.nat 0x8000000001000 8 / 4096 % 4096 ≠ 0) := by decide +kernel

/-- An image whose version lies below the fuse, in a buffer and in a slot; what an image holds is the model's free choice. -/
theorem witness_MailboxCommands_firmware :
    ∃ s : State, s.d.mbox.pending = true ∧ s.d.mbox.cmd = 0x11 ∧ s.d.mbox.arg0 ≤ 1 ∧
      Config.imageVersion (s.d.deimos.slots.getD s.d.mbox.arg0 []) < s.d.deimos.fuse := by
  let s := commanded 0x11 0 0 .free 3
  exact ⟨{ s with d := { s.d with deimos := { s.d.deimos with fuse := Config.imageVersion [] + 1 } } }, rfl, rfl, by decide, Nat.lt_succ_self _⟩

def sample (hot power : Nat) : Sample :=
  { dieTemp := hot :: List.replicate 7 50, dieVolt := List.replicate 8 800, dieAmp := List.replicate 8 50, ioTemp := [50, 50]
    stackTemp := List.replicate 16 50, power := power }

/-- Ten samples above the upper limit, between both, below the lower one for the hundredth time; a die too hot. -/
theorem witness_Management_samples :
    let s := fun (p low : Nat) => ({ quiet with d := { quiet.d with deimos := { quiet.d.deimos with
      powers := List.replicate 9 p, lowSince := low } } } : State)
    9 ≤ (s 2800 0).d.deimos.powers.length ∧ 27000 < (sample 50 2800).power + ((s 2800 0).d.deimos.powers.take 9).sum ∧
    (sample 50 2600).power + ((s 2600 0).d.deimos.powers.take 9).sum = 26000 ∧
    (sample 50 2000).power + ((s 2000 99).d.deimos.powers.take 9).sum < 25000 ∧ (s 2000 99).d.deimos.lowSince + 1 = 100 ∧
    105 < (sample 106 2000).dieTemp.getD 0 0 ∧
    (∀ k, k < 8 → quiet.d.deimos.thermal.getD k false = false ∧ (sample 50 0).dieTemp.getD k 0 ≤ 105 ∧
      (sample 50 0).stackTemp.getD (2 * k) 0 ≤ 95 ∧ (sample 50 0).stackTemp.getD (2 * k + 1) 0 ≤ 95) := by decide +kernel

theorem witness_Management_scrub :
    ∀ l, l ∈ [0x1000, 0x1001] → isDevice (l * 64) = true ∧ homeStack quiet.d.iw (l * 64) = homeStack quiet.d.iw (0x1000 * 64) := by
  decide +kernel

/-- A boot that finds too few cores, one with a bad stack, one without firmware, one from slot 0. -/
theorem witness_Management_boot :
    let r := fun (cores bad : List Nat) => BootResult.mk cores bad 16 6 []
    let good := fun (x : BootResult) (k : Nat) => ((List.range 34).filter fun p => !x.badCores.contains (34 * k + p)).length
    let short := fun (x : BootResult) => (List.range 8).filter fun k => good x k < 32
    short (r [0, 1, 2] []) = [0] ∧ short (r [34, 67] [3]) = [] ∧ (r [] [3]).badStacks ≠ [] ∧ short (r [] []) = [] := by decide +kernel

theorem witness_Management_failures :
    (quiet.d.core 0).offline = false ∧ (quiet.d.share 0 0).holds = true ∧ (quiet.d.ctx 0).state = .active ∧
    (let s : State := { quiet with d := { quiet.d with links := [(3, ⟨true, true, false, 9⟩)] } }
     s.d.linkUp 3 = true) := by decide +kernel

/-! ### Witnesses: taking a fault, the step -/

/-- A ring with room, a full one, and one that does not translate. -/
theorem witness_TakingFaults :
    let c := quiet.d.ctx 0
    let hp := 0x20000
    quiet.engineAddr 0 c.fring true = some hp ∧ c.state = .active ∧ c.waiting = [] ∧ quiet.w.pend = [] ∧ quiet.d.ops = [] ∧
    quiet.d.loops = [] ∧ quiet.markers quiet.w.uid quiet.d.nextId = [] ∧ (quiet.mem.nat hp 4 + 2 ^ 32 - quiet.mem.nat (hp + 4) 4) % 2 ^ 32 = 0 ∧
    (quiet.engineAddr 0 (c.fring + 64) true).isSome = true ∧
    (quiet.w.raiseRec { code := 1, lanes := 3 }).droppable = false ∧ (FaultRec.engine 0x10 2 0 0).droppable = true ∧
    (let full : State := { quiet with mem := quiet.mem.raw 0x20000 (bytesLE 4 64) }
     2 ^ c.flog ≤ (full.mem.nat hp 4 + 2 ^ 32 - full.mem.nat (hp + 4) 4) % 2 ^ 32) ∧
    (let lost : State := { quiet with d := { quiet.d with ctxs := [(0, { context0 with fring := 0x40000000 })] } }
     lost.engineAddr 0 (lost.d.ctx 0).fring true = none) := by decide +kernel

/-- A word whose check fails: a matrix word in a vector warp. -/
theorem witness_TakingFaults_word :
    let i := Instr.mswap (sysW 0 0 (.v 0) (.v 0) (.v 0))
    i.isWord = true ∧ (quiet.wordFault i).isSome = true := by decide +kernel

/-- A notification to the supervisor, context 1. -/
theorem witness_TakingFaults_notify :
    let s : State := { quiet with
      d := { quiet.d with ctxs := [(0, { context0 with supv := false }), (1, context0)] }
      mem := quiet.mem.raw 0x2000C [1] }
    s.d.supervisor = some 1 ∧ s.mem.nat 0x2000C 4 = 1 ∧ s.mem.nat 0x20017 1 = 0 := by decide +kernel

/-- The warp of the witnesses with a block of one fetch line, and a word there. -/
def issuing (pc : Nat) (bs : List Byte) : State :=
  { quiet with
    w := { quiet.w with pc := pc, hdr := { header with clen := 1 } }
    mem := quiet.mem.raw 0x30120 bs, turns := [{ dt := 3, extra := [(0, 2)], act := .issue 1 }] }

theorem witness_IssuedWords :
    let s := issuing 0 (bytesLE 8 0x000000000003800C)
    let u : State := ({ s with turns := [] } : State).passClocks 3 [(0, 2)]
    (u.warp 1).isSome = true ∧ u.mayIssue u.w = true ∧
    ((u.focus 1).translate 0 0 (u.w.base + 32)).map (fun x => (x.pa, x.canRead)) = some (0x30120, true) ∧ s.mem.marked 0x30120 32 = false ∧
    lenOfWord (s.mem.nat 0x30120 4) = 8 ∧
    (match decodeBytes (s.mem.bytes 0x30120 8) with
      | .ok x => x == (.nop { len := 0, g := always }, 8)
      | .error _ => false) = true := by decide +kernel

theorem witness_IssuedWords_faults :
    (issuing 32 []).w.hdr.clen * 32 ≤ (issuing 32 []).w.pc ∧
    (32 < 28 + lenOfWord ((issuing 28 (List.replicate 28 0 ++ bytesLE 4 0x0003800C)).mem.nat 0x3013C 4)) ∧
    (match decodeBytes (bytesLE 8 0xFC) with
      | .ok _ => false
      | .error _ => true) = true ∧
    ((quiet.focus 1).translate 0 0 0x40000000).isNone = true := by decide +kernel

/-- The invariant holds at reset; a well-formed instruction that a word encodes. -/
theorem witness_StepKeepsMemory : State.reset.Inv ∧ quiet.Inv := by decide +kernel

theorem witness_DecodeEncode :
    let i := Instr.nop { len := 0, g := always }
    i.isWord = true ∧ i.legal = true ∧
    (match decodeBytes (encode i) with
      | .ok x => x == (i, 8)
      | .error _ => false) = true := by decide +kernel

/-! ### Witnesses: further premises -/

/-- Lane 0's element lies in the mapped gibibyte, lane 1's above it. -/
def mixed : State := state0 [(64, 0x40000), (96, 0), (65, 0x40000000), (97, 0)] [(2, 0x40000), (3, 0)] []

theorem witness_TranslationFault_mixed :
    let s := mixed
    let x := memW 4 (.v 4) (.imm 0) (.v 2) 0
    let y := memW 4 (.v 4) (.s 2) (.v 2) 0
    (∀ i, i ∈ [Instr.ldx x, .stx x, .ld y, .st y] → s.wordFault i = none) ∧ s.w.ldc ≠ 255 ∧ s.w.stc ≠ 255 ∧
    (badLanes (s.w.active x.g) fun l => (s.hit 0 0 (.virt 0) (s.ldxOff x l)).isNone) = 2 ∧ s.ldxOff x 1 < 2 ^ 57 ∧
    ((s.rebind y.a).hit 0 0 (.virt 0x40000) (s.ldOff y 1)).isNone = true ∧ s.Reaches (.virt 0) 0 (s.ldxOff x 0) 4 ∧
    s.Reaches (.virt 0) 1 (s.ldxOff x 0) 4 ∧ s.sinkNote 0 (fun _ => 0) = s ∧
    ∀ l, l < 2 → ∀ k, k < 4 → (s.d.ctx 0).needsPage 0 (s.ldxOff x l + k) = false := by
  unfold State.Reaches; decide +kernel

/-- Operand 2 in own scratch and past its end; past the address space; and the unused base of operand 1 misaligned. -/
theorem witness_LoopWords_checks :
    let o := fun (base2 base1 : Word) (control : Word) =>
      let s := state0 [] [(8, 0x40000), (10, base1), (12, base2), (13, if base2 = 4 then 0x2000000 else 0), (14, control)] []
      (s.loopOf (loopW 31 1) none, (s.d.ctx s.w.ctx).scratchBytes)
    let a := o 65500 0x41000 0x20100
    let b := o 4 0x41000 0x100
    let c := o 0x42000 0x41002 0x100
    (a.1.used = [0, 2] ∧ a.1.inScratch 2 = true ∧ a.1.outside a.2 2 = true ∧ loopCtlBad a.1.control none (five 1) = false ∧
      a.1.inScratch 0 = false) ∧
    (b.1.inScratch 2 = false ∧ b.1.outside b.2 2 = true ∧ b.1.outside b.2 0 = false ∧ (b.1.bases.all fun x => x % b.1.esize = 0) = true) ∧
    c.1.used = [0, 2] ∧ (c.1.bases.getD 1 0) % c.1.esize ≠ 0 := by decide +kernel

/-- From QMO to QMA, with an entry and room, with none, and with none to spare. -/
theorem witness_QueueWords_both :
    let x := alu2 .u32 0 (.q .qma) (.q .qmo) (.spec (.v 0))
    let one := queued quiet [(Queue.idx .qmo, [entry 100 (List.replicate 32 7)])]
    let busy := queued quiet [(Queue.idx .qmo, [entry 100 []]), (Queue.idx .qma, (List.range (Queue.depth .qma)).map fun k => entry (200 + k) [])]
    (∀ s, s ∈ [quiet, one, busy] → s.wordFault (.mov x) = none) ∧ (quiet.d.share 0 0).queue .qmo = [] ∧
    (one.d.share 0 0).queue .qmo ≠ [] ∧ (one.d.share 0 0).queue .qma = [] ∧
    Queue.depth .qma ≤ ((busy.d.share 0 0).queue .qma).length := by decide +kernel

/-- A prefetch into the L1 and one past it. -/
theorem witness_OrderingWords_pref :
    let s := busyRegs
    let y := fun cp => { memW 4 (.imm 0) (.s 2) (.v 6) 0 with cp := cp }
    (∀ cp, cp ∈ [0, 1] → s.wordFault (.pref (y cp)) = none) ∧ (s.w.active always).getLsbD 0 = true ∧
    ((s.rebind (.s 2)).w.gbase (.s 2)).va + s.ldOff (y 1) 0 < 2 ^ 57 ∧
    (s.hit 0 0 (.virt 0x40000) 0).map (fun h => (h.r, h.nol1)) = some (true, false) ∧ s.mem.marked 0x40000 1 = false ∧
    (s.d.core 0).l1.length < 4096 := by decide +kernel

/-- An own frame freed behind a release fence, and one that a token has met in this clock; an armed frame that is live. -/
theorem witness_FrameWords_held :
    let s := { sender with w := { sender.w with v := [(64, handleOf 0 16), (65, handleOf 0 0)], filled := 3 } }
    let x := sysW 0 0 (.v 0) (.v 2) (.v 0)
    let store := after (.stx (memW 4 (.v 4) (.imm 0) (.v 8) 0)) { s with w := { s.w with v := (256, 0x40000) :: (257, 0x40100) :: s.w.v } }
    let fenced := after (.fence (sysW 1 5 (.v 0) (.v 0) (.v 0))) store
    let met : State := { s with d := { s.d with cores := [(0, { Core.reset with now := [.token 0 0 1, .token 0 16 1] })] } }
    let arm := SysI.mk always ctl0 0 15 (.v 0) (.v 2) (.spec (.imm 2))
    fenced.wordFault (.ffree x) = none ∧ (fenced.w.relAfter.filter fun d => !fenced.depDone d) ≠ [] ∧
    met.wordFault (.ffree x) = none ∧ (met.d.core 0).tokenNow 0 16 = true ∧ (met.d.core 0).tokenNow 0 0 = true ∧
    s.wordFault (.arm arm) = none ∧ ((s.d.share 0 0).frames.map fun p => p.2.state) = [.live, .live] ∧
    ∀ l, l < 2 → s.goodHandle (s.w.read32 (.v 2) l) = true ∧ handleCore (s.w.read32 (.v 2) l) = 0 := by decide +kernel

/-- A terminator may act, and not while an uncounted write is outstanding; `TRAP` and `ECALL` likewise. -/
theorem witness_Terminators_act :
    let x := EndW.mk used unused unused unused
    let s := sender
    let o := { s.opOf (.nop { len := 0, g := always }) .st with id := 9, counted := false }
    let t : State := { s with d := { s.d with ops := [o] } }
    s.mayAct s.w (.endK x) = true ∧ s.mayAct s.w (.endR x) = true ∧ t.mayAct t.w (.endK x) = false ∧
    t.wordFault (.endK x) = none ∧ t.w.drained = true ∧ (t.d.ops.map MemOp.uid) = [t.w.uid] ∧ s.d.ops = [] ∧
    t.wordFault (.trap (sysW 0 0x2A (.v 0) (.v 0) (.v 0))) = none := by decide +kernel

/-- A core that formed in this clock, and one on which a restored warp waits for its place. -/
theorem witness_SpawnsAndWarps_clock :
    let s := binned false 0
    let t : State := { s with d := { s.d with cores := [(0, { s.d.core 0 with now := [.formed false] })] } }
    let u : State := { s with w := { s.w with part := noPart } }
    (s.d.core 0).now.contains (.formed false) = false ∧ s.placeWarp 0 false = none ∧
    (t.d.core 0).now.contains (.formed false) = true ∧ (u.placeWarp 0 false).isSome = true := by decide +kernel

/-- An engine that is free while its former owner, restored, is due. -/
theorem witness_MatrixDrains_due :
    let s : State := { quiet with d := { quiet.d with shares := [(0, { share0 with mx := { Matrix.initial with due := true } })] } }
    s.engineDue 0 = some 0 := by decide +kernel

/-- The engine in another context's hands, and free, with no event and with one. -/
theorem witness_CommandWords_engine :
    let evp := sysW 0 0 (.s 8) (.v 0) (.v 0)
    (∀ i, i ∈ [Instr.evpop evp, .evwait evp] → taken.wordFault i = none ∧ state0q.wordFault i = none) ∧
    taken.matrixStalls 0 0 false = true ∧ state0q.matrixStalls 0 0 false = false := by decide +kernel

/-- A warp that waits for an event, which has come. -/
theorem witness_ReleaseEvents_event :
    let i := Instr.evwait (sysW 0 0 (.s 8) (.v 0) (.v 0))
    let s := waits (queued state0q [(Queue.idx .qce, [entry 101 [1, 2]])]) (.blocked i)
    s.warp 1 = some s.w ∧ s.w.live = true ∧ s.warpOn s.w = true ∧ (s.focus 1).wordFault i = none ∧
    (s.d.share 0 0).queue .qce = [entry 101 [1, 2]] ∧
    (∀ j, j ∈ [Instr.endK (EndW.mk used unused unused unused), .trap (sysW 0 0x2A (.v 0) (.v 0) (.v 0))] →
      (waits sender (.draining j)).mayAct (waits sender (.draining j)).w j = true) := by decide +kernel

/-- A merge parked at a page under generation 5, and the identifier that names it. -/
def merging : State :=
  let s := joining [(0x80000, 0x60000)] [(0x80000, 1)] 0x80000000
  let k := s.d.ctx 0
  { s with
    w := { s.w with s := [(4, resid 0 0 0 3 5)] }
    d := { s.d with ctxs := [(0, { k with revs := k.revs.map fun p => (p.1, { p.2 with stuck := some 0x80000000 }) })] } }

theorem witness_ResumeWords_merge :
    let id := merging.w.read32 (.s 4) 0
    ridKind id = 0 ∧ ridIdx id = 3 ∧ ridGen id = 5 ∧ (merging.resumeMerge id).isSome = true ∧ (merging.d.ctx 0).supv = true ∧
    merging.depsDone (merging.writesOf 1) = true ∧ merging.w.active always ≠ 0 ∧ merging.w.live = true ∧
    (((merging.d.ctx 0).revs.find 3).bind Revision.stuck) = some 0x80000000 ∧ (merging.d.ctx 0).mayJoin 3 = true ∧
    (quiet.resumeMerge (resid 0 0 0 3 5)).isNone = true := by decide +kernel

/-- The eviction of `evicting` after one move more: `n` moves from the head of the die. -/
def evicted : Nat → State
  | 0 => evicting 0 (evictEntry 1)
  | n + 1 => after (.eviction 0 { idx := 0, pick := 0 }) (evicted n)

/-- An eviction of two tokens to a budget of one begins, translates, and reads two counters and two positions. -/
theorem witness_SelectAndEviction_stages :
    let k := fun n => ((evicted n).d.die 0).encke.map fun j => (j.stage, j.left.length, j.writes.length)
    let s := evicting 0 (evictEntry 1)
    s.cmdTurn (s.d.die 0).encke 0 = true ∧ (s.d.ctx 0).needsPage 256 0x40020 = false ∧ s.d.ops = [] ∧
    (List.range 7).map k = [[(0, 0, 0)], [(1, 0, 0)], [(2, 4, 0)], [(2, 3, 1)], [(2, 2, 1)], [(2, 1, 2)], [(2, 0, 2)]] := by
  decide +kernel

/-- What ends an eviction: every word written, and a position that carries a mark. -/
theorem witness_SelectAndEviction_ends :
    let s := evicted 2
    let k := ((s.d.die 0).encke.headD (EnckeCmd.new 0 0 (evictEntry 1)))
    let at_ := fun (j : EnckeCmd) => ({ s with d := { s.d with dies := [(0, { Die.reset with encke := [j] })] } } : State)
    (∀ n, n ∈ [2, 4] → ∀ b, b ∈ [[], [1]] →
      ((at_ { k with stage := n, left := [], badPos := b }).homeBusy { k with stage := n, left := [], badPos := b } false).isSome = true) ∧
    (k.pages.all fun p => pageOk p.1 && pageOk p.2) = true ∧ s.mem.marked (k.addr (posVa (SeqDesc.of k.desc) k.pages 0)) 4 = false ∧
    (s.d.ctx 0).needsPage 256 (massVa (SeqDesc.of k.desc) k.pages 0) = false := by decide +kernel

/-- Row moves and writes of the fourth stage: a write that meets a row still to be read, and one that meets none; a command
that waited at a BUSY descriptor, and one whose context ends. -/
theorem witness_SelectAndEviction_moves :
    let k := ((evicted 2).d.die 0).encke.headD (EnckeCmd.new 0 0 (evictEntry 1))
    let k3 := { k with stage := 3, left := [(0x60040, 0x60000)], writes := [⟨0x60040, [1], false⟩, ⟨0x61000, [2], false⟩] }
    let met := fun (w : Nat) => k3.left.findIdx? fun x => decide (x.1 < w + 1) && decide (w < x.1 + 64)
    let s := evicting 1 (evictEntry 1)
    let u : State := { s with d := { s.d with ctxs := [(0, { s.d.ctx 0 with state := .ending })] } }
    met 0x60040 = some 0 ∧ met 0x61000 = none ∧ (evicted 2).mem.marked (k3.addr 0x60040) 64 = false ∧
    (s.d.ctx 0).state = .active ∧ s.cmdTurn (s.d.die 0).encke 0 = true ∧
    u.rangeMiss 0 0x40000 64 true = none ∧ (u.engineAddr 0 0x40000 false).isSome = true := by decide +kernel

/-- Completion records that can be written, aligned and across a page. -/
theorem witness_TaskUnit_record :
    (∀ a, a ∈ [0, 0x40000, 0x40FF8] → a % 4096 + 8 ≤ 4096 ∧ ((completing a nullHandle none).writeCrec 0 3 { task0 with crec := a }).isSome = true) ∧
    ((completing 0x40000 (handleOf 1 0) none).d.ctx 0).needsPage 3 0x40000 = false := by decide +kernel

/-- An item held under CONTINUE, with room in the spill ring; a context that ends with a copy in hand and without. -/
theorem witness_Contexts_held :
    let z : Spilled := { seqno := 0, circuit := 4, item := { kind := 0, tok := mkToken 0 0 0 0 1 {} 0 0 32 7, ctr := 0 } }
    let s : State := { quiet with d := { quiet.d with ctxs := [(0, { context0 with state := .suspended, heldSpill := [z] })] } }
    let e : State := { inState .ending with d := { (inState .ending).d with shares := [(0, { share0 with copyA := some (copyCmd (copyEntry 0 0 0 4 1) false) })] } }
    (s.d.ctx 0).heldSpill = [z] ∧ z.item.tok.ctx = 0 ∧ s.d.queuedAt 0 2 = [] ∧ (s.d.ctx 0).spill.length < 2 ^ (s.d.ctx 0).slog ∧
    (s.engineAddr 0 ((s.d.ctx 0).sring + 32 * ((s.d.ctx 0).spillSeq % 2 ^ (s.d.ctx 0).slog)) true).isSome = true ∧
    e.commandsDue 0 = true ∧ (inState .ending).commandsDue 0 = false := by decide +kernel

theorem witness_Contexts_image :
    let s := shared { share0 with halted := true }
    let t := shared share0
    (s.d.ctx 0).heatbuf = 0 ∧ s.d.tlb.getD 0 [] = [] ∧ (t.d.share 0 0).saved = false ∧ (t.d.ctx 0).spill = [] ∧ (t.d.ctx 0).state = .active := by
  decide +kernel

/-- A read of device memory while the boot ROM runs; a page whose heat window has ended, and one whose has not. -/
theorem witness_HostPort_windows :
    let boot : State := { quiet with d := { quiet.d with bootState := 2 } }
    let s := fun (clk : Nat) => ({ quiet with d := { quiet.d with
      ctxs := [(0, { context0 with heatbuf := 0x40000, heatn := 1, heatwin := 1 })]
      cores := [(0, { Core.reset with clk := clk })]
      tlb := [(0, [(4, { pa := 0x40000, shift := 16, attrs := 7, since := 5 })])] } } : State)
    isDevice 0x40000 = true ∧ boot.d.hostDown = false ∧
    ¬ 5 / (((s 65535).d.ctx 0).heatwin * 65536) < ((s 65535).d.core 0).clk / (((s 65535).d.ctx 0).heatwin * 65536) ∧
    5 / (((s 65536).d.ctx 0).heatwin * 65536) < ((s 65536).d.core 0).clk / (((s 65536).d.ctx 0).heatwin * 65536) ∧
    ((s 0).engineAddr 0 0x40000 true).isSome = true := by decide +kernel

/-- A fault behind a load whose record may come first. -/
theorem witness_TakingFaults_markers :
    let s := after (.ldx (memW 4 (.v 4) (.imm 0) (.v 2) 0)) (spread 3)
    s.markers s.w.uid s.d.nextId ≠ [] ∧ (s.d.ctx s.w.ctx).state ≠ .free := by decide +kernel

/-- A block that is held, and one whose line is marked. -/
theorem witness_IssuedWords_block :
    let s := issuing 0 (bytesLE 8 0x000000000003800C)
    let held : State := { s with w := { s.w with block := some (0x30120 / 32, List.replicate 32 0) } }
    let bad : State := { s with mem := { s.mem with marks := [(0x30120 / 64, true)] } }
    (s.focus 1).heldBlock 0x30120 = none ∧ ((held.focus 1).heldBlock 0x30120).isSome = true ∧
    bad.mem.marked (0x30120 / 32 * 32) 32 = true := by decide +kernel

/-! ### Witnesses: the remaining clauses -/

/-- No active lane: the words of a sequence under a guard that holds nowhere. -/
theorem witness_SequenceWords_inactive :
    let none_ : Guard := { pr := 1, pn := false }
    let s := sequenced 0
    s.w.active none_ = 0 ∧ s.wordFault (.kvld { memW 6 (.v 4) (.s 2) (.v 7) 48 with g := none_ }) = none ∧
    s.wordFault (.posld { memW 4 (.v 4) (.s 2) (.v 7) 0 with g := none_ }) = none ∧
    s.wordFault (.massacc { maW 0 (.imm 0) (.s 2) (.v 3) (.v 0) with b := .v 7, g := none_ }) = none ∧ s.w.active always = 3 := by
  decide +kernel

/-- NaNs that are not the canonical one, a negative number, a subnormal, 2 ^ 3 and a number between powers of two. -/
theorem witness_SpecialValues :
    let value := fun (x : FV) => match x with
      | .fin s m e => some (s, m, e)
      | _ => none
    (∀ n, n ∈ [0x7F800001, 0xFFFFFFFF] → n < 2 ^ fmt32.width ∧ fmt32.isNaN n = true ∧ n ≠ fmt32.nanBits) ∧
    value (fmt32.read false 0xC0000000) = some (true, 0x800000, -22) ∧ value (fmt32.read false 0x40400000) = some (false, 0xC00000, -22) ∧
    (exp2Exact (fmt32.read false 0x40400000)).isSome = true ∧ (exp2Exact (fmt32.read false 0x3F000000)).isNone = true ∧
    value (fmt32.read true 0x00000001) = some (false, 0, 0) ∧ fmt32.eb ≠ 11 ∧
    (match SfuOp.sin.value (fmt32.read false 0x3F800000) with
      | .real _ _ => true
      | .special _ => false) = true := by decide +kernel

/-- The first operation of a state with its first piece alone, which does the given. -/
def acting (a : Act) : State :=
  let s := after (.atom (maW 4 (.v 5) (.s 2) (.v 4) (.v 0))) (spread 1)
  s.setOp { firstOp s with pieces := [{ firstPiece s with act := a }] }

/-- Both halves of an atomic and of an addition in two steps. -/
theorem witness_AtomicsPerformed_halves :
    ∀ a, a ∈ [Act.atom 4 1 0 false, .red false [1] false, .atomEnd (some 7), .atomEnd none] →
      let s := acting a
      mayPerform s = true ∧ (firstPiece s).act = a ∧ (firstPiece s).place = .phys 0x40000 ∧ s.mem.marked 0x40000 4 = false ∧
      s.w.live = true ∧ s.w.uid = (firstOp s).uid ∧ (firstOp s).nreg = 1 ∧ (firstOp s).ext = [] := by decide +kernel

/-- The nest of a state. -/
def firstLoop (s : State) : LoopOp := s.d.loops.headD (s.loopOf (loopW 31 1) none)

/-- A nest whose operand 2 is in own scratch. -/
theorem witness_LoopIterations_scratch :
    let t := nested 0x20100 0x40000
    let u : State := { t with w := { t.w with s := [(8, 0x40000), (10, 0x41000), (12, 0x100), (14, 0x20100)] } }
    let s := after (.vloop (loopW 31 1)) u
    let o := firstLoop s
    o.inScratch 2 = true ∧ o.reduce = none ∧ s.iterFault o (o.iter 0 0) = none ∧ (s.loopReads o (o.iter 0 0)).bad = false ∧
    (s.loopReads o (o.iter 0 0)).err.isNone = true ∧ (s.warp o.uid).isSome = true ∧
    (∀ j, j ∈ o.touches → s.loopBehind o 0 (s.operandPlace o j (o.iter 0 0)) = false) := by decide +kernel

/-- Reductions whose lanes have all ended, to memory and to own scratch. -/
def reduced (control dst : Word) : State :=
  let t := nested control 0x40000
  let u : State := { t with w := { t.w with s := [(8, 0x40000), (10, 0x41000), (12, dst), (14, control)] } }
  let s := after (.vlooprAdd (loopW 31 0)) u
  { s with d := { s.d with loops := s.d.loops.map fun o => { o with lanes := o.lanes.map fun y => { y with next := 32 } } } }

theorem witness_LoopIterations_result :
    ∀ p, p ∈ [(0x100, 0x42000, false), (0x20100, 0x100, true)] →
      let s := reduced (BitVec.ofNat 32 p.1) (BitVec.ofNat 32 p.2.1)
      let o := firstLoop s
      o.share 0 ≤ 32 ∧ o.ended = true ∧ o.parked = none ∧ s.loopFault o 2 0 1 = none ∧ o.reduce = some 0 ∧ o.leave = 2 ∧
      s.mayRun o.ctx o.core = true ∧ o.inScratch 2 = p.2.2 ∧ s.loopBehind o (lowLane o.filled) (s.operandPlace o 2 0) = false ∧
      (p.2.2 = false → (s.hit o.core o.ctx (.virt (o.addr 2 0)) 0).isSome = true ∧ (s.d.ctx o.ctx).needsPage o.task (o.addr 2 0) = false) := by
  decide +kernel

/-- A core whose choice would have fired before a token of this clock. -/
theorem witness_SpawnsAndWarps_later :
    let s := binned false 0
    let t : State := { s with d := { s.d with cores := [(0, { s.d.core 0 with now := [.parked] })] } }
    ((s.choose 0 false).map fun x => s.formsLater 0 x) = some false ∧ ((t.choose 0 false).map fun x => t.formsLater 0 x) = some true := by
  decide +kernel

/-- A copy that outlives its context. -/
theorem witness_CopyUnit_orphan :
    let k := { copyCmd (copyEntry 0x300 0x40000 0x50000 100 1) true with orphan := true }
    let s : State := { quiet with d := { quiet.d with
      ctxs := [(0, { context0 with state := .free })], shares := [(0, { share0 with copyA := some k })] } }
    (s.d.share 0 0).copy 0 = some k ∧ k.finished = true ∧ s.copyRuns 0 0 = true ∧ k.orphan = true := by decide +kernel

/-- A ring that waits for CONTINUE. -/
theorem witness_TakingFaults_down :
    let s : State := { quiet with d := { quiet.d with ctxs := [(0, { context0 with state := .suspended, ringDown := true })] } }
    (s.d.ctx 0).state ≠ .free ∧ (s.d.ctx 0).ringDown = true ∧ (quiet.d.ctx 0).ringDown = false := by decide +kernel

/-- A notification to a core that is offline. -/
theorem witness_TakingFaults_offline :
    let s : State := { quiet with
      d := { quiet.d with
        ctxs := [(0, { context0 with supv := false }), (1, context0)], cores := [(9, { Core.reset with offline := true })] }
      mem := (quiet.mem.raw 0x2000C [1]).raw 0x20010 (bytesLE 4 (handleOf 9 0).toNat) }
    handleCore (BitVec.ofNat 32 (s.mem.nat 0x20010 4)) = 9 ∧ (s.d.core 9).offline = true ∧ s.d.supervisor = some 1 := by decide +kernel

/-- A second warp on the partition of the first: the one that issued last goes on, or else the one that formed first. -/
theorem witness_IssuedWords_order :
    let s : State := { quiet with d := { quiet.d with warps := [{ quiet.w with uid := 5 }] } }
    let run := fun (uid : Nat) => ({ s with d := { s.d with cores := [(0, { Core.reset with runs := [(s.w.unit, { last := uid, stalled := [] })] })] } } : State)
    (s.issuers 0 s.w.unit).map Warp.uid = [1, 5] ∧ (s.allWarps.filter s.mayIssue).map Warp.uid = [1] ∧
    ((run 5).allWarps.filter (run 5).mayIssue).map Warp.uid = [5] ∧
    Instr.yields (.nop { len := 0, g := always }) = false ∧
    Instr.yields (.iadd { alu2 .u32 0 (.v 6) (.v 4) (.spec (.v 5)) with ctl := { ctl0 with yld := true } }) = true := by decide +kernel

/-- The warp's next word reads V4 of lane 0, and no V5. -/
theorem witness_IssuedWords_upset :
    let i := Instr.iadd (alu2 .u32 0 (.v 6) (.v 4) (.spec (.imm 1)))
    let s := issuing 0 (encode i)
    s.wordMeets (.reg 1 4 0 false) = true ∧ s.wordMeets (.reg 1 5 0 false) = false ∧ s.wordMeets (.reg 1 4 9 false) = false := by
  decide +kernel

/-- A core that has failed before, whose die has its first spare. -/
theorem witness_Management_spare :
    let m := { quiet.d.deimos with failed := [3] }
    (3 ∈ m.failed) ∧ (∀ x, x ∈ m.spares → x.1 / 32 ≠ 0) ∧ 32 ∉ m.failed := by decide +kernel

/-- SETPWR while a die is cut for its heat. -/
theorem witness_MailboxCommands_cut :
    let s := commanded 0x05 0x20040 0 .free 3
    let t : State := { s with d := { s.d with deimos := { s.d.deimos with thermal := [(0, true)] } } }
    t.d.mbox.cmd = 0x05 ∧ t.d.deimos.thermal.getD 0 false = true ∧ t.d.deimos.thermal.getD 1 false = false := by decide +kernel

/-- A warp parked at a loop nest, under entry 0. -/
theorem witness_HostPort_resume_loop :
    let s := parkedAt 1
    let o := { firstLoop (after (.vloop (loopW 31 1)) (nested 0x100 0x40000)) with uid := 2, parked := some 0 }
    let t : State := { s with d := { s.d with loops := [o] } }
    (t.parkNamed (resid 1 0 0 0 7)).map Park.uid = some 2 ∧ t.d.loopParked 2 0 = true ∧ missed.d.opParked 1 0 = none := by decide +kernel

/-- Two leaves that map an address, the first with HDIRECT. -/
theorem witness_HostPort_direct :
    let cells := [(0x10001, 0x10), (0x10000, 1), (0x10002, 1), (0x11000, 1), (0x11001, 0x20), (0x11002, 1), (0x12000, 0x4F), (0x12008, 0xF)]
    let s : State := { quiet with mem := { PMem.reset with cells := cells } }
    s.hdirectMaps 0x40000 = [true, false] := by decide +kernel

/-- An invalidation that waits for an access under an old translation, and for a command of Encke. -/
theorem witness_HostPort_waits :
    let s := spread 1
    let t := after (.ldx (memW 4 (.v 4) (.imm 0) (.v 2) 0)) s
    let o := firstOp t
    let v : Inv := { t.d.inv with busy := true, ctx := 0, va := 0, len := 0xFFFFFFFF, waitOps := [o.id] }
    let e : State := { evicting 0 (evictEntry 1) with d := { (evicting 0 (evictEntry 1)).d with inv := { v with waitOps := [], waitCmds := [90] } } }
    v.holds o = true ∧ o ∈ t.d.ops ∧ o.id ∈ v.waitOps ∧ ((e.d.die 0).encke.map fun k => k.entry.id) = e.d.inv.waitCmds := by decide +kernel

/-- An IDLE context with frames. -/
theorem witness_Contexts_idle :
    (inState .idle).d.hostDown = false ∧ ((inState .idle).d.ctx 0).state = .idle ∧ ((inState .idle).d.share 0 0).frames ≠ [] := by
  decide +kernel

/-- A saved share of nine instances, where another context's hold all but eight of the core's pool. -/
theorem witness_Contexts_pool :
    let r : Ready := { desc := { tag := 32, blk := 0, ofs := 0, last := false }, task := 0, since := 0, seqno := 1 }
    let x := { share0 with saved := true, slot := none, halted := true, vbins := [(0, List.replicate 9 r)] }
    let y := { share0 with vbins := (List.range 16).map fun k => (k, List.replicate (if k = 0 then 504 else 512) r) }
    let s : State := { quiet with d := { quiet.d with ctxs := [(0, context0), (1, { context0 with supv := false })], shares := [(0, x), (256, y)] } }
    s.d.poolUsed 0 = 8184 ∧ (s.d.share 0 0).descs = 9 ∧ s.chosenWaiter 0 = some 0 ∧ s.d.keptFor 0 0 = false ∧ s.imageCells 0 0 = [] ∧
    s.imageMarks 0 0 = [] := by decide +kernel

/-! ### One step on a small state: expected values worked out by hand from the rules -/

/-- V4, V5 and V7 of lane 0. -/
def in3 (a b c : Word) : State := state0 [(128, a), (160, b), (224, c)] [] []

/-- V6 of lane 0 after a word. -/
def v6 (s : State) : Word := s.w.v.getD 192 0

/-- A word of shape I or B on V4 and V5. -/
def op2 (f : Alu2 → Instr) (ty : Ty) (rnd : Rnd) (xf : Bool) (fn : BitVec 4) (a b : Word) : Word :=
  v6 (after (f { alu2 ty fn (.v 6) (.v 4) (.spec (.v 5)) with rnd := rnd, xf := xf }) (in3 a b 0))

/-- An integer word. -/
def int2 (f : Alu2 → Instr) (ty : Ty) (xf : Bool) (a b : Word) : Word := op2 f ty .rne xf 0 a b

/-- An integer word of one operand. -/
def int1 (f : Alu2 → Instr) (ty : Ty) (xf : Bool) (a : Word) : Word :=
  v6 (after (f { alu2 ty 0 (.v 6) (.v 4) (.spec (.v 0)) with xf := xf }) (in3 a 0 0))

/-- A word of shape C on V4, V5 and V7. -/
def op3 (f : Alu3 → Instr) (ty : Ty) (a b c : Word) : Word := v6 (after (f (alu3 ty 0 false (.v 6) (.v 4) (.v 5) (.v 7) 0)) (in3 a b c))

/-- R123: saturation and wrap; packed elements do not carry into one another. -/
theorem test_add : int2 .iadd .i32 true 0x7FFFFFFF 1 = 0x7FFFFFFF ∧ int2 .iadd .i16x2 false 0x0001FFFF 0x00010001 = 0x00020000 ∧
    int2 .isub .u32 true 2 5 = 0 ∧ int2 .isub .i32 false 2 5 = 0xFFFFFFFD := by decide +kernel

theorem test_mul : int2 .imul .u16x2 false 0x00030002 0x00050004 = 0x000F0008 ∧ int2 .imulh .i32 false 0xFFFFFFFF 0xFFFFFFFF = 0 ∧
    int2 .imulh .u32 false 0xFFFFFFFF 0xFFFFFFFF = 0xFFFFFFFE ∧ op3 .imad .i32 3 5 7 = 22 := by decide +kernel

theorem test_min : int2 .imin .i32 false 0xFFFFFFFF 1 = 0xFFFFFFFF ∧ int2 .imin .u32 false 0xFFFFFFFF 1 = 1 ∧
    int2 .imax .i32 false 0xFFFFFFFF 1 = 1 ∧ int2 .imax .u32 false 0xFFFFFFFF 1 = 0xFFFFFFFF := by decide +kernel

theorem test_abs : int1 .iabs .i32 false 0x80000000 = 0x80000000 ∧ int1 .iabs .i32 true 0x80000000 = 0x7FFFFFFF := by decide +kernel

theorem test_logic : int2 .and .u32 false 0xF0F0 0xFF00 = 0xF000 ∧ int2 .or .u32 false 0xF0F0 0xFF00 = 0xFFF0 ∧
    int2 .xor .u32 false 0xF0F0 0xFF00 = 0x0FF0 ∧ int2 .andn .u32 false 0xF0F0 0xFF00 = 0x00F0 := by decide +kernel

/-- R125: a count of the width or more; SHR fills with zeros and SAR with the sign whatever the type. -/
theorem test_shift : int2 .shl .u32 false 1 32 = 0 ∧ int2 .shr .i32 false 0x80000000 31 = 1 ∧ int2 .sar .u32 false 0x80000000 40 = 0xFFFFFFFF ∧
    int2 .rot .u32 false 0x80000001 33 = 3 := by decide +kernel

/-- R126: a field that runs over the top of a signed operand; an insertion. -/
theorem test_fields : op3 .bfe .i32 0x80000000 28 8 = 0xFFFFFFF8 ∧ op3 .bfe .u32 0xF0 4 4 = 0xF ∧
    op3 .bfi .u32 0xFFFFFFFF 0 0x0804 = 0xFFFFF00F ∧ op3 .bfi .u32 0xFFFFFFFF 0 0x0820 = 0xFFFFFFFF := by decide +kernel

theorem test_bits : int1 .popc .u32 false 0xF0F0 = 8 ∧ int1 .clz .u32 false 1 = 31 ∧ int1 .ctz .u32 false 0 = 32 ∧
    int1 .brev .u32 false 1 = 0x80000000 ∧ int1 .hash .u32 false 1 = 0x75f23de6 := by decide +kernel

/-- R128: A + B × 2^C. -/
theorem test_lea : op3 .lea .i32 100 5 2 = 120 := by decide +kernel

/-- R127: signed and unsigned comparisons. -/
theorem test_compare :
    let c := fun (ty : Ty) => (after (.isetp { g := always, ctl := ctl0, ty := ty, cond := 2, pd := 1, a := .v 4, b := .spec (.v 5) }) (in3 0xFFFFFFFF 1 0)).w
    (((c .i32).p.getD 1 0).getLsbD 0 = true) ∧ ((c .u32).p.getD 1 0).getLsbD 0 = false := by decide +kernel

/-- R124: the carry out of lane 0 goes to P1. -/
theorem test_carry :
    let s := after (.iaddc { g := always, ctl := ctl0, ty := .u32, d := .v 6, a := .v 4, b := .v 5, cin := PSrc.mk true 7, cout := 1 }) (in3 0xFFFFFFFF 1 0)
    v6 s = 0 ∧ (s.w.p.getD 1 0).getLsbD 0 = true := by decide +kernel

/-- R51: L0 takes the result and L1 the old L0; L0 of an inactive lane takes zero. -/
theorem test_last_result :
    let i := fun (d : Spec) => Instr.iadd (alu2 .u32 0 d (.v 4) (.spec (.v 5)))
    let s := after (i (.v 8)) (after (i (.v 6)) (in3 3 4 0))
    s.w.l0.getD 0 0 = 7 ∧ s.w.l1.getD 0 0 = 7 ∧ s.w.l0.getD 5 0 = 0 := by decide +kernel

/-- R27, R132: a tie goes to the even neighbour, and up under RUP; an underflow keeps its sign. -/
theorem test_float_add : op2 .fadd .f32 .rne false 0 0x3F800000 0x33800000 = 0x3F800000 ∧
    op2 .fadd .f32 .rup false 0 0x3F800000 0x33800000 = 0x3F800001 ∧ op2 .fsub .f32 .rne false 0 0x3F800000 0x3F800000 = 0 ∧
    op2 .fsub .f32 .rdn false 0 0x3F800000 0x3F800000 = 0x80000000 := by decide +kernel

/-- 3 × 3 in binary16; ∞ × 0 is the canonical NaN (R23); 1.5 × 2 + 1 = 4. -/
theorem test_float_mul : op2 .fmul .f16 .rne false 0 0x4200 0x4200 = 0x4880 ∧ op2 .fmul .f32 .rne false 0 0x7F800000 0 = 0x7FC00000 ∧
    op3 .ffma .f32 0x3FC00000 0x40000000 0x3F800000 = 0x40800000 := by decide +kernel

/-- R134: −0 is less than +0; a NaN is ignored, but not under XF. -/
theorem test_float_min : op2 .fmin .f32 .rne false 0 0 0x80000000 = 0x80000000 ∧ op2 .fmax .f32 .rne false 0 0x7FC00000 0x3F800000 = 0x3F800000 ∧
    op2 .fmax .f32 .rne true 0 0x7FC00000 0x3F800000 = 0x7FC00000 := by decide +kernel

/-- R136, R137: −∞ is class 0; 0.25 and −0.25 rounded down; 1 × 2^3. -/
theorem test_float_class :
    let b := fun (f : Alu2 → Instr) (rnd : Rnd) (x : Word) => v6 (after (f { alu2 .f32 0 (.v 6) (.v 4) (.spec (.v 0)) with rnd := rnd }) (in3 x 0 0))
    b .fclass .rne 0xFF800000 = 1 ∧ b .frnd .rdn 0x3E800000 = 0 ∧ b .frnd .rdn 0xBE800000 = 0xBF800000 ∧
    op2 .fscale .f32 .rne false 0 0x3F800000 3 = 0x41000000 := by decide +kernel

/-- R138: 1 × 2 + 3 × 4 + 1 = 15, element 0 in the low half. -/
theorem test_dot : op3 .fdot2 .f16x2 0x42003C00 0x44004000 0x3F800000 = 0x41700000 := by decide +kernel

/-- R141, R142: 1.5 to binary16; −1.5 to an integer toward zero; 3 to binary32. -/
theorem test_convert :
    let f := fun (i : Instr) (x : Word) => v6 (after i (in3 x 0 0))
    let a := fun (ty : Ty) (rnd : Rnd) (fn : BitVec 4) => ({ alu3 ty fn false (.v 6) (.v 4) (.v 0) (.v 0) 0 with rnd := rnd } : Alu3)
    f (.fcvt (a .f16 .rne 4)) 0x3FC00000 = 0x3E00 ∧ f (.icvt (a .i32 .rtz 4)) 0xBFC00000 = 0xFFFFFFFF ∧
    f (.icvt (a .f32 .rne 0)) 3 = 0x40400000 := by decide +kernel

/-- A word of two lanes: V4 of lanes 0 and 1, V6 of both after it. -/
def lanes2 (i : Instr) (a b : Word) : Word × Word :=
  let s := after i (state0 [(128, a), (129, b)] [] [])
  (s.w.v.getD 192 0, s.w.v.getD 193 0)

/-- R148, R149: lanes 0 and 1 exchanged; lane 1 to both; their sum, in an inclusive scan and in a reduction. -/
theorem test_lanes :
    lanes2 (.lshuf (alu2 .u32 1 (.v 6) (.v 4) (.spec (.imm 1)))) 5 7 = (7, 5) ∧
    lanes2 (.lbcast (alu2 .u32 0 (.v 6) (.v 4) (.spec (.imm 1)))) 5 7 = (7, 7) ∧
    lanes2 (.lscan (alu2 .u32 0 (.v 6) (.v 4) (.spec (.imm 0)))) 5 7 = (5, 12) ∧
    lanes2 (.lred (alu2 .u32 0 (.v 6) (.v 4) (.spec (.v 0)))) 5 7 = (12, 12) := by decide +kernel

/-- The worked example of R152: where a lane holds its value decides the rounding of a sum. -/
theorem test_reduction_order :
    let r := fun (a b c : Word) =>
      let s := state0 [(128, a), (129, b), (130, c)] [] []
      v6 (after (.lred (alu2 .f32 0 (.v 6) (.v 4) (.spec (.v 0)))) { s with w := { s.w with filled := 7 } })
    r 0x3F800000 0x3F800000 0x4B800000 = 0x4B800001 ∧ r 0x4B800000 0x3F800000 0x3F800000 = 0x4B800000 := by decide +kernel

/-- R54, R160: a load moves its bytes only when its operation is performed, a store likewise; the counters say so. -/
theorem test_memory :
    let s := after (.ldx (memW 2 (.v 6) (.imm 0) (.v 2) 0)) (state0 [(64, 0x40000), (65, 0x40004)] [] [(0x40000, 8, 0x0000000900000008)])
    s.w.ldc = 1 ∧ v6 s = 0 ∧ (s.d.ops.map fun o => o.pieces.length) = [2] ∧
    (let t := s.performAll (((s.d.ops.map MemOp.id).headD 0)) 8
     v6 t = 8 ∧ t.w.v.getD 193 0 = 9 ∧ t.w.ldc = 0 ∧ t.d.ops = []) := by decide +kernel

/-- R216: a region, and R59: TILECOORD, of which a CSR read gives the value written. -/
theorem test_system :
    ((after (.tcset { g := always, ctl := ctl0, fn := 0, mod := 0, d := .v 0, a := .imm 3, b := .spec (.imm 5) }) quiet).w.tilecoord = 0x00030005) ∧
    (after (.nop { len := 0, g := always }) quiet).w.pc = 8 ∧
    ((after (.csrw (sysJ (.v 0) (.imm 5) 0x21)) quiet).d.ctx 0).prio = ((quiet.d.ctx 0).prio) := by decide +kernel

/-- R110: a warp that ends is gone, and its frames stay; under ENDR they are released. -/
theorem test_end :
    let x := EndW.mk unused unused unused unused
    (after (.endK x) quiet).w.live = false ∧ (((after (.endK x) quiet).d.share 0 0).frames.map Prod.fst) = [0, 16] ∧
    ((after (.endR x) quiet).d.share 0 0).frames = [] := by decide +kernel

/-- R117: a queue takes an entry of one word for each lane and gives it back. -/
theorem test_queue :
    let s := after (.qpush (sysW 0 0 (.q .qma) (.v 4) (.v 0))) (in3 9 0 0)
    (((s.d.share 0 0).queue .qma).length = 1) ∧ (((s.d.share 0 0).queue .qma).map fun e => e.data.headD 0) = [9] := by decide +kernel

/-- R330, R331: a leaf of a gibibyte maps an address with its low 30 bits. -/
theorem test_translation : (quiet.translate 0 0 0x3FFFFFF8).map Xlat.pa = some 0x3FFFFFF8 ∧ quiet.translate 0 0 0x40000000 = none := by
  decide +kernel

end Sys2Proof.Tests
end

namespace Sys2Proof.Machine

/-! ### The power governor (R18, R405) -/

/-- Leave given marks what asked for it: memory, the issuing warp and the dies stay. -/
@[simp] theorem giveLeave_mem (s : State) (r : LeaveReq) : (s.giveLeave r).mem = s.mem := by
  unfold State.giveLeave; split <;> rfl

@[simp] theorem giveLeave_w (s : State) (r : LeaveReq) : (s.giveLeave r).w = s.w := by
  unfold State.giveLeave; split <;> rfl

@[simp] theorem giveLeave_dies (s : State) (r : LeaveReq) : (s.giveLeave r).d.dies = s.d.dies := by
  unfold State.giveLeave; split <;> rfl

@[simp] theorem giveLeave_die (s : State) (r : LeaveReq) (n : Nat) : (s.giveLeave r).d.die n = s.d.die n := by
  simp only [Dev.die, giveLeave_dies]

/-- A nest that asked has leave. -/
theorem giveLeave_loop {s : State} {r : LeaveReq} (h : r.kind = 1) {o : LoopOp} (ho : o ∈ (s.giveLeave r).d.loops)
    (hid : o.id = r.id) : o.leave = 2 := by
  simp only [State.giveLeave, h, List.mem_map] at ho
  obtain ⟨p, -, rfl⟩ := ho
  by_cases hp : p.id = r.id
  · simp [hp]
  · simp [hp] at hid

/-- A matrix instruction that asked has leave. -/
theorem giveLeave_issued {s : State} {r : LeaveReq} (h : r.kind = 0) {m : MInstr}
    (hm : m ∈ ((s.giveLeave r).d.share r.ctx r.core).mx.issued) (hid : m.id = r.id) : m.leave = 2 := by
  simp only [State.giveLeave, h, State.mapShare_d, Dev.share_setShare_self, List.mem_map] at hm
  obtain ⟨p, -, rfl⟩ := hm
  by_cases hp : p.id = r.id
  · simp [hp]
  · simp [hp] at hid

/-- Whether a die's governor can grant a request of its queue's head (R405). -/
def State.canGrant (s : State) (die : Nat) (r : LeaveReq) : Prop :=
  (s.d.die die).use + r.weight ≤ (s.d.die die).budget ∧ (s.d.die die).window < (s.d.die die).ramp ∧
    (s.d.die die).winClk ≤ s.governorClk die ∧ s.governorClk die < (s.d.die die).winClk + 1024

/-- The die after its governor has granted the head of its queue (R405, R415). -/
def State.grantedDie (s : State) (die : Nat) (r : LeaveReq) (rs : List LeaveReq) : Die :=
  { s.d.die die with
    reqs := rs, use := (s.d.die die).use + r.weight, grants := ((s.d.die die).grants + 1) % 2 ^ 64
    window := (s.d.die die).window + 1, stall := satNat 64 ((s.d.die die).stall + ((s.d.core r.core).clk - r.since)) }

/-- The governor grants a request that it can grant. -/
theorem execPowerGrant_grants {s : State} {die : Nat} {r : LeaveReq} {rs : List LeaveReq} (hq : (s.d.die die).reqs = r :: rs)
    (h : s.canGrant die r) :
    execPowerGrant die s = .next (({ s with d := s.d.setDie die (s.grantedDie die r rs) } : State).giveLeave r) := by
  obtain ⟨huse, hramp, hfrom, hto⟩ := h
  simp [execPowerGrant, hq, huse, hramp, hfrom, hto, State.grantedDie]

/-- It leaves everything alone where it cannot. -/
theorem execPowerGrant_refuses {s : State} {die : Nat} (h : ∀ r, (s.d.die die).reqs.head? = some r → ¬ s.canGrant die r) :
    execPowerGrant die s = .next s := by
  unfold execPowerGrant
  dsimp only
  split
  · rfl
  · next r rs hq =>
    refine if_neg fun hok => h r (by simp [hq]) ?_
    simpa [State.canGrant, and_assoc] using hok

/-- A window that has ended gives way to the next (R405). -/
theorem execRampWindow_ended {s : State} {die : Nat} (h : (s.d.die die).winClk + 1024 ≤ s.governorClk die) :
    execRampWindow die s = .next (s.mapDie die fun y => { y with window := 0, winClk := y.winClk + 1024 }) :=
  if_pos h

/-- Settles O36, by the two outcomes of a grant and that of a window's end. -/
theorem powerGovernor : Obligations.PowerGovernor := by
  intro s die x clk
  refine ⟨fun r rs hq huse hramp hfrom hto => ?_, fun hq hno => ?_, fun hend => ?_⟩
  · refine ⟨_, execPowerGrant_grants hq ⟨huse, hramp, hfrom, hto⟩, by simp, by simp, ?_⟩
    dsimp only
    rw [giveLeave_die, Dev.die_setDie_self]
    exact ⟨rfl, rfl, rfl, rfl, fun h _ ho => giveLeave_loop h ho, fun h _ hm => giveLeave_issued h hm⟩
  · refine execPowerGrant_refuses fun r hr hgrant => ?_
    obtain ⟨huse, hramp, hfrom, hto⟩ := hgrant
    simp only [x, clk, hr, Option.map_some, Option.getD_some] at hno
    unfold State.governorClk at hfrom hto
    omega
  · refine ⟨_, execRampWindow_ended hend, by simp, by simp, by simp [x], fun n hn => ?_⟩
    simp [Dev.die_setDie_of_ne _ _ hn]

end Sys2Proof.Machine

namespace Sys2Proof.Machine

/-! ### The clocks of a turn (R12, R57) -/

/-- The clocks that a turn passes on a core: those of every core, and the core's own. -/
theorem clocksOf_eq (dt : Nat) (extra : List (Nat × Nat)) (g : Nat) :
    clocksOf dt extra g = dt + ((extra.filter fun p => p.1 = g).map Prod.snd).sum := by
  unfold clocksOf
  induction extra generalizing dt with
  | nil => rfl
  | cons p ps ih =>
    rw [List.foldl_cons, ih]
    by_cases hp : p.1 = g
    · simp [hp, Nat.add_assoc]
    · simp [hp]

/-- The table of cores after the clocks of some of them have passed. -/
def coresPassed (m : Map Core) (n : Nat → Nat) (gs : List Nat) : Map Core :=
  gs.foldl (fun m g => if n g = 0 then m else m.put g ((m.getD g Core.reset).pass (n g))) m

/-- The clock of a core after the clocks of each core of a list without repetition have passed. -/
theorem clk_coresPassed (n : Nat → Nat) {gs : List Nat} (hnd : gs.Nodup) (m : Map Core) (g : Nat) :
    ((coresPassed m n gs).getD g Core.reset).clk = (m.getD g Core.reset).clk + if g ∈ gs then n g else 0 := by
  induction gs generalizing m with
  | nil => rfl
  | cons k ks ih =>
    obtain ⟨hk, hks⟩ := List.nodup_cons.mp hnd
    have hstep : coresPassed m n (k :: ks) =
        coresPassed (if n k = 0 then m else m.put k ((m.getD k Core.reset).pass (n k))) n ks := rfl
    rw [hstep, ih hks]
    by_cases hg : g = k
    · subst hg
      by_cases h0 : n g = 0
      · simp [hk, h0]
      · simp [hk, h0, Core.pass]
    · by_cases h0 : n k = 0
      · simp [hg, h0]
      · simp [hg, h0, Map.getD_put_of_ne]

theorem clocked_eq (d : Dev) (dt : Nat) (extra : List (Nat × Nat)) :
    d.clocked dt extra = coresPassed d.cores (clocksOf dt extra) (List.range 256) := rfl

@[simp] theorem passClocks_w (s : State) (dt : Nat) (extra : List (Nat × Nat)) : (s.passClocks dt extra).w = s.w := by
  unfold State.passClocks; split <;> rfl

@[simp] theorem passClocks_turns (s : State) (dt : Nat) (extra : List (Nat × Nat)) : (s.passClocks dt extra).turns = s.turns := by
  unfold State.passClocks; split <;> rfl

/-- Memory stays as it is while the L2s hold what stands apart from HBM (R15). -/
theorem passClocks_mem {s : State} (h : s.mem.hbm.length ≤ l2Sectors) (dt : Nat) (extra : List (Nat × Nat)) :
    (s.passClocks dt extra).mem = s.mem := by
  unfold State.passClocks
  split
  · rfl
  · simp [PMem.trimL2, h]

/-- Each core's clock goes on by its own number (R12, R57). -/
theorem passClocks_clk (s : State) (dt : Nat) (extra : List (Nat × Nat)) {g : Nat} (hg : g < 256) :
    ((s.passClocks dt extra).d.core g).clk = (s.d.core g).clk + clocksOf dt extra g := by
  unfold State.passClocks
  split
  · next h =>
    obtain ⟨rfl, hx⟩ : dt = 0 ∧ extra = [] := by simpa using h
    subst hx; rfl
  · simp only [Dev.core, clocked_eq]
    rw [clk_coresPassed _ List.nodup_range, if_pos (List.mem_range.mpr hg)]

/-! ### A turn of the schedule -/

/-- A step takes the next turn: its clocks pass, and its move is made. -/
theorem step_of_turns {s : State} {t : Turn} {ts : List Turn} (h : s.turns = t :: ts) :
    step s = (({ s with turns := ts } : State).passClocks t.dt t.extra).move t.act := by
  unfold step State.takeTurn
  rw [h]

/-! ### The greedy run (R242, R243) -/

/-- A warp that may issue can issue, goes on where it issued last, and else is the earliest of those that can (R242, R243). -/
theorem mayIssue_greedy {u : State} {w v : Warp} (hw : u.mayIssue w = true) (hv : v ∈ u.issuers w.core w.unit) :
    u.canIssue w = true ∧ (v.uid = (u.d.run w.core w.unit).last → w.uid = (u.d.run w.core w.unit).last) ∧
      ((∀ y, y ∈ u.issuers w.core w.unit → y.uid ≠ (u.d.run w.core w.unit).last) → w.uid ≤ v.uid) := by
  unfold State.mayIssue at hw
  obtain ⟨hcan, hturn⟩ := Bool.and_eq_true_iff.mp hw
  refine ⟨hcan, fun hlast => ?_, fun hnone => ?_⟩
  · have hany : ((u.issuers w.core w.unit).any fun y => y.uid = (u.d.run w.core w.unit).last) = true :=
      List.any_eq_true.mpr ⟨v, hv, by simpa using hlast⟩
    simpa [hany] using hturn
  · have hany : ((u.issuers w.core w.unit).any fun y => y.uid = (u.d.run w.core w.unit).last) = false :=
      List.any_eq_false.mpr fun y hy => by simpa using hnone y hy
    simp only [hany, Bool.false_eq_true, if_false, Bool.and_eq_true, List.all_eq_true, decide_eq_true_eq] at hturn
    exact hturn.2 v hv

/-- The run noted after a warp's turn to issue a word is its unit's next one; nothing else changes. -/
theorem noteRun_eq {u : State} {uid : Nat} {w : Warp} (h : u.warp uid = some w) (t : State) (i : Instr) :
    u.noteRun t uid i = t.mapCore w.core fun x =>
      { x with runs := x.runs.put w.unit (u.nextRun w (u.issuedSince t uid && !Instr.yields i)) } := by
  simp [State.noteRun, h]

theorem run_noteRun {u : State} {uid : Nat} {w : Warp} (h : u.warp uid = some w) (t : State) (i : Instr) :
    (u.noteRun t uid i).d.run w.core w.unit = u.nextRun w (u.issuedSince t uid && !Instr.yields i) := by
  rw [noteRun_eq h]
  simp [Dev.run]

/-- A warp whose word has not issued, or yields, has stalled in its unit's run (R242). -/
theorem nextRun_stalls (u : State) (w : Warp) : (u.nextRun w false).last = 0 ∧ w.uid ∈ (u.nextRun w false).stalled := by
  simp [State.nextRun]

/-! ### The watchdog's count (R391) -/

/-- A count that starts anew changes the shares alone. -/
theorem countIssue_frame (u t : State) (uid : Nat) :
    (u.countIssue t uid).mem = t.mem ∧ (u.countIssue t uid).w = t.w ∧ (u.countIssue t uid).turns = t.turns ∧
      (u.countIssue t uid).d = { t.d with shares := (u.countIssue t uid).d.shares } := by
  unfold State.countIssue
  split
  · split <;> exact ⟨rfl, rfl, rfl, rfl⟩
  · exact ⟨rfl, rfl, rfl, rfl⟩

theorem countIssue_waiting {u t : State} {uid : Nat} (h : u.issuedSince t uid = false) : u.countIssue t uid = t := by
  unfold State.countIssue
  split
  · simp [h]
  · rfl

theorem watch_countIssue {u t : State} {uid : Nat} {w : Warp} (hw : u.warp uid = some w) (h : u.issuedSince t uid = true) :
    ((u.countIssue t uid).d.share w.ctx w.core).watch = 0 := by
  by_cases h0 : (t.d.share w.ctx w.core).watch = 0
  · simp [State.countIssue, hw, h0]
  · simp [State.countIssue, hw, h, h0]

/-! ### The fetch of a word (R67 to R69, R72, R88, R332, R392) -/

/-- The warp of a name is the issuing one, or one of the others, and comes to the front. -/
theorem focus_w {u : State} {uid : Nat} {w : Warp} (h : u.warp uid = some w) : (u.focus uid).w = w := by
  unfold State.warp State.allWarps at h
  unfold State.focus
  by_cases hl : u.w.live = true
  · by_cases hu : u.w.uid = uid
    · simp_all
    · simp_all
  · simp_all

theorem issue_of_mayIssue {u : State} {uid : Nat} {w : Warp} (h : u.warp uid = some w) (hm : u.mayIssue w = true) :
    u.issue uid = (u.focus uid).fetch := by
  simp [State.issue, h, hm]

/-- Nothing is issued for a name of no warp, or of one that may not issue. -/
theorem issue_of_not_mayIssue {u : State} {uid : Nat} (h : ∀ w, u.warp uid = some w → u.mayIssue w = false) :
    u.issue uid = .done u := by
  unfold State.issue
  split
  · rfl
  · next w hw => simp [h w hw]

theorem fetch_pastCode {f : State} (h : f.w.hdr.clen * 32 ≤ f.w.pc) : f.fetch = .done (f.raiseAll 0x02) := by
  simp [State.fetch, h]

theorem fetch_untranslated {f : State} (h : f.w.pc < f.w.hdr.clen * 32) (ht : f.translate f.w.core f.w.ctx f.w.codeVa = none) :
    f.fetch = .done (f.parkTransl 0x20 f.w.filled f.w.codeVa 0) := by
  simp [State.fetch, Nat.not_le.mpr h, ht]

section
variable {f : State} {x : Xlat} (h : f.w.pc < f.w.hdr.clen * 32) (ht : f.translate f.w.core f.w.ctx f.w.codeVa = some x)
include h ht

theorem fetch_unreadable (hr : x.canRead = false) : f.fetch = .done (f.parkTransl 0x21 f.w.filled f.w.codeVa 0) := by
  simp [State.fetch, Nat.not_le.mpr h, ht, hr]

theorem fetch_marked (hr : x.canRead = true) (hb : f.heldBlock f.w.codeVa = none) (hm : f.mem.marked (x.pa / 32 * 32) 32 = true) :
    f.fetch = .done ((f.meetMark (x.pa / 32 * 32) 32).endCtx f.w.ctx 0x31 0x0E f.w.core) := by
  simp [State.fetch, Nat.not_le.mpr h, ht, hr, hb, hm]

/-- A word is fetched from the block that the warp or its core holds, or from unmarked bytes of memory (R72, R392). -/
theorem fetch_block (hr : x.canRead = true) {block : List Byte}
    (hb : f.heldBlock f.w.codeVa = some block ∨
      (f.heldBlock f.w.codeVa = none ∧ f.mem.marked (x.pa / 32 * 32) 32 = false ∧ block = f.mem.bytes (x.pa / 32 * 32) 32)) :
    f.fetch = ((f.fillTlb f.w.core f.w.ctx f.w.codeVa).takeBlock f.w.codeVa block).fetchIn block := by
  rcases hb with hb | ⟨hb, hm, rfl⟩
  · simp [State.fetch, State.fetchBytes, Nat.not_le.mpr h, ht, hr, hb]
  · simp [State.fetch, State.fetchBytes, Nat.not_le.mpr h, ht, hr, hb, hm]

end

theorem takeBlock_w (s : State) (va : Nat) (bs : List Byte) : (s.takeBlock va bs).w = { s.w with block := some (va / 32, bs) } := by
  unfold State.takeBlock
  split <;> rfl

@[simp] theorem takeBlock_mem (s : State) (va : Nat) (bs : List Byte) : (s.takeBlock va bs).mem = s.mem := by
  unfold State.takeBlock
  split <;> rfl

/-- The length of the word at a place in a fetch block (R67). -/
def lenInBlock (block : List Byte) (va : Nat) : Nat := lenOfWord (ofBytesLE ((block.drop (va % 32)).take 4))

theorem fetchIn_crosses {v : State} {block : List Byte} (h : 32 < v.w.pc % 32 + lenInBlock block v.w.codeVa) :
    v.fetchIn block = .done (v.raiseAll 0x02) := if_pos h

theorem fetchIn_undecoded {v : State} {block : List Byte} (h : v.w.pc % 32 + lenInBlock block v.w.codeVa ≤ 32) {e}
    (hd : decodeBytes ((block.drop (v.w.codeVa % 32)).take (lenInBlock block v.w.codeVa)) = .error e) :
    v.fetchIn block = .done (v.raiseAll 0x01) := by
  unfold lenInBlock at h hd
  simp [State.fetchIn, Nat.not_lt.mpr h, hd]

theorem fetchIn_word {v : State} {block : List Byte} (h : v.w.pc % 32 + lenInBlock block v.w.codeVa ≤ 32) {i : Instr} {n : Nat}
    (hd : decodeBytes ((block.drop (v.w.codeVa % 32)).take (lenInBlock block v.w.codeVa)) = .ok (i, n)) :
    v.fetchIn block = .word i v := by
  unfold lenInBlock at h hd
  simp [State.fetchIn, Nat.not_lt.mpr h, hd]

/-! ### Moves -/

theorem issueTurn_done {u t : State} {uid : Nat} (h : u.issue uid = .done t) : u.issueTurn uid = .next t := by
  simp [State.issueTurn, h]

theorem issueTurn_word {u v t : State} {uid : Nat} {i : Instr} (h : u.issue uid = .word i v) (he : exec i v = .next t) :
    u.issueTurn uid = .next (u.noteRun (u.countIssue t uid) uid i) := by
  simp [State.issueTurn, h, he, State.countOutcome]

/-- Settles O56, clause by clause from the turn taken, the greedy run, the watchdog's count and the cases of a fetch. -/
theorem issuedWords : Obligations.IssuedWords := by
  intro s dt extra ts u turn
  have hstep : ∀ a, s.turns = turn a :: ts → step s = u.move a := fun a h => step_of_turns h
  refine ⟨⟨?_, ?_, ?_, ?_⟩, ?_, ?_, ?_, ?_, ?_, ?_, ?_, ?_⟩
  · exact passClocks_w _ _ _
  · exact passClocks_turns _ _ _
  · exact fun h => passClocks_mem (s := { s with turns := ts }) h dt extra
  · intro g hg
    rw [Nat.add_assoc, ← clocksOf_eq]
    exact passClocks_clk { s with turns := ts } dt extra hg
  · intro e h he
    simp [hstep _ h, State.move, State.eventTurn, he]
  · intro e uid t h he ht
    simp [hstep _ h, State.move, State.eventTurn, he, ht, State.countOutcome]
  · intro x h
    rw [hstep _ h]
    cases x <;> rfl
  · exact fun w v hw hv => mayIssue_greedy hw hv
  · intro t uid w i hw
    refine ⟨by simp [noteRun_eq hw], by simp [noteRun_eq hw], by simp [noteRun_eq hw], by rw [noteRun_eq hw]; rfl, ?_, ?_⟩
    · intro hi hy
      simp [run_noteRun hw, hi, hy, State.nextRun]
    · intro hi
      have hstall : (u.issuedSince t uid && !Instr.yields i) = false := by
        rcases hi with hi | hi <;> simp [hi]
      rw [run_noteRun hw, hstall]
      exact nextRun_stalls u w
  · intro uid h hno
    rw [hstep _ h]
    exact issueTurn_done (issue_of_not_mayIssue hno)
  · intro t uid
    obtain ⟨hmem, hw, hturns, hd⟩ := countIssue_frame u t uid
    exact ⟨hmem, hw, hturns, hd, countIssue_waiting, fun w hw hi => watch_countIssue hw hi⟩
  · intro uid w h hw hmay f va
    have hissue : u.issue uid = f.fetch := issue_of_mayIssue hw hmay
    have hfw : f.w = w := focus_w hw
    have hfmem : f.mem = u.mem := focus_mem u uid
    have hdone : ∀ t, f.fetch = .done t → step s = .next t := fun t ht => by
      rw [hstep _ h]
      exact issueTurn_done (hissue.trans ht)
    subst hfw
    refine ⟨rfl, hfmem, (focus_turns u uid).trans (passClocks_turns _ _ _), fun hpc => hdone _ (fetch_pastCode hpc),
      fun hpc ht => hdone _ (fetch_untranslated hpc ht), fun x hpc ht hr => hdone _ (fetch_unreadable hpc ht hr),
      fun x hpc ht hr hb hm => hdone _ (fetch_marked hpc ht hr hb (hfmem ▸ hm)), ?_⟩
    intro x block hpc ht hr hb v bs len
    have hfetch : f.fetch = v.fetchIn block := fetch_block hpc ht hr (hfmem ▸ hb)
    have hvw : v.w = { f.w with block := some (va / 32, block) } := by simp [v, takeBlock_w]
    have hva : v.w.codeVa = va := by rw [hvw]; rfl
    have hpcv : v.w.pc = f.w.pc := by rw [hvw]
    have hlen : lenInBlock block v.w.codeVa = len := by rw [hva]; rfl
    refine ⟨hvw, by simp [v, hfmem], fun hx => hdone _ ?_, fun e hx hd => hdone _ ?_, fun i n t hx hd he => ?_⟩
    · rw [hfetch]
      exact fetchIn_crosses (by rwa [hlen, hpcv])
    · rw [hfetch]
      exact fetchIn_undecoded (by rwa [hlen, hpcv]) (by rwa [hlen, hva])
    · rw [hstep _ h]
      refine issueTurn_word (hissue.trans (hfetch.trans ?_)) he
      exact fetchIn_word (by rwa [hlen, hpcv]) (by rwa [hlen, hva])

end Sys2Proof.Machine

namespace Sys2Proof

/-! ### A table whose entries are changed in place -/

/-- An entry of a table whose entries are all changed and keep their keys. -/
theorem Map.find_map_of_key {α β : Type} (f : Nat × α → Nat × β) (hf : ∀ p, (f p).1 = p.1) (m : Map α) (k : Nat) :
    Map.find (m.map f) k = (Map.find m k).map fun x => (f (k, x)).2 := by
  induction m with
  | nil => rfl
  | cons p m ih =>
    obtain ⟨j, x⟩ := p
    have hj : f (j, x) = (j, (f (j, x)).2) := Prod.ext (hf (j, x)) rfl
    rw [List.map_cons, hj]
    by_cases hk : k = j
    · subst hk; simp [Map.find]
    · simp [Map.find, hk, ih]

namespace Machine

/-! ### What a record leaves of the shares (R387)

A record that finds its ring untranslated suspends the context, which asks its shares to halt; nothing else of a share changes. -/

/-- Two devices differ in their shares at most in the requests to halt. -/
def SharesBut (d d' : Dev) : Prop := ∀ c g, ∃ b, d'.share c g = { d.share c g with request := b }

theorem SharesBut.of_eq {d d' : Dev} (h : d'.shares = d.shares) : SharesBut d d' := fun c g =>
  ⟨(d.share c g).request, by rw [show d'.share c g = d.share c g by simp only [Dev.share, h]]⟩

theorem SharesBut.trans {d d' d'' : Dev} (h : SharesBut d d') (h' : SharesBut d' d'') : SharesBut d d'' := fun c g => by
  obtain ⟨b, hb⟩ := h c g
  obtain ⟨b', hb'⟩ := h' c g
  exact ⟨b', by rw [hb', hb]⟩

theorem SharesBut.queue {d d' : Dev} (h : SharesBut d d') (c g : Nat) (q : Queue) :
    (d'.share c g).queue q = (d.share c g).queue q := by
  obtain ⟨b, hb⟩ := h c g
  rw [hb]; rfl

@[simp] theorem modifyBytes_shares (s : State) (g pa : Nat) (bs : List Byte) : (s.modifyBytes g pa bs).d.shares = s.d.shares := by
  unfold State.modifyBytes
  dsimp only
  split <;> rfl

theorem foldl_modifyBytes_shares (xs : List (Nat × Nat × List Byte)) (s : State) :
    (xs.foldl (fun u x => u.modifyBytes x.1 x.2.1 x.2.2) s).d.shares = s.d.shares := by
  induction xs generalizing s with
  | nil => rfl
  | cons x xs ih => exact (ih _).trans (modifyBytes_shares _ _ _ _)

@[simp] theorem settle_shares (s : State) (a n : Nat) : (s.settle a n).d.shares = s.d.shares := by
  unfold State.settle
  dsimp only
  split
  · rfl
  · exact foldl_modifyBytes_shares _ s

theorem requestAll_shares (s : State) (c : Nat) : SharesBut s.d (s.requestAll c).d := by
  intro c' g
  unfold State.requestAll Dev.share
  simp only [Map.getD_eq]
  rw [Map.find_map_of_key _ (fun p => by split <;> rfl)]
  cases Map.find s.d.shares (shareKey c' g) with
  | none => exact ⟨_, rfl⟩
  | some x =>
    simp only [Option.map_some, Option.getD_some]
    split
    · exact ⟨true, rfl⟩
    · exact ⟨x.request, rfl⟩

theorem suspend_shares (s : State) (c : Nat) : SharesBut s.d (s.suspend c).d := by
  unfold State.suspend
  dsimp only
  split
  · exact requestAll_shares (s.mapCtx c fun x => { x with state := .suspended }) c
  · exact .of_eq rfl

theorem ringFails_shares (s : State) (c : Nat) : SharesBut s.d (s.ringFails c).d := by
  unfold State.ringFails
  dsimp only
  split
  · exact (suspend_shares s c).trans (.of_eq rfl)
  · exact suspend_shares s c

@[simp] theorem sendNotice_shares (s : State) (k : Token) (g : Nat) : (s.sendNotice k g).d.shares = s.d.shares := by
  unfold State.sendNotice
  split <;> rfl

@[simp] theorem notify_shares (s : State) (c g n h f v b : Nat) (ok : Bool) : (s.notify c g n h f v b ok).d.shares = s.d.shares := by
  unfold State.notify
  dsimp only
  repeat' split
  all_goals simp

theorem writeRec_shares (s : State) (r : FaultRec) : SharesBut s.d (s.writeRec r).1.d := by
  have hset : ∀ (u : State) (a n : Nat), SharesBut u.d (u.settle a n).d := fun u a n => .of_eq (settle_shares u a n)
  unfold State.writeRec
  dsimp only
  split
  · exact .of_eq rfl
  · split
    · exact ringFails_shares s _
    · split
      · split <;> exact hset s _ _
      · split
        · exact (hset s _ _).trans (ringFails_shares _ _)
        · exact (hset s _ _).trans ((hset _ _ _).trans (.of_eq (notify_shares _ _ _ _ _ _ _ _ _)))

theorem record_shares (s : State) (k : WaitRec) : SharesBut s.d (s.record k).1.d := by
  unfold State.record
  dsimp only
  split
  · exact .of_eq rfl
  · split
    · exact .of_eq rfl
    · split
      · exact (writeRec_shares s k.body).trans (.of_eq rfl)
      · exact writeRec_shares s k.body

theorem noteFor_shares (s : State) (uid id : Nat) (r : FaultRec) : SharesBut s.d (s.noteFor uid id r).d := record_shares s _

theorem noteEntry_shares (s : State) (c g : Nat) (e : QEntry) : SharesBut s.d (s.noteEntry c g e).d := by
  unfold State.noteEntry
  split
  · exact .of_eq rfl
  · exact noteFor_shares s _ _ _

theorem noteEntry_clean (s : State) (c g : Nat) {e : QEntry} (h : e.err = 0) : s.noteEntry c g e = s := if_pos h

end Machine
end Sys2Proof

namespace Sys2Proof.Machine

/-! ### The command in hand of a copy queue (R184) -/

@[simp] theorem Share.copy_setCopy (x : Share) (q : Nat) (k : Option CopyCmd) : (x.setCopy q k).copy q = k := by
  unfold Share.copy Share.setCopy
  by_cases hq : q = 0 <;> simp [hq]

@[simp] theorem Share.queue_setCopy (x : Share) (q : Nat) (k : Option CopyCmd) (p : Queue) : (x.setCopy q k).queue p = x.queue p := by
  unfold Share.setCopy
  split <;> rfl

@[simp] theorem Share.frames_setCopy (x : Share) (q : Nat) (k : Option CopyCmd) : (x.setCopy q k).frames = x.frames := by
  unfold Share.setCopy
  split <;> rfl

@[simp] theorem Share.coreByte_setCopy (x : Share) (q : Nat) (k : Option CopyCmd) (b : Nat) :
    (x.setCopy q k).coreByte b = x.coreByte b := by
  unfold Share.setCopy
  split <;> rfl

@[simp] theorem Share.queue_setQueue_self (x : Share) (p : Queue) (es : List QEntry) : (x.setQueue p es).queue p = es :=
  Map.getD_put_self ..

@[simp] theorem Share.copy_setQueue (x : Share) (p : Queue) (es : List QEntry) (q : Nat) : (x.setQueue p es).copy q = x.copy q := rfl

@[simp] theorem Share.frames_setQueue (x : Share) (p : Queue) (es : List QEntry) : (x.setQueue p es).frames = x.frames := rfl

/-- The shares of others stay where one is changed. -/
theorem find_mapShare_of_ne (s : State) (c g : Nat) (f : Share → Share) {n : Nat} (h : n ≠ shareKey c g) :
    (s.mapShare c g f).d.shares.find n = s.d.shares.find n := Map.find_put_of_ne _ _ h

@[simp] theorem mapUid_shares (s : State) (u : Nat) (f : Warp → Warp) : (s.mapUid u f).d.shares = s.d.shares := by
  unfold State.mapUid
  split <;> rfl

/-- A command that ends changes no memory. -/
@[simp] theorem endCopy_mem (s : State) (c g q : Nat) (k : CopyCmd) : (s.endCopy c g q k).mem = s.mem := by
  unfold State.endCopy
  dsimp only
  repeat' split
  all_goals simp [State.returnLeave]

/-- A command that ends stays in hand as finished until its completion, and its share keeps all else (R184). -/
theorem endCopy_share (s : State) (c g q : Nat) (k : CopyCmd) :
    (s.endCopy c g q k).d.share c g = (s.d.share c g).setCopy q (some { k with finished := true, leave := 0 }) := by
  unfold State.endCopy
  dsimp only
  repeat' split
  all_goals simp [State.returnLeave, Dev.share]

@[simp] theorem endCopy_copy (s : State) (c g q : Nat) (k : CopyCmd) :
    ((s.endCopy c g q k).d.share c g).copy q = some { k with finished := true, leave := 0 } := by
  rw [endCopy_share, Share.copy_setCopy]

@[simp] theorem endCopy_queue (s : State) (c g q : Nat) (k : CopyCmd) (p : Queue) :
    ((s.endCopy c g q k).d.share c g).queue p = (s.d.share c g).queue p := by
  rw [endCopy_share, Share.queue_setCopy]

@[simp] theorem endCopy_coreByte (s : State) (c g q : Nat) (k : CopyCmd) (b : Nat) :
    ((s.endCopy c g q k).d.share c g).coreByte b = (s.d.share c g).coreByte b := by
  rw [endCopy_share, Share.coreByte_setCopy]

/-! ### A command taken (R18, R184) -/

/-- The command in hand right after an entry was taken from its queue. -/
def State.copyTaken (s : State) (c : Nat) (e : QEntry) : CopyCmd :=
  { entry := e.accepted e.wantsTok (s.d.frameTask c (handleCore (e.data.getD 10 0)) (handleOfs (e.data.getD 10 0)))
    row := 0, col := 0, bytes := 0, status := 0, leave := 0, finished := false, marked := false, parked := none }

/-- The state in which the entry has left its queue, and the error that set its mark, if one did, is recorded (R392). -/
def State.copyPopped (s : State) (c g q : Nat) (e : QEntry) (es : List QEntry) : State :=
  (s.mapShare c g fun y => y.setQueue (copyQueue q) es).noteEntry c g e

theorem queue_copyPopped (s : State) (c g q : Nat) (e : QEntry) (es : List QEntry) :
    ((s.copyPopped c g q e es).d.share c g).queue (copyQueue q) = es := by
  unfold State.copyPopped
  rw [(noteEntry_shares _ c g e).queue]
  simp

/-- The state in which the command has ended at once, with the record of why. -/
def State.copyRefused (s : State) (c g q : Nat) (e : QEntry) (es : List QEntry) (status : Nat) (r : FaultRec) : State :=
  ((s.copyPopped c g q e es).noteFor e.uid e.id r).endCopy c g q { s.copyTaken c e with status := status }

theorem copyRefused_mem (s : State) (c g q : Nat) (e : QEntry) (es : List QEntry) (status : Nat) (r : FaultRec) :
    (s.copyRefused c g q e es status r).mem = ((s.copyPopped c g q e es).noteFor e.uid e.id r).mem := endCopy_mem ..

theorem queue_copyRefused (s : State) (c g q : Nat) (e : QEntry) (es : List QEntry) (status : Nat) (r : FaultRec) :
    ((s.copyRefused c g q e es status r).d.share c g).queue (copyQueue q) = es := by
  unfold State.copyRefused
  rw [endCopy_queue, (noteFor_shares _ _ _ r).queue, queue_copyPopped]

theorem copy_copyRefused (s : State) (c g q : Nat) (e : QEntry) (es : List QEntry) (status : Nat) (r : FaultRec) :
    ((s.copyRefused c g q e es status r).d.share c g).copy q =
      some { s.copyTaken c e with status := status, finished := true, leave := 0 } := endCopy_copy ..

section
variable {s : State} {c g q : Nat} {e : QEntry} {es : List QEntry} (hq : q < 2)
  (hes : (s.d.share c g).queue (copyQueue q) = e :: es) (hfree : (s.d.share c g).copy q = none)
  (hrun : s.mayRun c g = true) (hready : s.entryReady c g e = true)
include hq hes hfree hrun hready

/-- A command with a mark or one that R184 rejects ends at once, a heavy one asks for leave, and any other has it. -/
theorem execCopyCommand_eq : execCopyCommand c g q s =
    .next (if e.poison then s.copyRefused c g q e es 2 { FaultRec.engine 0x18 3 c g with d1 := e.evid }
      else if s.copyBad c e then s.copyRefused c g q e es 1 { FaultRec.engine 0x16 7 c g with d0 := 1, d1 := e.evid }
      else if e.heavyCopy then
        ((s.copyPopped c g q e es).mapShare c g fun y =>
          y.setCopy q (some { s.copyTaken c e with leave := 1 })).askLeave 2 c g q 2
      else (s.copyPopped c g q e es).mapShare c g fun y => y.setCopy q (some { s.copyTaken c e with leave := 2 })) := by
  have hq1 : ¬ 1 < q := by omega
  simp [execCopyCommand, hes, hfree, hrun, hready, hq1, apply_ite Host.Outcome.next, State.copyRefused, State.copyPopped,
    State.copyTaken]

theorem execCopyCommand_marked (hp : e.poison = true) : execCopyCommand c g q s =
    .next (s.copyRefused c g q e es 2 { FaultRec.engine 0x18 3 c g with d1 := e.evid }) := by
  rw [execCopyCommand_eq hq hes hfree hrun hready, if_pos hp]

theorem execCopyCommand_rejected (hp : e.poison = false) (hbad : s.copyBad c e = true) : execCopyCommand c g q s =
    .next (s.copyRefused c g q e es 1 { FaultRec.engine 0x16 7 c g with d0 := 1, d1 := e.evid }) := by
  simp [execCopyCommand_eq hq hes hfree hrun hready, hp, hbad]

theorem execCopyCommand_light (hp : e.poison = false) (hbad : s.copyBad c e = false) (hl : e.heavyCopy = false) :
    execCopyCommand c g q s =
      .next ((s.copyPopped c g q e es).mapShare c g fun y => y.setCopy q (some { s.copyTaken c e with leave := 2 })) := by
  simp [execCopyCommand_eq hq hes hfree hrun hready, hp, hbad, hl]

theorem execCopyCommand_heavy (hp : e.poison = false) (hbad : s.copyBad c e = false) (hl : e.heavyCopy = true) :
    execCopyCommand c g q s =
      .next (((s.copyPopped c g q e es).mapShare c g fun y =>
        y.setCopy q (some { s.copyTaken c e with leave := 1 })).askLeave 2 c g q 2) := by
  simp [execCopyCommand_eq hq hes hfree hrun hready, hp, hbad, hl]

end

/-- What R18 says of a command taken that is neither marked nor rejected. -/
theorem execCopyCommand_taken {s : State} {c g q : Nat} {e : QEntry} {es : List QEntry} (hq : q < 2)
    (hes : (s.d.share c g).queue (copyQueue q) = e :: es) (hfree : (s.d.share c g).copy q = none)
    (hrun : s.mayRun c g = true) (hready : s.entryReady c g e = true) (hp : e.poison = false) (herr : e.err = 0)
    (hbad : s.copyBad c e = false) :
    ∃ t k, execCopyCommand c g q s = .next t ∧ t.mem = s.mem ∧ t.w = s.w ∧
      (∀ n, n ≠ shareKey c g → t.d.shares.find n = s.d.shares.find n) ∧
      (t.d.share c g).copy q = some k ∧ (t.d.share c g).queue (copyQueue q) = es ∧ k = { s.copyTaken c e with leave := k.leave } ∧
      (e.len * e.rows ≤ 1048576 → k.leave = 2 ∧ t.d.dies = s.d.dies) ∧
      (1048576 < e.len * e.rows → k.leave = 1 ∧ t.d.dies = s.d.dies.put (g / 32)
        { s.d.die (g / 32) with reqs := (s.d.die (g / 32)).reqs ++ [LeaveReq.mk 2 c g q 2 (s.d.core g).clk] }) := by
  have hpop : s.copyPopped c g q e es = s.mapShare c g fun y => y.setQueue (copyQueue q) es := noteEntry_clean _ c g herr
  cases hh : e.heavyCopy with
  | false =>
    have hlight : e.len * e.rows ≤ 1048576 := by simpa [QEntry.heavyCopy] using hh
    refine ⟨_, { s.copyTaken c e with leave := 2 }, execCopyCommand_light hq hes hfree hrun hready hp hbad hh, ?_⟩
    rw [hpop]
    refine ⟨rfl, rfl, fun n hn => ?_, by simp, by simp, rfl, fun _ => ⟨rfl, rfl⟩, fun h => absurd hlight (Nat.not_le.mpr h)⟩
    rw [find_mapShare_of_ne _ _ _ _ hn, find_mapShare_of_ne _ _ _ _ hn]
  | true =>
    have hheavy : 1048576 < e.len * e.rows := by simpa [QEntry.heavyCopy] using hh
    refine ⟨_, { s.copyTaken c e with leave := 1 }, execCopyCommand_heavy hq hes hfree hrun hready hp hbad hh, ?_⟩
    rw [hpop]
    refine ⟨rfl, rfl, fun n hn => ?_, by simp [State.askLeave], by simp [State.askLeave], rfl,
      fun h => absurd h (Nat.not_le.mpr hheavy), fun _ => ⟨rfl, rfl⟩⟩
    rw [State.askLeave, State.mapDie_d, Dev.setDie_shares, find_mapShare_of_ne _ _ _ _ hn, find_mapShare_of_ne _ _ _ _ hn]

/-! ### The source bytes of a chunk (R184) -/

/-- The pieces of a range cut at its lines make up the range. -/
theorem sum_cutLines {fuel va n : Nat} (h : n = 0 ∨ n + va % 64 ≤ 64 * fuel) : ((cutLines fuel va n).map Prod.snd).sum = n := by
  induction fuel generalizing va n with
  | zero => simp [cutLines]; omega
  | succ fuel ih =>
    unfold cutLines
    split
    · next h0 => simp [h0]
    · have hk : Nat.min n (64 - va % 64) = min n (64 - va % 64) := rfl
      simp only [List.map_cons, List.sum_cons, hk]
      rw [ih (by omega)]
      omega

theorem length_copyRead (s : State) (c g task va n : Nat) : (s.copyRead c g task va n).length = n := by
  unfold State.copyRead
  rw [List.length_flatMap]
  have hpiece : ∀ p : Nat × Nat, (match s.hit g c (.virt p.1) 0 with
      | some h => (s.mem.bytes (s.locate c task p.1 h.pa) p.2).map fun b => (b, s.mem.marked (s.locate c task p.1 h.pa) p.2)
      | none => List.replicate p.2 (0#8, false)).length = p.2 := fun p => by
    split
    · rw [List.length_map, length_bytes]
    · exact List.length_replicate
  exact (congrArg List.sum (List.map_congr_left fun p _ => hpiece p)).trans (sum_cutLines (by omega))

@[simp] theorem length_scratchRead (s : State) (c g ofs n : Nat) : (s.scratchRead c g ofs n).length = n := by
  simp [State.scratchRead]

/-- Of a chunk as many bytes are read as are to be written. -/
theorem length_chunkBytes (s : State) (c g : Nat) (k : CopyCmd) : (s.chunkBytes c g k false).length = k.chunk.2.2 := by
  unfold State.chunkBytes
  dsimp only
  split
  · simp
  · simp only [Bool.false_and, Bool.false_eq_true, if_false]
    split
    · exact length_scratchRead ..
    · exact length_copyRead ..

theorem chunkBytes_fill (s : State) (c g : Nat) {k : CopyCmd} (h : k.entry.isFill = true) {j : Nat} (hj : j < k.chunk.2.2) :
    ((s.chunkBytes c g k false).getD j (0, false)).1 = BitVec.ofNat 8 (k.entry.cmd 1 / 2 ^ (8 * (j % 4))) := by
  simp [State.chunkBytes, h, hj]

theorem chunkBytes_scratch (s : State) (c g : Nat) {k : CopyCmd} (h : k.entry.isFill = false) (hs : k.entry.ssp = 1) {j : Nat}
    (hj : j < k.chunk.2.2) : ((s.chunkBytes c g k false).getD j (0, false)).1 =
      (s.d.share c g).coreByte ((s.d.ctx c).scratchAt + k.chunk.1 + j) := by
  simp [State.chunkBytes, h, hs, State.scratchRead, hj]

/-- A chunk lies in one page of its destination. -/
theorem chunk_inPage (k : CopyCmd) : k.chunk.2.1 % 4096 + k.chunk.2.2 ≤ 4096 := by
  have hn : k.chunk.2.2 = min (k.entry.len - k.col) (4096 - k.chunk.2.1 % 4096) := rfl
  omega

theorem chunk_pos {k : CopyCmd} (h : k.col < k.entry.len) : 0 < k.chunk.2.2 := by
  have hn : k.chunk.2.2 = min (k.entry.len - k.col) (4096 - k.chunk.2.1 % 4096) := rfl
  omega

/-- Bytes without a mark make one run. -/
theorem cleanRuns_clean {bs : List (Byte × Bool)} (h : ∀ b, b ∈ bs → b.2 = false) (hne : bs ≠ []) (k : Nat) :
    cleanRuns k bs = [(k, bs.map Prod.fst)] := by
  induction bs generalizing k with
  | nil => exact absurd rfl hne
  | cons b bs ih =>
    obtain ⟨v, bad⟩ := b
    obtain rfl : bad = false := h (v, bad) (List.mem_cons_self ..)
    cases bs with
    | nil => simp [cleanRuns]
    | cons b' bs =>
      have hrest := ih (fun b hb => h b (List.mem_cons_of_mem _ hb)) (List.cons_ne_nil _ _) (k + 1)
      unfold cleanRuns
      simp [hrest]

/-! ### An engine's write in one page (R259, R269, R344) -/

theorem cut4K_inPage {n va : Nat} (fuel : Nat) (h : va % 4096 + n ≤ 4096) (hn : n ≠ 0) : cut4K (fuel + 2) va n = [(va, n)] := by
  have hk : Nat.min n (4096 - va % 4096) = n := Nat.min_eq_left (by omega)
  simp [cut4K, hn, hk]

/-- Where no atomic stands between its read and its write, none has to end first. -/
theorem settle_of_noSplit {s : State} {a n : Nat} (h : s.NoSplit a n) : s.settle a n = s := by
  have hdue : ∀ o, o ∈ s.d.ops → ∀ p, p ∈ o.pieces → p.due a n = none := fun o ho p hp => by
    unfold Piece.due
    split
    · next v pa hact hplace =>
      have hmeets := (h o p ho hp (by rw [hact]; rfl)).1
      rw [hplace] at hmeets
      exact if_neg (by simpa [Place.meets] using hmeets)
    · rfl
  have hnil : (s.d.ops.flatMap fun o => o.pieces.filterMap fun p =>
      (p.due a n).map fun x => (o.core, x.1, bytesLE p.size x.2)) = [] := by
    rw [List.flatMap_eq_nil_iff]
    intro o ho
    rw [List.filterMap_eq_nil_iff]
    intro p hp
    rw [hdue o ho p hp]; rfl
  unfold State.settle
  simp [hnil]

@[simp] theorem markDirty_w (s : State) (c t va n : Nat) : (s.markDirty c t va n).w = s.w := by
  unfold State.markDirty
  dsimp only
  split <;> rfl

@[simp] theorem markDirty_shares (s : State) (c t va n : Nat) : (s.markDirty c t va n).d.shares = s.d.shares := by
  unfold State.markDirty
  dsimp only
  split <;> rfl

@[simp] theorem storeBytes_w (s : State) (g pa : Nat) (bs : List Byte) : (s.storeBytes g pa bs).w = s.w := by
  unfold State.storeBytes
  dsimp only
  split <;> rfl

@[simp] theorem storeBytes_shares (s : State) (g pa : Nat) (bs : List Byte) : (s.storeBytes g pa bs).d.shares = s.d.shares := by
  unfold State.storeBytes
  dsimp only
  split <;> rfl

/-- A write that needs no page and that R342 allows copies nothing first. -/
theorem cow_unneeded {s : State} {c task va pa : Nat} (hb : (s.d.ctx c).hostBarred va pa = false)
    (hn : (s.d.ctx c).needsPage task va = false) : s.cow c task va pa = some s := by
  simp [State.cow, hb, hn]

/-- A write that meets no fault is not one that R342 forbids. -/
theorem engineFault_hostBarred {s : State} {c g task va n : Nat} {h : Hit} (hf : s.engineFault c g task va n 1 = none)
    (hpage : va % 4096 + n ≤ 4096) (hn : n ≠ 0) (hh : s.hit g c (.virt va) 0 = some h) :
    (s.d.ctx c).hostBarred va h.pa = false := by
  unfold State.engineFault at hf
  rw [cut4K_inPage _ hpage hn] at hf
  cases hbar : (s.d.ctx c).hostBarred va h.pa with
  | false => rfl
  | true =>
    simp only [List.findSome?_cons, List.findSome?_nil, hh, State.accessFault, hbar] at hf
    by_cases hw : h.w = true <;> simp [hw] at hf

/-- An engine's bytes that meet no fault stand at their place afterwards; no share and no warp changes. -/
theorem engineWrite_inPage {s : State} {c g task va : Nat} {bs : List Byte} {h : Hit}
    (hf : s.engineFault c g task va bs.length 1 = none) (hpage : va % 4096 + bs.length ≤ 4096)
    (hh : s.hit g c (.virt va) 0 = some h) (hn : (s.d.ctx c).needsPage task va = false)
    (hsplit : s.NoSplit (s.locate c task va h.pa) bs.length) :
    ∃ t, s.engineWrite c g task va bs = some t ∧ t.w = s.w ∧ t.d.shares = s.d.shares ∧
      ∀ b, t.mem.byte b = if s.locate c task va h.pa ≤ b ∧ b < s.locate c task va h.pa + bs.length then
        bs.getD (b - s.locate c task va h.pa) 0 else s.mem.byte b := by
  by_cases h0 : bs.length = 0
  · obtain rfl := List.length_eq_zero_iff.mp h0
    exact ⟨s, rfl, rfl, rfl, fun b => (if_neg (by simp only [List.length_nil]; omega)).symm⟩
  · have hcow := cow_unneeded (engineFault_hostBarred hf hpage h0 hh) hn
    refine ⟨(s.markDirty c task va bs.length).storeBytes g (s.locate c task va h.pa) bs, ?_, by simp, by simp, fun b => ?_⟩
    · unfold State.engineWrite
      rw [cut4K_inPage _ hpage h0]
      simp [hh, settle_of_noSplit hsplit, State.writeAt, hcow]
    · rw [storeBytes_mem, markDirty_mem, byte_write]
      rfl

/-! ### Bytes of core memory (R43) -/

/-- A word with one byte replaced holds that byte there and its own bytes elsewhere. -/
theorem byte_putByte (w : Word) {k j : Nat} (hk : k < 4) (hj : j < 4) (v : Byte) :
    BitVec.ofNat 8 ((putByte w k v).toNat / 2 ^ (8 * j)) = if j = k then v else BitVec.ofNat 8 (w.toNat / 2 ^ (8 * j)) := by
  have hw := w.isLt
  have hv := v.isLt
  apply BitVec.eq_of_toNat_eq
  rw [apply_ite BitVec.toNat]
  simp only [putByte, BitVec.toNat_ofNat]
  obtain rfl | rfl | rfl | rfl : k = 0 ∨ k = 1 ∨ k = 2 ∨ k = 3 := by omega
  all_goals
    obtain rfl | rfl | rfl | rfl : j = 0 ∨ j = 1 ∨ j = 2 ∨ j = 3 := by omega
    all_goals simp only [Nat.reduceMul, Nat.reducePow, Nat.reduceEqDiff, if_true, if_false]; omega

/-- A byte of core memory after bytes were written from `a` on. -/
theorem coreByte_putCore (x : Share) (a : Nat) (bad : Bool) (bs : List Byte) (b : Nat) :
    (x.putCore a bad bs).coreByte b = if a ≤ b ∧ b < a + bs.length then bs.getD (b - a) 0 else x.coreByte b := by
  induction bs generalizing x a with
  | nil => exact (if_neg (by simp only [List.length_nil]; omega)).symm
  | cons v vs ih =>
    unfold Share.putCore
    rw [ih]
    simp only [List.length_cons]
    by_cases h1 : a + 1 ≤ b ∧ b < a + 1 + vs.length
    · rw [if_pos h1, if_pos (by omega), show b - a = b - (a + 1) + 1 by omega, List.getD_cons_succ]
    · rw [if_neg h1]
      unfold Share.coreByte
      simp only [Map.getD_putC]
      by_cases hb : b / 4 = a / 4
      · rw [if_pos hb, byte_putByte _ (Nat.mod_lt _ (by decide)) (Nat.mod_lt _ (by decide)), ← hb]
        by_cases hm : b % 4 = a % 4
        · have hba : b = a := by omega
          rw [if_pos hm, if_pos (by omega), hba, Nat.sub_self, List.getD_cons_zero]
        · rw [if_neg hm, if_neg (by omega)]
      · rw [if_neg hb, if_neg (by omega)]

theorem getD_map_fst (bs : List (Byte × Bool)) (j : Nat) : (bs.map Prod.fst).getD j 0 = (bs.getD j (0, false)).1 := by
  simp only [List.getD_eq_getElem?_getD, List.getElem?_map]
  cases bs[j]? <;> rfl

/-- Scratch holds a chunk's bytes after they were written there (R184). -/
theorem coreByte_copyIn (x : Share) (a : Nat) (bs : List (Byte × Bool)) (b : Nat) :
    (x.copyIn a bs).coreByte b = if a ≤ b ∧ b < a + bs.length then (bs.getD (b - a) (0, false)).1 else x.coreByte b := by
  have hbyte : (x.copyIn a bs).coreByte b = (x.putCore a false (bs.map Prod.fst)).coreByte b := rfl
  rw [hbyte, coreByte_putCore, List.length_map, getD_map_fst]

/-! ### A chunk performed (R184) -/

/-- The command goes on after a chunk, or ends with its last row. -/
def State.copyGoesOn (t : State) (c g q : Nat) (k : CopyCmd) : State :=
  if k.row = k.entry.rows then t.endCopy c g q k else t.mapShare c g fun x => x.setCopy q (some k)

@[simp] theorem copyGoesOn_mem (t : State) (c g q : Nat) (k : CopyCmd) : (t.copyGoesOn c g q k).mem = t.mem := by
  unfold State.copyGoesOn
  split <;> simp

@[simp] theorem copyGoesOn_coreByte (t : State) (c g q : Nat) (k : CopyCmd) (b : Nat) :
    ((t.copyGoesOn c g q k).d.share c g).coreByte b = (t.d.share c g).coreByte b := by
  unfold State.copyGoesOn
  split <;> simp

theorem after_entry (k : CopyCmd) (n p : Nat) (bad : Bool) : (k.after n p bad).entry = k.entry := by
  unfold CopyCmd.after
  dsimp only
  split <;> rfl

/-- The command in hand after a chunk of unmarked bytes: it stands at its next column, or at its next row, or has finished. -/
theorem copyGoesOn_after (t : State) (c g q : Nat) {k : CopyCmd} (n : Nat) (hf : k.finished = false) (hrow : k.row < k.entry.rows) :
    ∃ k', ((t.copyGoesOn c g q (k.after n n false)).d.share c g).copy q = some k' ∧ k'.entry = k.entry ∧ k'.status = k.status ∧
      k'.bytes = k.bytes + n ∧
      (if k.col + n < k.entry.len then k'.row = k.row ∧ k'.col = k.col + n ∧ k'.finished = false
       else k'.row = k.row + 1 ∧ k'.col = 0 ∧ k'.finished = decide (k.row + 1 = k.entry.rows)) := by
  unfold State.copyGoesOn
  by_cases hcol : k.col + n < k.entry.len
  · have hgo : k.row ≠ k.entry.rows := Nat.ne_of_lt hrow
    simp [CopyCmd.after, hcol, hgo, hf]
  · by_cases hlast : k.row + 1 = k.entry.rows
    · simp [CopyCmd.after, hcol, hlast]
    · simp [CopyCmd.after, hcol, hlast, hf]

/-- A chunk of unmarked bytes that has been written: no record is due, and the command goes on (R44, R184). -/
theorem copyChunk_written {s t : State} {c g q : Nat} {k : CopyCmd} {bs : List (Byte × Bool)} (hd : k.entry.dsp ≠ 2)
    (hfault : s.chunkFault c g k = none) (hbs : s.chunkBytes c g k false = bs) (hclean : ∀ b, b ∈ bs → b.2 = false)
    (hw : s.chunkWrite c g k bs = some t) :
    s.copyChunk c g q k false = t.copyGoesOn c g q (k.after bs.length bs.length false) := by
  have hany : bs.any Prod.snd = false := List.any_eq_false.mpr fun b hb => by simp [hclean b hb]
  have hall : (bs.filter fun b => !b.2) = bs := List.filter_eq_self.mpr fun b hb => by simp [hclean b hb]
  simp [State.copyChunk, hd, hfault, hbs, hw, State.chunkMarks, hany, hall, State.copyGoesOn, after_entry]

/-- A chunk for memory is written where its page lies in the view of the command's task. -/
theorem chunkWrite_memory {s : State} {c g : Nat} {k : CopyCmd} {bs : List (Byte × Bool)} {h : Hit} (hd : k.entry.dsp = 0)
    (hfault : s.chunkFault c g k = none) (hclean : ∀ b, b ∈ bs → b.2 = false) (hlen : bs.length = k.chunk.2.2) (hpos : 0 < k.chunk.2.2)
    (hh : s.hit g c (.virt k.chunk.2.1) 0 = some h) (hn : (s.d.ctx c).needsPage k.entry.task k.chunk.2.1 = false)
    (hsplit : s.NoSplit (s.locate c k.entry.task k.chunk.2.1 h.pa) k.chunk.2.2) :
    ∃ t, s.chunkWrite c g k bs = some t ∧ ∀ b, t.mem.byte b =
      if s.locate c k.entry.task k.chunk.2.1 h.pa ≤ b ∧ b < s.locate c k.entry.task k.chunk.2.1 h.pa + k.chunk.2.2 then
        (bs.getD (b - s.locate c k.entry.task k.chunk.2.1 h.pa) (0, false)).1 else s.mem.byte b := by
  have hbs : (bs.map Prod.fst).length = k.chunk.2.2 := by rw [List.length_map, hlen]
  have hwr : s.engineFault c g k.entry.task k.chunk.2.1 (bs.map Prod.fst).length 1 = none := by
    unfold State.chunkFault at hfault
    dsimp only at hfault
    split at hfault
    · cases hfault
    · simpa [hd, hbs] using hfault
  obtain ⟨t, ht, -, -, hbyte⟩ := engineWrite_inPage hwr (hbs ▸ chunk_inPage k) hh hn (hbs.symm ▸ hsplit)
  refine ⟨t, ?_, fun b => ?_⟩
  · have hne : bs ≠ [] := List.ne_nil_of_length_pos (hlen ▸ hpos)
    simp [State.chunkWrite, hd, cleanRuns_clean hclean hne, ht]
  · rw [hbyte, hbs, getD_map_fst]

/-- A chunk for scratch is written into the core memory of the share. -/
theorem chunkWrite_scratch (s : State) (c g : Nat) {k : CopyCmd} (bs : List (Byte × Bool)) (hd : k.entry.dsp = 1) :
    s.chunkWrite c g k bs = some (s.mapShare c g fun x => x.copyIn ((s.d.ctx c).scratchAt + k.chunk.2.1) bs) := by
  simp [State.chunkWrite, hd]

/-- The engine performs a chunk of a command in hand that has its leave. -/
theorem execCopyChunk_performs {s : State} {c g q : Nat} {k : CopyCmd} (hq : q < 2) (hk : (s.d.share c g).copy q = some k)
    (hf : k.finished = false) (hp : k.parked = none) (hl : k.leave = 2) (hrun : s.copyRuns c g = true) :
    execCopyChunk c g q false s = .next (s.copyChunk c g q k false) := by
  simp [execCopyChunk, hk, hf, hp, hl, hrun, Nat.not_lt.mpr (Nat.le_of_lt_succ hq)]

/-- A copy to another device whose path is down ends with status 3 (R184, R404). -/
theorem copyChunk_noPath {s : State} {c g q : Nat} {k : CopyCmd} (hd : k.entry.dsp = 2) (hdev : k.entry.ddev ≠ s.d.devnum)
    (hpath : s.pathUp c k.entry.ddev = false) : s.copyChunk c g q k false = s.endCopy c g q { k with status := 3 } := by
  simp [State.copyChunk, hd, hdev, hpath]

/-! ### Completion (R185) -/

/-- A share that keeps its frames leaves every frame as it is. -/
theorem frames_setShare {d : Dev} {c g : Nat} {x : Share} (h : x.frames = (d.share c g).frames) (c' g' : Nat) :
    ((d.setShare c g x).share c' g').frames = (d.share c' g').frames := by
  by_cases hk : shareKey c' g' = shareKey c g
  · have hself : (d.setShare c g x).share c' g' = x := by simp [Dev.share, hk]
    have hsame : d.share c' g' = d.share c g := by simp [Dev.share, hk]
    rw [hself, hsame, h]
  · rw [Dev.share_setShare_of_ne _ _ hk]

theorem frameTask_of_frames {d d' : Dev} (h : ∀ c g, (d'.share c g).frames = (d.share c g).frames) (c g ofs : Nat) :
    d'.frameTask c g ofs = d.frameTask c g ofs := by
  unfold Dev.frameTask
  rw [h]

@[simp] theorem fresh_share (s : State) (c g : Nat) : s.fresh.2.d.share c g = s.d.share c g := rfl

/-- An entry that an engine places stands at the tail of its queue under a fresh name (R62). -/
theorem enginePush_one (s : State) (c g : Nat) (p : Queue) (e : QEntry) : s.enginePush c g p [e] =
    s.fresh.2.mapShare c g fun x => x.setQueue p (x.queue p ++ [{ e with id := s.d.nextId }]) := rfl

/-- The state in which a completed command has left the engine and placed its event, where it has one (R185). -/
def State.copyLeft (s : State) (c g q : Nat) (k : CopyCmd) (ev : Bool) : State :=
  let s1 := s.mapShare c g fun x => x.setCopy q none
  if ev then s1.enginePush c g .qce [k.event q] else s1

section
variable (s : State) (c g q : Nat) (k : CopyCmd) (ev : Bool)

@[simp] theorem copyLeft_mem : (s.copyLeft c g q k ev).mem = s.mem := by cases ev <;> rfl
@[simp] theorem copyLeft_w : (s.copyLeft c g q k ev).w = s.w := by cases ev <;> rfl
@[simp] theorem copyLeft_net : (s.copyLeft c g q k ev).d.net = s.d.net := by cases ev <;> rfl
@[simp] theorem copyLeft_devnum : (s.copyLeft c g q k ev).d.devnum = s.d.devnum := by cases ev <;> rfl
@[simp] theorem copyLeft_core (n : Nat) : (s.copyLeft c g q k ev).d.core n = s.d.core n := by cases ev <;> rfl

theorem copyLeft_other {n : Nat} (h : n ≠ shareKey c g) : (s.copyLeft c g q k ev).d.shares.find n = s.d.shares.find n := by
  cases ev
  · exact find_mapShare_of_ne s c g (fun x => x.setCopy q none) h
  · exact (Map.find_put_of_ne _ _ h).trans (find_mapShare_of_ne s c g (fun x => x.setCopy q none) h)

@[simp] theorem copyLeft_copy : ((s.copyLeft c g q k ev).d.share c g).copy q = none := by
  cases ev <;> simp [State.copyLeft, enginePush_one]

theorem copyLeft_queue_quiet : ((s.copyLeft c g q k false).d.share c g).queue .qce = (s.d.share c g).queue .qce := by
  simp [State.copyLeft]

theorem copyLeft_queue_event : ((s.copyLeft c g q k true).d.share c g).queue .qce =
    (s.d.share c g).queue .qce ++ [{ k.event q with id := s.d.nextId }] := by
  simp [State.copyLeft, enginePush_one]

theorem copyLeft_frames (c' g' : Nat) : ((s.copyLeft c g q k ev).d.share c' g').frames = (s.d.share c' g').frames := by
  have h1 := frames_setShare (d := s.d) (Share.frames_setCopy (s.d.share c g) q none) c' g'
  cases ev
  · exact h1
  · exact (frames_setShare (by rfl) c' g').trans h1

end

/-- A completion token is for this device (R185, R225). -/
theorem device_copyTok {s : State} (h : s.d.devnum < 4096) (c : Nat) (k : CopyCmd) : (s.copyTok c k).device = s.d.devnum := by
  simp only [State.copyTok, tokenTo, mkToken, Token.device, bitsOf, BitVec.toNat_ofNat]
  omega

theorem payload_copyTok (s : State) (c : Nat) (k : CopyCmd) :
    (s.copyTok c k).w4 = if k.status = 0 then k.entry.data.getD 13 0 else BitVec.ofNat 32 (0xFFFFFF00 + k.status) := rfl

/-- A token sent to a core of this device that is not offline is the newest message on its circuit (R262). -/
theorem posted_sendTok {s u : State} {t : Token} (g : Nat) (hnet : u.d.net = s.d.net)
    (hframes : ∀ c' g', (u.d.share c' g').frames = (s.d.share c' g').frames) (hdev : t.device = u.d.devnum)
    (hon : (u.d.core t.dest).offline = false) : Posted [s.itemOf 0 0 t] g [[]] s (u.sendTok t g []) := by
  rw [sendTok_here u t g [] hdev hon]
  refine ⟨_, by rw [post_d, hnet], ?_, rfl, ?_⟩
  · simp [State.itemOf, frameTask_of_frames hframes]
  · simp

/-- What a send leaves of memory, the issuing warp and the shares, where the token is put on its circuit. -/
theorem sendTok_here_frame {u : State} {t : Token} (g : Nat) (hdev : t.device = u.d.devnum)
    (hon : (u.d.core t.dest).offline = false) :
    (u.sendTok t g []).mem = u.mem ∧ (u.sendTok t g []).w = u.w ∧ (u.sendTok t g []).d.shares = u.d.shares := by
  rw [sendTok_here u t g [] hdev hon]
  exact ⟨rfl, rfl, rfl⟩

/-- What a completion leaves: its event in QCE where it has one, its token on its circuit where it asks for one, and the engine
free (R185). -/
theorem copyCompleted_spec {s : State} {c : Nat} {k : CopyCmd} (g q : Nat) (ev : Bool) (hdev : s.d.devnum < 4096)
    (hon : k.entry.wantsTok = true → (s.d.core (s.copyTok c k).dest).offline = false) :
    let t := if k.entry.wantsTok then (s.copyLeft c g q k ev).sendTok (s.copyTok c k) g [] else s.copyLeft c g q k ev
    t.mem = s.mem ∧ t.w = s.w ∧ (∀ n, n ≠ shareKey c g → t.d.shares.find n = s.d.shares.find n) ∧
      (t.d.share c g).copy q = none ∧ (ev = false → (t.d.share c g).queue .qce = (s.d.share c g).queue .qce) ∧
      (ev = true → ∃ y, (t.d.share c g).queue .qce = (s.d.share c g).queue .qce ++ [y] ∧ y.data = (k.event q).data) ∧
      Posted (if k.entry.wantsTok then [s.itemOf 0 0 (s.copyTok c k)] else []) g (if k.entry.wantsTok then [[]] else []) s t ∧
      (s.copyTok c k).w4 = if k.status = 0 then k.entry.data.getD 13 0 else BitVec.ofNat 32 (0xFFFFFF00 + k.status) := by
  intro t
  have hpost : t.mem = (s.copyLeft c g q k ev).mem ∧ t.w = (s.copyLeft c g q k ev).w ∧
      t.d.shares = (s.copyLeft c g q k ev).d.shares ∧
      Posted (if k.entry.wantsTok then [s.itemOf 0 0 (s.copyTok c k)] else []) g (if k.entry.wantsTok then [[]] else []) s t := by
    cases ht : k.entry.wantsTok with
    | false =>
      simp only [t, ht, Bool.false_eq_true, if_false, true_and]
      exact ⟨[], by simp, rfl, rfl, by simp⟩
    | true =>
      have hdevice : (s.copyTok c k).device = (s.copyLeft c g q k ev).d.devnum := by simp [device_copyTok hdev]
      have honline : ((s.copyLeft c g q k ev).d.core (s.copyTok c k).dest).offline = false := by simp [hon ht]
      obtain ⟨hmem, hw, hshares⟩ := sendTok_here_frame g hdevice honline
      simp only [t, ht, if_true]
      exact ⟨hmem, hw, hshares, posted_sendTok g (copyLeft_net s c g q k ev) (copyLeft_frames s c g q k ev) hdevice honline⟩
  obtain ⟨hmem, hw, hshares, hposted⟩ := hpost
  have hshare : t.d.share c g = (s.copyLeft c g q k ev).d.share c g := by simp only [Dev.share, hshares]
  refine ⟨by simp [hmem], by simp [hw], fun n hn => ?_, by simp [hshare], ?_, ?_, hposted, payload_copyTok s c k⟩
  · rw [hshares, copyLeft_other s c g q k ev hn]
  · rintro rfl
    rw [hshare, copyLeft_queue_quiet]
  · rintro rfl
    exact ⟨{ k.event q with id := s.d.nextId }, by rw [hshare, copyLeft_queue_event], rfl⟩

section
variable {s : State} {c g q : Nat} {k : CopyCmd} (hq : q < 2) (hk : (s.d.share c g).copy q = some k) (hf : k.finished = true)
  (hrun : s.copyRuns c g = true)
include hq hk hf hrun

/-- A command whose context has ended leaves no event, and its token is dropped (R312). -/
theorem execCopyCompletion_orphan (ho : k.orphan = true) : execCopyCompletion c g q s =
    .next (if k.entry.wantsTok && s.copyHandle c k.entry then (s.copyLeft c g q k false).countDrop c
      else s.copyLeft c g q k false) := by
  have hends : s.copyEnds c k = true := by simp [State.copyEnds, ho]
  cases ht : k.entry.wantsTok && s.copyHandle c k.entry <;>
    simp [execCopyCompletion, hk, hf, hrun, Nat.not_lt.mpr (Nat.le_of_lt_succ hq), hends, ho, ht, State.copyLeft]

/-- Any other completes with the event and the token that it asks for, once its queue has room (R185). -/
theorem execCopyCompletion_runs (ho : k.orphan = false) (hst : (s.d.ctx c).state ≠ .ending)
    (htok : k.entry.wantsTok = true → s.copyHandle c k.entry = true)
    (hroom : bitOf k.entry.cmpl 0 = true → ((s.d.share c g).queue .qce).length < Queue.depth .qce) :
    execCopyCompletion c g q s =
      .next (if k.entry.wantsTok then (s.copyLeft c g q k (bitOf k.entry.cmpl 0)).sendTok (s.copyTok c k) g []
        else s.copyLeft c g q k (bitOf k.entry.cmpl 0)) := by
  have hends : s.copyEnds c k = false := by simp [State.copyEnds, ho, hst]
  have hfree : (bitOf k.entry.cmpl 0 && decide ((s.d.share c g).room .qce = 0)) = false := by
    cases hev : bitOf k.entry.cmpl 0 with
    | false => rfl
    | true =>
      have hlt := hroom hev
      exact decide_eq_false (by unfold Share.room; omega)
  have hq1 : ¬ 1 < q := by omega
  cases ht : k.entry.wantsTok with
  | false => simp [execCopyCompletion, hk, hf, hrun, hq1, hends, hfree, ht, State.copyLeft]
  | true => simp [execCopyCompletion, hk, hf, hrun, hq1, hends, hfree, ht, htok ht, ho, State.copyLeft]

end

/-! ### The copy engine (R18, R184, R185, R403) -/

/-- Settles O47, from the outcomes of a command taken, of a chunk, of a completion and of a link's copy. -/
theorem copyUnit : Obligations.CopyUnit := by
  intro s c g q hq x other
  refine ⟨?_, ?_, ?_, ?_, ?_, ?_⟩
  · intro e es hes hfree hrun hready s1 h e' ended
    refine ⟨fun hp => ?_, fun hp hbad => ?_, fun hp herr hbad => ?_⟩
    · exact ⟨_, _, execCopyCommand_marked hq hes hfree hrun hready hp, copyRefused_mem .., queue_copyRefused .., copy_copyRefused ..,
        rfl, rfl, rfl, rfl⟩
    · exact ⟨_, _, execCopyCommand_rejected hq hes hfree hrun hready hp hbad, copyRefused_mem .., queue_copyRefused ..,
        copy_copyRefused .., rfl, rfl, rfl, rfl⟩
    · exact execCopyCommand_taken hq hes hfree hrun hready hp herr hbad
  · intro k bs hk hf hpark hleave hrun hcol hrow hfault hbs hclean e da n after
    have hlen : bs.length = n := hbs ▸ length_chunkBytes s c g k
    have hexec : exec (.copyChunk c g q false) s = .next (s.copyChunk c g q k false) :=
      execCopyChunk_performs hq hk hf hpark hleave hrun
    have hafter : ∀ t : State, after (t.copyGoesOn c g q (k.after bs.length bs.length false)) := fun t => by
      rw [hlen]
      exact copyGoesOn_after t c g q n hf hrow
    refine ⟨⟨rfl, hlen⟩, ?_, ?_, ?_, ?_⟩
    · intro h hd hh hn hsplit pa
      obtain ⟨t, ht, hbyte⟩ := chunkWrite_memory hd hfault hclean hlen (chunk_pos hcol) hh hn hsplit
      have hgo := copyChunk_written (q := q) (fun h2 => absurd (hd.symm.trans h2) (by decide)) hfault hbs hclean ht
      exact ⟨_, hexec.trans (by rw [hgo]), hafter t, fun b => by rw [copyGoesOn_mem, hbyte]⟩
    · intro hd at_
      have hgo := copyChunk_written (q := q) (fun h2 => absurd (hd.symm.trans h2) (by decide)) hfault hbs hclean
        (chunkWrite_scratch s c g bs hd)
      refine ⟨_, hexec.trans (by rw [hgo]), hafter _, by simp, fun b => ?_⟩
      rw [copyGoesOn_coreByte, State.mapShare_d, Dev.share_setShare_self, coreByte_copyIn, hlen]
    · intro hfill j hj
      exact hbs ▸ chunkBytes_fill s c g hfill hj
    · intro hfill hs j hj
      exact hbs ▸ chunkBytes_scratch s c g hfill hs hj
  · intro k hk hf hpark hleave hrun hd hdev hpath
    have hexec : exec (.copyChunk c g q false) s = .next (s.copyChunk c g q k false) :=
      execCopyChunk_performs hq hk hf hpark hleave hrun
    rw [copyChunk_noPath hd hdev hpath] at hexec
    exact ⟨_, _, hexec, endCopy_mem .., endCopy_copy .., rfl, rfl, rfl⟩
  · intro k hk hf hrun ho
    refine ⟨_, execCopyCompletion_orphan hq hk hf hrun ho, ?_⟩
    have hother : other (s.copyLeft c g q k false) := fun n hn => copyLeft_other s c g q k false hn
    have hcopy := copyLeft_copy s c g q k false
    have hqueue := copyLeft_queue_quiet s c g q k
    cases k.entry.wantsTok && s.copyHandle c k.entry <;>
      exact ⟨copyLeft_mem s c g q k false, copyLeft_w s c g q k false, hother, hcopy, hqueue, copyLeft_net s c g q k false⟩
  · intro k hk hf hrun hst ho hdev htok ev hroom
    exact ⟨_, execCopyCompletion_runs hq hk hf hrun ho hst (fun ht => (htok ht).1) hroom,
      copyCompleted_spec g q ev hdev fun ht => (htok ht).2⟩
  · intro va bytes h hfree hend hf hpage hh hn hsplit pa
    obtain ⟨t, ht, hw, -, hbyte⟩ := engineWrite_inPage hf hpage hh hn hsplit
    refine ⟨t, ?_, hw, hbyte⟩
    show execDeviceLinkCopyTraffic c va bytes s = .next t
    simp [execDeviceLinkCopyTraffic, hfree, hend, hf, ht]

end Sys2Proof.Machine

namespace Sys2Proof.Machine

/-! ### The parts of an element (R164) -/

/-- Parts of an element, each a place and a size, that lie one after the other from `k` on and make up `n` bytes. -/
def Tiles : Nat → Nat → List (Nat × Nat) → Prop
  | _, n, [] => n = 0
  | k, n, p :: ps => p.1 = k ∧ 0 < p.2 ∧ p.2 ≤ n ∧ Tiles (k + p.2) (n - p.2) ps

theorem Tiles.sum {k n : Nat} {ps : List (Nat × Nat)} (h : Tiles k n ps) : (ps.map Prod.snd).sum = n := by
  induction ps generalizing k n with
  | nil => exact Eq.symm h
  | cons p ps ih =>
    obtain ⟨-, -, hle, hrest⟩ := h
    rw [List.map_cons, List.sum_cons, ih hrest]
    omega

theorem Tiles.bounds {k n : Nat} {ps : List (Nat × Nat)} (h : Tiles k n ps) {p : Nat × Nat} (hp : p ∈ ps) :
    0 < p.2 ∧ p.1 + p.2 ≤ k + n := by
  induction ps generalizing k n with
  | nil => exact absurd hp List.not_mem_nil
  | cons q ps ih =>
    obtain ⟨hat, hpos, hle, hrest⟩ := h
    rcases List.mem_cons.mp hp with rfl | hp
    · omega
    · have := ih hrest hp
      omega

theorem Tiles.covers {k n : Nat} {ps : List (Nat × Nat)} (h : Tiles k n ps) {j : Nat} (hk : k ≤ j) (hj : j < k + n) :
    ∃ p, p ∈ ps ∧ p.1 ≤ j ∧ j < p.1 + p.2 := by
  induction ps generalizing k n with
  | nil => have h : n = 0 := h; omega
  | cons q ps ih =>
    obtain ⟨hat, -, hle, hrest⟩ := h
    by_cases hq : j < k + q.2
    · exact ⟨q, List.mem_cons_self .., by omega, by omega⟩
    · obtain ⟨p, hp, hfrom, hto⟩ := ih hrest (by omega) (by omega)
      exact ⟨p, List.mem_cons_of_mem _ hp, hfrom, hto⟩

theorem pieceAt_size (a n : Nat) :
    pieceAt a n = 1 ∨ pieceAt a n = 2 ∨ pieceAt a n = 4 ∨ pieceAt a n = 8 ∨ pieceAt a n = 16 := by
  unfold pieceAt
  repeat' split
  all_goals omega

theorem mod_pieceAt (a n : Nat) : a % pieceAt a n = 0 := by
  unfold pieceAt
  simp only [Bool.and_eq_true, decide_eq_true_eq]
  repeat' split
  all_goals omega

theorem pieceAt_le (a : Nat) {n : Nat} (h : n ≠ 0) : pieceAt a n ≤ n := by
  unfold pieceAt
  simp only [Bool.and_eq_true, decide_eq_true_eq]
  repeat' split
  all_goals omega

/-- The pieces cut from an element make it up: each is of one byte at least, so `n` of them are enough. -/
theorem tiles_splitAligned {fuel n : Nat} (a k : Nat) (h : n ≤ fuel) : Tiles k n (splitAligned fuel a n k) := by
  induction fuel generalizing a n k with
  | zero => exact Nat.le_zero.mp h
  | succ fuel ih =>
    unfold splitAligned
    split
    · next h0 => exact h0
    · next h0 =>
      have hpos : 0 < pieceAt a n := by have := pieceAt_size a n; omega
      exact ⟨rfl, hpos, pieceAt_le a h0, ih _ _ (by omega)⟩

theorem aligned_of_mem_splitAligned {fuel a n k : Nat} {p : Nat × Nat} (h : p ∈ splitAligned fuel (a + k) n k) :
    (p.2 = 1 ∨ p.2 = 2 ∨ p.2 = 4 ∨ p.2 = 8 ∨ p.2 = 16) ∧ (a + p.1) % p.2 = 0 := by
  induction fuel generalizing n k with
  | zero => exact absurd h List.not_mem_nil
  | succ fuel ih =>
    unfold splitAligned at h
    split at h
    · exact absurd h List.not_mem_nil
    · rcases List.mem_cons.mp h with rfl | h
      · exact ⟨pieceAt_size _ _, mod_pieceAt _ _⟩
      · exact ih (Nat.add_assoc a k _ ▸ h)

theorem eszBytes_le (e : BitVec 3) : eszBytes e ≤ 16 := by
  unfold eszBytes
  split <;> omega

/-- A narrow element takes one byte at least. -/
theorem elemAt_size_pos (f : NFmt) (e : Int) : 0 < (f.elemAt e).2.1 := by
  unfold NFmt.elemAt
  dsimp only
  split
  · dsimp only
    split <;> omega
  · split <;> exact Nat.one_pos

/-! ### The pieces of a word's lanes -/

theorem nodup_lanesOf (m : Lanes) : (lanesOf m).Nodup := List.nodup_range.filter _

theorem lanesOf_and (a b : Lanes) : lanesOf (a &&& b) = (lanesOf a).filter fun l => b.getLsbD l := by
  simp [lanesOf, List.filter_filter, Bool.and_comm]

/-- A test of joined lists that tells only which of them an element is of. -/
theorem filter_flatMap_of_const {α : Type} {f : Nat → List α} {p : α → Bool} {c : Nat → Bool} {ls : List Nat}
    (h : ∀ l, l ∈ ls → ∀ x, x ∈ f l → p x = c l) : (ls.flatMap f).filter p = (ls.filter c).flatMap f := by
  induction ls with
  | nil => rfl
  | cons l ls ih =>
    have hhead := h l (List.mem_cons_self ..)
    rw [List.flatMap_cons, List.filter_append, ih fun k hk => h k (List.mem_cons_of_mem _ hk)]
    cases hc : c l with
    | true =>
      rw [List.filter_cons_of_pos hc, List.flatMap_cons, List.filter_eq_self.mpr fun x hx => (hhead x hx).trans hc]
    | false =>
      rw [List.filter_cons_of_neg (by simp [hc]), List.filter_eq_nil_iff.mpr fun x hx => by simp [hhead x hx, hc],
        List.nil_append]

/-- Of a list without repetitions an element is kept once. -/
theorem filter_beq_of_nodup {ls : List Nat} (hnd : ls.Nodup) {l : Nat} (hl : l ∈ ls) : ls.filter (· == l) = [l] := by
  induction ls with
  | nil => exact absurd hl List.not_mem_nil
  | cons k ls ih =>
    obtain ⟨hk, hnd⟩ := List.nodup_cons.mp hnd
    by_cases hkl : k = l
    · subst hkl
      have hnone : ls.filter (· == k) = [] := List.filter_eq_nil_iff.mpr fun j hj hjk => hk (beq_iff_eq.mp hjk ▸ hj)
      rw [List.filter_cons, if_pos (beq_self_eq_true k), hnone]
    · rw [List.filter_cons, if_neg fun h => hkl (beq_iff_eq.mp h), ih hnd ((List.mem_cons.mp hl).resolve_left (Ne.symm hkl))]

/-- Of lists that each hold the elements of one key, joined over different keys, those of a key are its own list. -/
theorem filter_flatMap_key {α : Type} {key : α → Nat} {f : Nat → List α} {ls : List Nat} (hnd : ls.Nodup)
    (hkey : ∀ k, k ∈ ls → ∀ x, x ∈ f k → key x = k) {l : Nat} (hl : l ∈ ls) :
    (ls.flatMap f).filter (fun x => key x = l) = f l := by
  rw [filter_flatMap_of_const (c := (· == l)) fun k hk x hx => by rw [hkey k hk x hx]; rfl,
    filter_beq_of_nodup hnd hl, List.flatMap_cons, List.flatMap_nil, List.append_nil]

/-- Pieces that make up each lane's element are the pieces of the word. -/
theorem covers_flatMap {act : Lanes} {f : Nat → List Piece} {n : Nat → Nat} {good : Nat → Piece → Prop}
    (htiles : ∀ l, l ∈ lanesOf act → Tiles 0 (n l) ((f l).map fun p => (p.byteOfs, p.size)))
    (hlane : ∀ l, l ∈ lanesOf act → ∀ p, p ∈ f l → p.lane = l)
    (hgood : ∀ l, l ∈ lanesOf act → ∀ p, p ∈ f l → good l p) :
    Covers act ((lanesOf act).flatMap f) n good := by
  refine ⟨fun l k h32 hl hk => ?_, fun l h32 hl => ?_, fun p hp => ?_⟩
  · have hmem := (mem_lanesOf act l).mpr ⟨h32, hl⟩
    obtain ⟨q, hq, hfrom, hto⟩ := (htiles l hmem).covers (Nat.zero_le k) (by omega)
    obtain ⟨p, hp, rfl⟩ := List.mem_map.mp hq
    exact ⟨p, List.mem_flatMap.mpr ⟨l, hmem, hp⟩, hlane l hmem p hp, hfrom, hto⟩
  · have hmem := (mem_lanesOf act l).mpr ⟨h32, hl⟩
    rw [filter_flatMap_key (nodup_lanesOf act) hlane hmem, ← (htiles l hmem).sum, List.map_map]
    rfl
  · obtain ⟨l, hmem, hp⟩ := List.mem_flatMap.mp hp
    obtain ⟨h32, hl⟩ := (mem_lanesOf act l).mp hmem
    obtain rfl := hlane l hmem p hp
    have hbounds := (htiles _ hmem).bounds (List.mem_map_of_mem hp)
    exact ⟨h32, hl, by simpa using hbounds.2, hgood _ hmem p hp⟩

theorem Covers.imp {act : Lanes} {ps : List Piece} {n : Nat → Nat} {good good' : Nat → Piece → Prop}
    (h : Covers act ps n good) (himp : ∀ l p, good l p → good' l p) : Covers act ps n good' := by
  obtain ⟨hcover, hsum, hpiece⟩ := h
  refine ⟨hcover, hsum, fun p hp => ?_⟩
  obtain ⟨h32, hl, hle, hgood⟩ := hpiece p hp
  exact ⟨h32, hl, hle, himp _ _ hgood⟩

/-! ### An operation put in flight (R54, R55, R259) -/

theorem putInFlight_launchOp (s : State) (i : Instr) (o : MemOp) (ps : List Piece) (ho : o.counted = true) :
    PutInFlight i { o with id := s.d.nextId, pieces := ps } s ((s.launchOp o ps).advance i) := by
  cases ps with
  | nil => simp [PutInFlight, State.launchOp]
  | cons p ps => simp [PutInFlight, State.launchOp, State.fresh, State.mapWarp, ho]

theorem PutInFlight.mem {i : Instr} {o : MemOp} {s t : State} (h : PutInFlight i o s t) : t.mem = s.mem := by
  unfold PutInFlight at h
  split at h
  · rw [h]; rfl
  · rw [h.2]; rfl

/-! ### The checks of a word's lanes (R54, R160, R251) -/

/-- A word whose counter is not at 255 does not stall (R54). -/
theorem counted_of_ne {s : State} {k : CounterClass} (h : s.w.counter k ≠ 255) (f : State) : s.counted k f = f := if_neg h

theorem badLanes_eq_zero {act : Lanes} {f : Nat → Bool} (h : ∀ l, l < 32 → act.getLsbD l = true → f l = false) :
    badLanes act f = 0 := by
  refine BitVec.eq_of_getLsbD_eq fun l hl => ?_
  rw [badLanes, getLsbD_maskOf]
  cases ha : act.getLsbD l with
  | false => simp
  | true => simp [h l hl ha]

/-- A check that no active lane fails lets the word go on. -/
theorem guardLanes_pass {act : Lanes} {f : Nat → Bool} (h : ∀ l, l < 32 → act.getLsbD l = true → f l = false) (s : State)
    (code : Nat) (addr : Nat → Nat) (d0 : Nat → Word) (k : State) : s.guardLanes code (badLanes act f) addr d0 k = k :=
  if_pos (badLanes_eq_zero h)

/-- Aligned addresses below 2^57 pass the checks of global addresses. -/
theorem guardGlobal_pass {act : Lanes} {align : Nat} {va : Nat → Nat}
    (halign : ∀ l, l < 32 → act.getLsbD l = true → va l % align = 0)
    (hrange : ∀ l, l < 32 → act.getLsbD l = true → va l < 2 ^ 57) (s k : State) : s.guardGlobal act align va k = k := by
  unfold State.guardGlobal
  rw [guardLanes_pass fun l hl ha => by simp [halign l hl ha],
    guardLanes_pass fun l hl ha => decide_eq_false (Nat.not_le.mpr (hrange l hl ha))]

/-! ### Translated pieces (R53, R160, R332, R344) -/

/-- Whether a wanted piece translates with the permission and needs no copy for a revision first. -/
def State.Admits (s : State) (base : GBase) (kind : Nat) (q : Want) : Prop :=
  s.accessFault s.w.ctx s.w.task ((base.va + q.off) % 2 ^ 64) kind (s.hit s.w.core s.w.ctx base q.off) = none ∧
  (kind ≠ 0 → (s.d.ctx s.w.ctx).needsPage s.w.task ((base.va + q.off) % 2 ^ 64) = false)

/-- The translation of an offset that no page maps, never used where an access is admitted. -/
def Hit.absent : Hit := { pa := 0, r := false, w := false, nol1 := false, sysAtomic := false }

/-- The piece of an admitted want. -/
def State.pieceOf (s : State) (base : GBase) (ca sys : Bool) (kind : Nat) (q : Want) : Piece :=
  let h := (s.hit s.w.core s.w.ctx base q.off).getD Hit.absent
  { lane := q.lane, va := (base.va + q.off) % 2 ^ 64, place := .phys h.pa, size := q.size, byteOfs := q.byteOfs
    act := q.act.setWhole (isDevice h.pa || (sys && h.sysAtomic)), poisonMark := false, covers := false
    l1 := ca && !h.nol1 && kind = 0, ok := true, lanes := q.lanes }

/-- An access without a fault translates, and R342 does not forbid it. -/
theorem hit_of_accessFault_none {s : State} {c task va kind : Nat} {h : Option Hit} (hf : s.accessFault c task va kind h = none) :
    ∃ x, h = some x ∧ (kind ≠ 0 → (s.d.ctx c).hostBarred va x.pa = false) := by
  cases h with
  | none => simp [State.accessFault] at hf
  | some x =>
    refine ⟨x, rfl, fun hk => ?_⟩
    cases hbar : (s.d.ctx c).hostBarred va x.pa with
    | false => rfl
    | true =>
      unfold State.accessFault at hf
      dsimp only at hf
      split at hf <;> simp [hk, hbar] at hf

/-- An admitted want adds its piece to the plan, or nothing where its lane is poisoned (R44). -/
theorem Plan.add_admitted {x : Plan} {base : GBase} {kind : Nat} {q : Want} (h : x.state.Admits base kind q) (ca sys : Bool) :
    Plan.add base ca sys kind x q =
      if q.gone then x else { x with pieces := x.pieces ++ [x.state.pieceOf base ca sys kind q] } := by
  obtain ⟨hf, hpage⟩ := h
  obtain ⟨t, ht, hbar⟩ := hit_of_accessFault_none hf
  rw [ht] at hf
  have hcow : (if kind = 0 then x.state else
      (x.state.cow x.state.w.ctx x.state.w.task ((base.va + q.off) % 2 ^ 64) t.pa).getD x.state) = x.state := by
    split
    · rfl
    · next hk => rw [cow_unneeded (hbar hk) (hpage hk)]; rfl
  unfold Plan.add
  dsimp only
  rw [ht, hf]
  dsimp only
  rw [hcow]
  cases hg : q.gone <;> simp [State.pieceOf, ht]

/-- The plan of admitted wants: the pieces of the lanes that are not poisoned, no miss and no change of the state. -/
theorem plan_admitted {s : State} {base : GBase} {kind : Nat} {ws : List Want} (h : ∀ q, q ∈ ws → s.Admits base kind q)
    (ca sys : Bool) : s.plan base ca sys kind ws =
      { state := s, pieces := (ws.filter fun q => !q.gone).map (s.pieceOf base ca sys kind), misses := [] } := by
  suffices hfold : ∀ ps, ws.foldl (Plan.add base ca sys kind) { state := s, pieces := ps, misses := [] } =
      { state := s, pieces := ps ++ (ws.filter fun q => !q.gone).map (s.pieceOf base ca sys kind), misses := [] } from hfold []
  induction ws with
  | nil => simp
  | cons q ws ih =>
    intro ps
    have hrest := ih fun q hq => h q (List.mem_cons_of_mem _ hq)
    rw [List.foldl_cons, Plan.add_admitted (h q (List.mem_cons_self ..))]
    cases hg : q.gone <;> simp [hg, hrest]

theorem foldl_of_fixed {α β : Type} {g : α → β → α} {a : α} (h : ∀ b, g a b = a) (bs : List β) : bs.foldl g a = a := by
  induction bs with
  | nil => rfl
  | cons b bs ih => rw [List.foldl_cons, h, ih]

/-- With no lane that faulted none is left unfinished. -/
theorem unfinished_nil (write : Bool) (ps : List Piece) : unfinished write ps [] = [] :=
  foldl_of_fixed (fun p => by simp) ps

/-- A piece with its lines' cover noted (R165). -/
def Piece.withCover (f : Piece → Bool) (p : Piece) : Piece := { p with covers := f p }

theorem map_withCover (c : Piece → Bool) (ps : List Piece) :
    (ps.map fun p => if c p then { p with covers := true } else p) = ps.map (Piece.withCover fun p => c p || p.covers) := by
  refine List.map_congr_left fun p _ => ?_
  cases hc : c p <;> simp [Piece.withCover, hc]

/-- Without misses every piece is performed: of each it is only settled whether its line is covered. -/
theorem settled_of_no_misses {x : Plan} (h : x.misses = []) (kind : Nat) (rls : Bool) :
    ∃ f, x.settled kind rls = x.pieces.map (Piece.withCover f) := by
  unfold Plan.settled
  simp only [h, List.isEmpty_nil, Bool.not_true, Bool.and_false, Bool.false_eq_true, if_false, List.map_nil, unfinished_nil,
    List.contains_nil, List.map_id']
  split
  · exact ⟨Piece.covers, (List.map_id _).symm⟩
  · exact ⟨_, map_withCover _ _⟩

/-! ### The wants of a lane (R164, R168) -/

/-- The wants of a lane: they make up its element of `n` bytes at an offset, each with the act of its part. -/
structure LaneWants (l off n : Nat) (gone : Bool) (act : Nat → Nat → Act) (ws : List Want) : Prop where
  tiles : Tiles 0 n (ws.map fun q => (q.byteOfs, q.size))
  lane : ∀ q, q ∈ ws → q.lane = l
  off : ∀ q, q ∈ ws → q.off = (off + q.byteOfs) % 2 ^ 64
  act : ∀ q, q ∈ ws → q.act = act q.byteOfs q.size
  gone : ∀ q, q ∈ ws → q.gone = gone

theorem laneWants_wants (base : GBase) (l off : Nat) {n : Nat} (gone : Bool) (act : Nat → Nat → Act) (h : n ≤ 16) :
    LaneWants l off n gone act (wants base l off n gone act) := by
  have htiles := tiles_splitAligned ((base.va + off) % 2 ^ 64) 0 (show n ≤ 17 by omega)
  refine ⟨?_, ?_, ?_, ?_, ?_⟩
  · simpa [wants, Function.comp_def] using htiles
  all_goals
    intro q hq
    obtain ⟨p, -, rfl⟩ := List.mem_map.mp hq
    rfl

theorem laneWants_narrowWants (cut : Nat) (base : GBase) (l : Nat) {off n : Nat} (gone : Bool) (act : Nat → Nat → Act)
    (hn : 0 < n) (hoff : off < 2 ^ 64) : LaneWants l off n gone act (narrowWants cut base l off n gone act) := by
  have hmod : off = off % 2 ^ 64 := (Nat.mod_eq_of_lt hoff).symm
  unfold narrowWants
  split
  · next hcut =>
    obtain ⟨rfl, -⟩ : n = 2 ∧ _ := by simpa using hcut
    exact ⟨by simp [Tiles], by simp, by simpa using hmod, by simp, by simp⟩
  · exact ⟨by simp [Tiles, hn], by simp, by simpa using hmod, by simp, by simp⟩

/-- The address of an offset within an element. -/
theorem va_add_mod (a b k : Nat) : (a + (b + k) % 2 ^ 64) % 2 ^ 64 = (a + b + k) % 2 ^ 64 := by
  rw [Nat.add_mod_mod, Nat.add_assoc]

/-- The pieces of an element are naturally aligned (R164). -/
theorem aligned_of_mem_wants {base : GBase} {l off n : Nat} {gone : Bool} {act : Nat → Nat → Act} {q : Want}
    (h : q ∈ wants base l off n gone act) :
    (q.size = 1 ∨ q.size = 2 ∨ q.size = 4 ∨ q.size = 8 ∨ q.size = 16) ∧ (base.va + q.off) % 2 ^ 64 % q.size = 0 := by
  obtain ⟨p, hp, rfl⟩ := List.mem_map.mp h
  obtain ⟨hsize, hmod⟩ := aligned_of_mem_splitAligned (a := (base.va + off) % 2 ^ 64) (k := 0) hp
  refine ⟨hsize, ?_⟩
  dsimp only
  rw [va_add_mod]
  have hva : ((base.va + off) % 2 ^ 64 + p.1) % 2 ^ 64 = (base.va + off + p.1) % 2 ^ 64 := Nat.mod_add_mod ..
  have hdvd : p.2 ∣ 2 ^ 64 := by
    rcases hsize with h | h | h | h | h <;> rw [h] <;> decide
  rw [← hva, Nat.mod_mod_of_dvd _ hdvd, hmod]

section
variable {s : State} {base : GBase} {kind l off n : Nat} {gone : Bool} {act : Nat → Nat → Act} {ws : List Want}

/-- A lane whose bytes are all reached is admitted. -/
theorem LaneWants.admitted (hw : LaneWants l off n gone act ws) (hr : s.Reaches base kind off n) {q : Want} (hq : q ∈ ws) :
    s.Admits base kind q := by
  have hbounds := hw.tiles.bounds (List.mem_map_of_mem hq)
  have hk := hr q.byteOfs (by omega)
  rwa [← va_add_mod, ← hw.off q hq] at hk

/-- The pieces of a reached lane stand at the places their addresses translate to. -/
theorem LaneWants.globalPiece (hw : LaneWants l off n gone act ws) (hr : s.Reaches base kind off n)
    (hact : ∀ k m b, (act k m).setWhole b = act k m) (ca sys : Bool) (f : Piece → Bool) {q : Want} (hq : q ∈ ws) :
    GlobalPiece s base off act ((s.pieceOf base ca sys kind q).withCover f) := by
  obtain ⟨h, hh, -⟩ := hit_of_accessFault_none (hw.admitted hr hq).1
  refine ⟨rfl, ?_, ?_, h, ?_, ?_⟩
  · show (base.va + q.off) % 2 ^ 64 = (base.va + off + q.byteOfs) % 2 ^ 64
    rw [hw.off q hq, va_add_mod]
  · show q.act.setWhole _ = act q.byteOfs q.size
    rw [hw.act q hq, hact]
  · show s.hit s.w.core s.w.ctx base ((off + q.byteOfs) % 2 ^ 64) = some h
    rw [← hw.off q hq, hh]
  · simp [Piece.withCover, State.pieceOf, hh]

end

/-- A global word whose wants all are admitted puts one operation in flight, whose pieces make up the elements of its active
lanes that are not poisoned (R44). -/
theorem issue_plan_admitted {s : State} {base : GBase} {kind : Nat} {act skip : Lanes} {off n : Nat → Nat}
    {acts : Nat → Nat → Nat → Act} {ws : Nat → List Want} {good : Nat → Piece → Prop} (i : Instr) {o : MemOp} (ca sys : Bool)
    (ho : o.counted = true)
    (hws : ∀ l, l ∈ lanesOf act → LaneWants l (off l) (n l) (skip.getLsbD l) (acts l) (ws l))
    (hreach : ∀ l, l ∈ lanesOf act → s.Reaches base kind (off l) (n l))
    (hgood : ∀ l, l ∈ lanesOf act → ∀ q, q ∈ ws l → ∀ f, good l ((s.pieceOf base ca sys kind q).withCover f)) :
    ∃ ps, PutInFlight i { o with id := s.d.nextId, pieces := ps } s
        ((s.plan base ca sys kind ((lanesOf act).flatMap ws)).issue i kind o) ∧
      Covers (act &&& ~~~ skip) ps n good := by
  have hadmit : ∀ q, q ∈ (lanesOf act).flatMap ws → s.Admits base kind q := fun q hq => by
    obtain ⟨l, hl, hq⟩ := List.mem_flatMap.mp hq
    exact (hws l hl).admitted (hreach l hl) hq
  rw [plan_admitted hadmit]
  obtain ⟨f, hf⟩ := settled_of_no_misses (x := ⟨s, (((lanesOf act).flatMap ws).filter fun q => !q.gone).map
    (s.pieceOf base ca sys kind), []⟩) rfl kind o.rls
  refine ⟨_, putInFlight_launchOp s i o _ ho, ?_⟩
  have hlive : (((lanesOf act).flatMap ws).filter fun q => !q.gone) = (lanesOf (act &&& ~~~ skip)).flatMap ws := by
    rw [lanesOf_and]
    refine (filter_flatMap_of_const fun l hl q hq => ?_)
    have h32 := ((mem_lanesOf act l).mp hl).1
    simp [(hws l hl).gone q hq, h32]
  rw [hf, hlive, List.map_map, List.map_flatMap]
  have hsub : ∀ l, l ∈ lanesOf (act &&& ~~~ skip) → l ∈ lanesOf act := fun l hl =>
    (List.mem_filter.mp (lanesOf_and act (~~~ skip) ▸ hl)).1
  refine covers_flatMap (fun l hl => ?_) (fun l hl p hp => ?_) (fun l hl p hp => ?_)
  · rw [List.map_map]
    exact (hws l (hsub l hl)).tiles
  · obtain ⟨q, hq, rfl⟩ := List.mem_map.mp hp
    exact (hws l (hsub l hl)).lane q hq
  · obtain ⟨q, hq, rfl⟩ := List.mem_map.mp hp
    exact hgood l (hsub l hl) q hq f

/-! ### Global stores (R44, R167, R168) -/

@[simp] theorem rebind_mem (s : State) (a : Spec) : (s.rebind a).mem = s.mem := by
  unfold State.rebind
  repeat' split
  all_goals rfl

@[simp] theorem rebind_stc (s : State) (a : Spec) : (s.rebind a).w.stc = s.w.stc := by
  unfold State.rebind
  repeat' split
  all_goals rfl

/-- Where no element is suppressed there is no record of one (R44). -/
@[simp] theorem sinkNote_zero (s : State) (va : Nat → Nat) : s.sinkNote 0 va = s := if_pos rfl

/-- What a part of a lane's stored element writes: masked bits under `.NFn`, else its bytes of the data (R168). -/
def State.storeAct (s : State) (x : MemW) (l k n : Nat) : Act :=
  if x.esz = 7 then
    let f := nfmt (s.fdWord x.scope.toNat)
    let sh := (s.lanePlace x l).2.2.1
    let bits := (s.lanePlace x l).2.2.2
    .bits (dataPart ((s.w.read32 x.d l 3).toNat % 2 ^ f.width * 2 ^ sh) k n) (dataPart ((2 ^ bits - 1) * 2 ^ sh) k n)
  else .store (dataPart (s.w.storeWords x.d (eszWords x.esz) l) k n)

theorem storeAct_narrow {x : MemW} (h : x.esz = 7) (s : State) (l : Nat) : s.storeAct x l = fun k n =>
    .bits (dataPart ((s.w.read32 x.d l 3).toNat % 2 ^ (nfmt (s.fdWord x.scope.toNat)).width * 2 ^ (s.lanePlace x l).2.2.1) k n)
      (dataPart ((2 ^ (s.lanePlace x l).2.2.2 - 1) * 2 ^ (s.lanePlace x l).2.2.1) k n) := by
  funext k n
  exact if_pos h

theorem storeAct_wide {x : MemW} (h : x.esz ≠ 7) (s : State) (l : Nat) :
    s.storeAct x l = fun k n => .store (dataPart (s.w.storeWords x.d (eszWords x.esz) l) k n) := by
  funext k n
  exact if_neg h

/-- An update of bits or a plain store is performed alike wherever it lies: R269 speaks of atomics. -/
theorem setWhole_storeAct (s : State) (x : MemW) (l k n : Nat) (whole : Bool) :
    (s.storeAct x l k n).setWhole whole = s.storeAct x l k n := by
  unfold State.storeAct
  split <;> rfl

theorem storeWants_narrow {x : MemW} (h : x.esz = 7) (s : State) (base : GBase) (off : Nat → Nat) (l : Nat) :
    s.storeWants x base off l =
      narrowWants 4096 base l (off l) (s.lanePlace x l).2.1 (s.w.poisoned.getLsbD l) (s.storeAct x l) := by
  rw [storeAct_narrow h]
  exact if_pos h

theorem storeWants_wide {x : MemW} (h : x.esz ≠ 7) (s : State) (base : GBase) (off : Nat → Nat) (l : Nat) :
    s.storeWants x base off l =
      wants base l (off l) (s.lanePlace x l).2.1 (s.w.poisoned.getLsbD l) (s.storeAct x l) := by
  rw [storeAct_wide h]
  exact if_neg h

theorem lanePlace_size_narrow {x : MemW} (h : x.esz = 7) (s : State) (l : Nat) : 0 < (s.lanePlace x l).2.1 := by
  unfold State.lanePlace
  simp only [h, if_true]
  exact elemAt_size_pos _ _

theorem lanePlace_size_wide {x : MemW} (h : x.esz ≠ 7) (s : State) (l : Nat) : (s.lanePlace x l).2.1 ≤ 16 := by
  unfold State.lanePlace
  simp only [h, if_false]
  exact eszBytes_le _

theorem laneWants_storeWants (s : State) (x : MemW) (base : GBase) {off : Nat → Nat} {l : Nat} (hoff : off l < 2 ^ 64) :
    LaneWants l (off l) (s.lanePlace x l).2.1 (s.w.poisoned.getLsbD l) (s.storeAct x l) (s.storeWants x base off l) := by
  by_cases h : x.esz = 7
  · rw [storeWants_narrow h]
    exact laneWants_narrowWants _ _ _ _ _ (lanePlace_size_narrow h s l) hoff
  · rw [storeWants_wide h]
    exact laneWants_wants _ _ _ _ _ (lanePlace_size_wide h s l)

/-- A global store whose active lanes may all write. -/
theorem globalStore_inFlight {t : State} {i : Instr} {x : MemW} {base : GBase} {off : Nat → Nat} (hstc : t.w.counter .st ≠ 255)
    (hoff : ∀ l, off l < 2 ^ 64) {t1 : State}
    (ht1 : t1 = t.sinkNote (t.w.active x.g &&& t.w.poisoned) fun l => (base.va + off l) % 2 ^ 64)
    (hlanes : ∀ l, l < 32 → (t.w.active x.g).getLsbD l = true →
      (base.va + off l) % 2 ^ 64 < 2 ^ 57 ∧ t1.Reaches base 1 (off l) (t.lanePlace x l).2.1) :
    ∃ ps, PutInFlight i { t.storeOp i x.ctl.rls with id := t1.d.nextId, pieces := ps } t1 (t.globalStore i x base off) ∧
      Covers (t.w.active x.g &&& ~~~ t.w.poisoned) ps (fun l => (t.lanePlace x l).2.1) fun l p =>
        GlobalPiece t1 base (off l) (t.storeAct x l) p ∧ (x.esz ≠ 7 → p.Aligned p.va) := by
  have hpass : t.globalStore i x base off =
      (t1.plan base false false 1 ((lanesOf (t.w.active x.g)).flatMap (t.storeWants x base off))).issue i 1
        (t.storeOp i x.ctl.rls) := by
    unfold State.globalStore
    rw [counted_of_ne hstc, guardGlobal_pass (fun l _ _ => Nat.mod_one _) (fun l hl ha => (hlanes l hl ha).1), ht1]
  have hlane := fun l (hl : l ∈ lanesOf (t.w.active x.g)) => (mem_lanesOf _ l).mp hl
  have hreach := fun l hl => (hlanes l (hlane l hl).1 (hlane l hl).2).2
  have hws := fun l (_ : l ∈ lanesOf (t.w.active x.g)) => laneWants_storeWants t x base (hoff l)
  rw [hpass]
  refine issue_plan_admitted i false false rfl hws hreach fun l hl q hq f =>
    ⟨(hws l hl).globalPiece (hreach l hl) (setWhole_storeAct t x l) false false f hq, fun hesz => ?_⟩
  rw [storeWants_wide hesz] at hq
  exact aligned_of_mem_wants hq

theorem exec_st_ok {s : State} {x : MemW} (h : s.wordFault (.st x) = none) : exec (.st x) s =
    .next ((s.rebind x.a).globalStore (.st x) x ((s.rebind x.a).w.gbase x.a) ((s.rebind x.a).ldOff x)) :=
  (show exec (.st x) s = execSt x s from rfl).trans (checked_ok h _)

theorem exec_stx_ok {s : State} {x : MemW} (h : s.wordFault (.stx x) = none) :
    exec (.stx x) s = .next (s.globalStore (.stx x) x (.virt 0) (s.ldxOff x)) :=
  (show exec (.stx x) s = execStx x s from rfl).trans (checked_ok h _)

/-- Settles O16: the checks pass, every wanted piece is admitted, and those of the lanes that are not poisoned are in flight. -/
theorem globalStores : Obligations.GlobalStores := by
  intro s t x i base off hcase hfault hstc act va t1 hlanes
  have hexec : exec i s = .next (t.globalStore i x base off) := by
    rcases hcase with ⟨rfl, rfl, rfl, rfl⟩ | ⟨rfl, rfl, rfl, rfl⟩
    · exact exec_st_ok hfault
    · exact exec_stx_ok hfault
  have hstc' : t.w.counter .st ≠ 255 := by rcases hcase with ⟨-, rfl, -⟩ | ⟨-, rfl, -⟩ <;> simpa [Warp.counter] using hstc
  have hmem : t.mem = s.mem := by rcases hcase with ⟨-, rfl, -⟩ | ⟨-, rfl, -⟩ <;> simp
  have hoff : ∀ l, off l < 2 ^ 64 := fun l => by
    rcases hcase with ⟨-, -, -, rfl⟩ | ⟨-, -, -, rfl⟩ <;> exact wrapInt_lt 64 _
  obtain ⟨ps, hflight, hcovers⟩ := globalStore_inFlight (i := i) hstc' hoff rfl hlanes
  refine ⟨_, _, hexec, hflight, rfl, fun hnone => ?_, hcovers.imp fun l p hp => ?_⟩
  · rw [hflight.mem, ← hmem, hnone, sinkNote_zero]
  · obtain ⟨hpiece, haligned⟩ := hp
    by_cases h : x.esz = 7
    · rw [storeAct_narrow h] at hpiece
      exact (if_pos h).mpr hpiece
    · rw [storeAct_wide h] at hpiece
      exact (if_neg h).mpr ⟨hpiece, haligned h⟩

/-! ### Core memory (R43, R120, R161, R162) -/

theorem corePiece_of_mem_corePieces {g byte lane n : Nat} {mark : Bool} {act : Nat → Nat → Act} {p : Piece}
    (h : p ∈ corePieces g byte lane n mark act) : p.lane = lane ∧ CorePiece (g, byte) act p ∧ p.poisonMark = mark := by
  obtain ⟨q, hq, rfl⟩ := List.mem_map.mp h
  exact ⟨rfl, ⟨rfl, rfl, rfl, aligned_of_mem_splitAligned (a := byte) (k := 0) hq⟩, rfl⟩

/-- An operation over core memory put in flight: its pieces make up each active lane's element at its place. -/
theorem launch_corePieces {o : MemOp} (ho : o.counted = true) (s : State) (i : Instr) (act : Lanes) (at_ : Nat → Nat × Nat)
    {n : Nat} (hn : n ≤ 16) (mark : Nat → Bool) (acts : Nat → Nat → Nat → Act) :
    ∃ ps, PutInFlight i { o with id := s.d.nextId, pieces := ps } s ((s.launchOp o ((lanesOf act).flatMap fun l =>
        corePieces (at_ l).1 (at_ l).2 l n (mark l) (acts l))).advance i) ∧
      Covers act ps (fun _ => n) fun l p => CorePiece (at_ l) (acts l) p ∧ p.poisonMark = mark l := by
  refine ⟨_, putInFlight_launchOp s i o _ ho, covers_flatMap (fun l _ => ?_)
    (fun l _ p hp => (corePiece_of_mem_corePieces hp).1) fun l _ p hp => (corePiece_of_mem_corePieces hp).2⟩
  simpa [corePieces, Function.comp_def] using tiles_splitAligned (at_ l).2 0 (show n ≤ 17 by omega)

theorem flatMap_eq_of_eq {α β : Type} {ls : List α} {f g : α → List β} (h : ∀ l, l ∈ ls → f l = g l) :
    ls.flatMap f = ls.flatMap g := by
  rw [List.flatMap_def, List.flatMap_def, List.map_congr_left h]

section
variable {s : State} {x : MemW} {act : Lanes} {at_ at' : Nat → Nat × Nat}

theorem coreLoad_congr (h : ∀ l, l ∈ lanesOf act → at' l = at_ l) (i : Instr) :
    s.coreLoad i x act at' = s.coreLoad i x act at_ := by
  unfold State.coreLoad
  rw [flatMap_eq_of_eq fun l hl => by rw [h l hl]]

theorem coreStore_congr (h : ∀ l, l ∈ lanesOf act → at' l = at_ l) (i : Instr) :
    s.coreStore i x act at' = s.coreStore i x act at_ := by
  unfold State.coreStore
  rw [flatMap_eq_of_eq fun l hl => by rw [h l hl]]

end

section
variable {s : State} {x : MemW} {at_ : Nat → Nat × Nat} {k : Lanes → (Nat → Nat × Nat) → State}

/-- A scratch word whose active lanes pass every check of R161 and R162 accesses their places. -/
theorem scratchWord_pass (h : ∀ l, l < 32 → (s.w.active x.g).getLsbD l = true → s.ScratchAt x l (at_ l))
    (hk : ∀ at', (∀ l, l ∈ lanesOf (s.w.active x.g) → at' l = at_ l) → k (s.w.active x.g) at' = k (s.w.active x.g) at_) :
    s.scratchWord x k = k (s.w.active x.g) at_ := by
  unfold State.scratchWord
  unfold State.ScratchAt at h
  by_cases hsub : x.sub = 0
  · simp only [hsub, if_true] at h ⊢
    rw [guardLanes_pass fun l hl ha => by
      obtain ⟨hfrom, hto, -⟩ := h l hl ha
      simp only [Bool.or_eq_false_iff, decide_eq_false_iff_not]
      omega]
    refine hk _ fun l hl => ?_
    obtain ⟨h32, ha⟩ := (mem_lanesOf _ l).mp hl
    exact (h l h32 ha).2.2.symm
  · simp only [hsub, if_false] at h ⊢
    rw [guardLanes_pass fun l hl ha => by
        obtain ⟨win, g, m, hcore, -⟩ := h l hl ha
        simp [hcore],
      guardLanes_pass fun l hl ha => by
        obtain ⟨win, g, m, hcore, -, hfrom, hto, -⟩ := h l hl ha
        simp only [hcore, Option.map_some, Option.getD_some, Bool.or_eq_false_iff, decide_eq_false_iff_not]
        omega,
      guardLanes_pass fun l hl ha => by
        obtain ⟨win, g, m, hcore, -, -, -, hclass, -⟩ := h l hl ha
        simp [hcore, hclass]]
    refine hk _ fun l hl => ?_
    obtain ⟨h32, ha⟩ := (mem_lanesOf _ l).mp hl
    obtain ⟨win, g, m, hcore, hwin, -, -, -, hat⟩ := h l h32 ha
    simp [hcore, hwin, hat]

/-- A frame word whose active lanes' words all lie inside their frames accesses them (R120). -/
theorem frameWord_pass (h : ∀ l, l < 32 → (s.w.active x.g).getLsbD l = true → s.FrameAt x l (at_ l))
    (hk : ∀ at', (∀ l, l ∈ lanesOf (s.w.active x.g) → at' l = at_ l) → k (s.w.active x.g) at' = k (s.w.active x.g) at_) :
    s.frameWord x k = k (s.w.active x.g) at_ := by
  unfold State.frameWord
  unfold State.FrameAt at h
  dsimp only at h ⊢
  rw [guardLanes_pass fun l hl ha => by
    obtain ⟨hfrom, hto, -⟩ := h l hl ha
    simp only [Bool.or_eq_false_iff, decide_eq_false_iff_not]
    omega]
  refine hk _ fun l hl => ?_
  obtain ⟨h32, ha⟩ := (mem_lanesOf _ l).mp hl
  exact (h l h32 ha).2.2.symm

end

section
variable {s : State} {x : MemW} {at_ : Nat → Nat × Nat}

theorem exec_lds_ok (hfault : s.wordFault (.lds x) = none) (hldc : s.w.counter .ld ≠ 255)
    (hat : ∀ l, l < 32 → (s.w.active x.g).getLsbD l = true → s.ScratchAt x l (at_ l)) :
    exec (.lds x) s = .next (s.coreLoad (.lds x) x (s.w.active x.g) at_) := by
  rw [show exec (.lds x) s = execLds x s from rfl, execLds, checked_ok hfault, counted_of_ne hldc,
    scratchWord_pass hat fun _ h => coreLoad_congr h _]

theorem exec_sts_ok (hfault : s.wordFault (.sts x) = none) (hstc : s.w.counter .st ≠ 255)
    (hat : ∀ l, l < 32 → (s.w.active x.g).getLsbD l = true → s.ScratchAt x l (at_ l)) :
    exec (.sts x) s = .next (s.coreStore (.sts x) x (s.w.active x.g) at_) := by
  rw [show exec (.sts x) s = execSts x s from rfl, execSts, checked_ok hfault, counted_of_ne hstc,
    scratchWord_pass hat fun _ h => coreStore_congr h _]

theorem exec_ldf_ok (hfault : s.wordFault (.ldf x) = none) (hldc : s.w.counter .ld ≠ 255)
    (hat : ∀ l, l < 32 → (s.w.active x.g).getLsbD l = true → s.FrameAt x l (at_ l)) :
    exec (.ldf x) s = .next (s.coreLoad (.ldf x) x (s.w.active x.g) at_) := by
  rw [show exec (.ldf x) s = execLdf x s from rfl, execLdf, checked_ok hfault, counted_of_ne hldc,
    frameWord_pass hat fun _ h => coreLoad_congr h _]

theorem exec_stf_ok (hfault : s.wordFault (.stf x) = none) (hstc : s.w.counter .st ≠ 255)
    (hat : ∀ l, l < 32 → (s.w.active x.g).getLsbD l = true → s.FrameAt x l (at_ l)) :
    exec (.stf x) s = .next (s.coreStore (.stf x) x (s.w.active x.g) at_) := by
  rw [show exec (.stf x) s = execStf x s from rfl, execStf, checked_ok hfault, counted_of_ne hstc,
    frameWord_pass hat fun _ h => coreStore_congr h _]

end

/-- Settles O17: lanes that pass their checks access the places given, and each word's operation is in flight over them. -/
theorem coreMemoryWords : Obligations.CoreMemoryWords := by
  intro s x at_ act n data load store
  have hload : ∀ i, exec i s = .next (s.coreLoad i x act at_) → load i := fun i hi => by
    obtain ⟨ps, hflight, hcovers⟩ := launch_corePieces (o := { s.loadOp i x act with scratch := true }) rfl s i act at_
      (eszBytes_le x.esz) (fun _ => false) fun _ _ _ => .load
    exact ⟨_, _, hi, hflight, rfl, hcovers⟩
  have hstore : ∀ i, exec i s = .next (s.coreStore i x act at_) → store i := fun i hi => by
    obtain ⟨ps, hflight, hcovers⟩ := launch_corePieces (o := { s.storeOp i x.ctl.rls with scratch := true }) rfl s i act at_
      (eszBytes_le x.esz) (fun l => s.w.poisoned.getLsbD l) fun l k m => .store (dataPart (data l) k m)
    exact ⟨_, _, hi, hflight, rfl, hcovers⟩
  refine ⟨fun hat => ⟨fun hfault hldc => ?_, fun hfault hstc => ?_⟩, fun hat => ⟨fun hfault hldc => ?_, fun hfault hstc => ?_⟩⟩
  · exact hload _ (exec_lds_ok hfault hldc hat)
  · exact hstore _ (exec_sts_ok hfault hstc hat)
  · exact hload _ (exec_ldf_ok hfault hldc hat)
  · exact hstore _ (exec_stf_ok hfault hstc hat)

end Sys2Proof.Machine

namespace Sys2Proof.Machine

/-! ### Loop words (R85, R186 to R190) -/

/-- The first member of a rising list that meets a test is the lowest that does. -/
theorem find?_of_lowest {p : Nat → Bool} {xs : List Nat} {j : Nat} (hx : xs.Pairwise (· < ·)) (hj : j ∈ xs) (hp : p j = true)
    (hlow : ∀ k, k ∈ xs → k < j → p k = false) : xs.find? p = some j := by
  obtain ⟨as, bs, rfl⟩ := List.append_of_mem hj
  refine List.find?_eq_some_iff_append.mpr ⟨hp, as, bs, rfl, fun k hk => ?_⟩
  have hkj : k < j := (List.pairwise_append.mp hx).2.2 k hk j (List.mem_cons_self ..)
  simp [hlow k (List.mem_append_left _ hk) hkj]

/-- The operands of a nest stand in increasing order (R187). -/
theorem used_rising (o : LoopOp) : o.used.Pairwise (· < ·) := by
  unfold LoopOp.used LoopOp.reads
  repeat' split
  all_goals decide

/-- A loop word whose checks pass begins its nest's own checks. -/
theorem exec_loop {s : State} {x : LoopW} {i : Instr} {r : Option Nat}
    (hi : (i = .vloop x ∧ r = none) ∨ (i = .vlooprAdd x ∧ r = some 0) ∨ (i = .vlooprMin x ∧ r = some 1) ∨
      (i = .vlooprMax x ∧ r = some 2)) (hf : s.wordFault i = none) : exec i s = .next (s.loopStep i x r) := by
  rcases hi with ⟨rfl, rfl⟩ | ⟨rfl, rfl⟩ | ⟨rfl, rfl⟩ | ⟨rfl, rfl⟩
  all_goals exact checked_ok hf fun t => t.loopStep _ x _

/-- Whether an operand of a nest of the issuing warp leaves own scratch, or the virtual address space (R160, R187). -/
def State.operandLeaves (s : State) (o : LoopOp) (j : Nat) : Bool := o.outside (s.d.ctx s.w.ctx).scratchBytes j

section
variable {s : State} {x : LoopW} {r : Option Nat} (i : Instr) (hc : s.w.tlc ≠ 255)
include hc

/-- An invalid control word comes first (R186). -/
theorem loopStep_badControl (hb : loopCtlBad (s.loopOf x r).control r x.st2 = true) : s.loopStep i x r = s.raiseAll 0x05 := by
  rw [State.loopStep, counted_of_ne (k := .tl) hc, if_pos hb]

variable (hb : loopCtlBad (s.loopOf x r).control r x.st2 = false)
include hb

/-- Then the lowest operand that leaves own scratch (R187). -/
theorem loopStep_outOfScratch {j : Nat} (hj : j ∈ (s.loopOf x r).used) (hs : (s.loopOf x r).inScratch j = true)
    (ho : s.operandLeaves (s.loopOf x r) j = true)
    (hlow : ∀ k, k ∈ (s.loopOf x r).used → k < j → (s.loopOf x r).inScratch k = true → s.operandLeaves (s.loopOf x r) k = false) :
    s.loopStep i x r = s.raiseAll 0x0A ((s.loopOf x r).lowOfs j) := by
  have hfind := find?_of_lowest (p := fun k => (s.loopOf x r).inScratch k && s.operandLeaves (s.loopOf x r) k) (used_rising _) hj
    (by simp [hs, ho]) fun k hk hkj => by simpa using hlow k hk hkj
  unfold State.operandLeaves at hfind
  rw [State.loopStep, counted_of_ne (k := .tl) hc, if_neg (by simp [hb]), hfind]

variable (hin : ∀ j, j ∈ (s.loopOf x r).used → (s.loopOf x r).inScratch j = true → s.operandLeaves (s.loopOf x r) j = false)
include hin

/-- A nest whose scratch operands stay inside goes on to its bases and its other operands. -/
theorem loopStep_inScratch : s.loopStep i x r =
    if (s.loopOf x r).bases.any fun b => b % (s.loopOf x r).esize ≠ 0 then s.raiseAll 0x07
    else if (s.loopOf x r).used.any fun j => !(s.loopOf x r).inScratch j && s.operandLeaves (s.loopOf x r) j then s.raiseAll 0x0D
    else (s.startLoop (s.loopOf x r)).advance i := by
  have hfind : (s.loopOf x r).used.find? (fun k => (s.loopOf x r).inScratch k && s.operandLeaves (s.loopOf x r) k) = none :=
    List.find?_eq_none.mpr fun k hk => by simpa using hin k hk
  unfold State.operandLeaves at hfind
  rw [State.loopStep, counted_of_ne (k := .tl) hc, if_neg (by simp [hb]), hfind]
  rfl

/-- A misaligned base comes third, whether or not the nest uses it. -/
theorem loopStep_misaligned (ha : ∃ b, b ∈ (s.loopOf x r).bases ∧ b % (s.loopOf x r).esize ≠ 0) :
    s.loopStep i x r = s.raiseAll 0x07 := by
  rw [loopStep_inScratch i hc hb hin, if_pos (by simpa using ha)]

variable (ha : ∀ b, b ∈ (s.loopOf x r).bases → b % (s.loopOf x r).esize = 0)
include ha

/-- An operand that leaves the virtual address space comes last (R160). -/
theorem loopStep_outOfSpace
    (hv : ∃ j, j ∈ (s.loopOf x r).used ∧ (s.loopOf x r).inScratch j = false ∧ s.operandLeaves (s.loopOf x r) j = true) :
    s.loopStep i x r = s.raiseAll 0x0D := by
  rw [loopStep_inScratch i hc hb hin, if_neg (by simpa using ha), if_pos (by simpa using hv)]

/-- Else the nest starts. -/
theorem loopStep_starts
    (hv : ∀ j, j ∈ (s.loopOf x r).used → (s.loopOf x r).inScratch j = false → s.operandLeaves (s.loopOf x r) j = false) :
    s.loopStep i x r = (s.startLoop (s.loopOf x r)).advance i := by
  rw [loopStep_inScratch i hc hb hin, if_neg (by simpa using ha), if_neg (by simpa using hv)]

end

/-- The nest that a loop word puts in flight: newly named, and with leave unless it must ask for it (R18, R190). -/
def State.nestOf (s : State) (o : LoopOp) : LoopOp :=
  { o.start with id := s.d.nextId, leave := if 4096 < o.total then 1 else 2 }

/-- A nest of up to 4,096 iterations is the newest in flight, and counted. -/
theorem startLoop_light (s : State) {o : LoopOp} (h : o.total ≤ 4096) : s.startLoop o =
    { s with
      w := { s.w with tlc := s.w.tlc + 1 }
      d := { s.d with loops := s.d.loops ++ [s.nestOf o], nextId := s.d.nextId + 1 } } := by
  have h' : ¬ 4096 < o.total := Nat.not_lt.mpr h
  simp only [State.startLoop, State.nestOf, h', if_false]
  rfl

/-- One of more iterations also asks its die for leave (R18). -/
theorem startLoop_heavy (s : State) {o : LoopOp} (h : 4096 < o.total) : s.startLoop o =
    ({ s with
      w := { s.w with tlc := s.w.tlc + 1 }
      d := { s.d with loops := s.d.loops ++ [s.nestOf o], nextId := s.d.nextId + 1 } } : State).askLeave 1 o.ctx o.core s.d.nextId 1 := by
  simp only [State.startLoop, State.nestOf, h, if_true]
  rfl

/-- Either way the nest is counted in TLC, and memory stays. -/
theorem startLoop_frame (s : State) (o : LoopOp) :
    (s.startLoop o).w = { s.w with tlc := s.w.tlc + 1 } ∧ (s.startLoop o).mem = s.mem := by
  by_cases h : 4096 < o.total
  · rw [startLoop_heavy s h]; exact ⟨rfl, rfl⟩
  · rw [startLoop_light s (Nat.not_lt.mp h)]; exact ⟨rfl, rfl⟩

/-- Settles O28, by the checks of a loop word in their order and the two ways of starting its nest. -/
theorem loopWords : Obligations.LoopWords := by
  intro s x i r hi hf hc o scratch
  have hexec := exec_loop hi hf
  refine ⟨fun hb => ?_, fun j hb hj hs ho hlow => ?_, fun hb hin ha => ?_, fun hb hin ha hv => ?_, fun hb hin ha => ?_⟩
  · rw [hexec, loopStep_badControl i hc hb]
  · rw [hexec, loopStep_outOfScratch i hc hb hj hs ho hlow]
  · rw [hexec, loopStep_misaligned i hc hb hin ha]
  · rw [hexec, loopStep_outOfSpace i hc hb hin ha hv]
  · rw [loopStep_starts i hc hb (fun j hj _ => hin j hj) ha fun j hj _ => hin j hj] at hexec
    obtain ⟨hw, hmem⟩ := startLoop_frame s o
    refine ⟨_, s.nestOf o, hexec, congrArg (fun w => w.advance i) hw, hmem, rfl, ?_, ?_, fun hn => ?_, fun hn => ?_⟩
    · simp [State.nestOf, LoopOp.start, o, State.loopOf, Function.comp_def]
    · simp only [State.nestOf, LoopOp.start, List.mem_map]
      rintro y ⟨l, -, rfl⟩
      exact ⟨rfl, rfl, rfl⟩
    · exact ⟨if_neg (Nat.not_lt.mpr hn), by rw [State.advance_d, startLoop_light s hn]⟩
    · exact ⟨if_pos hn, by rw [State.advance_d, startLoop_heavy s hn]; rfl⟩

end Sys2Proof.Machine

namespace Sys2Proof.Machine

/-! ### What keeps the turns to come

The schedule is not part of the machine: nothing that a word or a unit does changes it. -/

/-- A fold keeps what each of its steps keeps. -/
theorem foldl_kept {α β : Type} {p : State → β} {f : State → α → State} (h : ∀ s a, p (f s a) = p s) (xs : List α) (s : State) :
    p (xs.foldl f s) = p s := by
  induction xs generalizing s with
  | nil => rfl
  | cons x xs ih => exact (ih _).trans (h s x)

/-! #### Records and tokens -/

@[simp] theorem modifyBytes_turns (s : State) (g pa : Nat) (bs : List Byte) : (s.modifyBytes g pa bs).turns = s.turns := by
  unfold State.modifyBytes
  dsimp only
  split <;> rfl

@[simp] theorem settle_turns (s : State) (a n : Nat) : (s.settle a n).turns = s.turns := by
  unfold State.settle
  dsimp only
  split
  · rfl
  · exact foldl_kept (p := State.turns) (fun u (x : Nat × Nat × List Byte) => modifyBytes_turns u x.1 x.2.1 x.2.2) _ s

@[simp] theorem putMem_turns (s : State) (a : Nat) (bs : List Byte) : (s.putMem a bs).turns = s.turns := settle_turns s _ _

@[simp] theorem suspend_turns (s : State) (c : Nat) : (s.suspend c).turns = s.turns := by
  unfold State.suspend
  dsimp only
  split <;> rfl

@[simp] theorem ringFails_turns (s : State) (c : Nat) : (s.ringFails c).turns = s.turns := by
  unfold State.ringFails
  dsimp only
  split <;> simp

@[simp] theorem sendNotice_turns (s : State) (k : Token) (g : Nat) : (s.sendNotice k g).turns = s.turns := by
  unfold State.sendNotice
  split <;> rfl

@[simp] theorem notify_turns (s : State) (c g n h f v b : Nat) (ok : Bool) : (s.notify c g n h f v b ok).turns = s.turns := by
  unfold State.notify
  dsimp only
  repeat' split
  all_goals simp

@[simp] theorem writeRec_turns (s : State) (r : FaultRec) : (s.writeRec r).1.turns = s.turns := by
  unfold State.writeRec
  dsimp only
  repeat' split
  all_goals simp

@[simp] theorem record_turns (s : State) (k : WaitRec) : (s.record k).1.turns = s.turns := by
  unfold State.record
  dsimp only
  repeat' split
  all_goals simp

@[simp] theorem note_turns (s : State) (r : FaultRec) : (s.note r).turns = s.turns := record_turns s _

@[simp] theorem dropTok_turns (s : State) (t : Token) (n g : Nat) : (s.dropTok t n g).turns = s.turns := note_turns _ _

@[simp] theorem route_turns (s : State) (i : Item) (n : Nat) (a : List Dep) : (s.route i n a).turns = s.turns := by
  unfold State.route
  dsimp only
  repeat' split
  all_goals simp

@[simp] theorem sendTok_turns (s : State) (t : Token) (n : Nat) (a : List Dep) : (s.sendTok t n a).turns = s.turns :=
  route_turns s _ n a

@[simp] theorem sendAll_turns (s : State) (n : Nat) (ts : List Token) : (s.sendAll n ts).turns = s.turns :=
  foldl_kept (p := State.turns) (fun u k => sendTok_turns u k n []) ts s

@[simp] theorem dropAll_turns (s : State) (n g : Nat) (ts : List Token) : (s.dropAll n g ts).turns = s.turns :=
  foldl_kept (p := State.turns) (fun u k => dropTok_turns u k n g) ts s

/-! #### Placements (R244, R245, R420) -/

@[simp] theorem heatRecord_turns (s : State) (c g page shift : Nat) (a b : Word) :
    (s.heatRecord c g page shift a b).turns = s.turns := by
  unfold State.heatRecord
  dsimp only
  repeat' split
  all_goals simp

@[simp] theorem dropTlb_turns (s : State) (c g : Nat) : (s.dropTlb c g).turns = s.turns := by
  unfold State.dropTlb State.pagesLeave
  dsimp only
  split
  · rfl
  · exact foldl_kept (p := State.turns) (fun _ _ => heatRecord_turns (State.tick _) _ _ _ _ _ _) _ s

@[simp] theorem allocAt_turns (s : State) (c g ofs : Nat) (f : Frame) : (s.allocAt c g ofs f).turns = s.turns := by
  unfold State.allocAt State.takeSlot
  dsimp only
  split <;> simp

@[simp] theorem placeOn_turns (s : State) (e : SpawnEnt) (g : Nat) : (s.placeOn e g).turns = s.turns := by
  unfold State.placeOn
  split <;> simp

theorem placeSaved_turns {s t : State} {e : SpawnEnt} {g : Nat} (h : s.placeSaved e g = some t) : t.turns = s.turns := by
  unfold State.placeSaved at h
  split at h
  · obtain ⟨ofs, -, rfl⟩ := Option.map_eq_some_iff.mp h
    simp
  · cases h

@[simp] theorem enterColl_turns (s : State) (c : Nat) (r : FaultRec) (bs : Nat → List Byte) :
    (s.enterColl c r bs).2.turns = s.turns := by
  unfold State.enterColl
  dsimp only
  repeat' split
  all_goals simp

@[simp] theorem queuePlace_turns (s : State) (die c blk n : Nat) : (s.queuePlace die c blk n).2.turns = s.turns := by
  unfold State.queuePlace
  dsimp only
  split <;> simp

@[simp] theorem startWait_turns (s : State) (c g : Nat) : (s.startWait c g).turns = s.turns := by
  unfold State.startWait
  split <;> rfl

@[simp] theorem queueEnt_turns (s : State) (g : Nat) (e : SpawnEnt) : (s.queueEnt g e).turns = s.turns := by
  unfold State.queueEnt
  dsimp only
  split <;> simp

@[simp] theorem placeEnt_turns (s : State) (g : Nat) (e : SpawnEnt) : (s.placeEnt g e).turns = s.turns := by
  unfold State.placeEnt
  refine iteInduction (motive := fun t : State => t.turns = s.turns) (fun _ => ?_) fun _ => ?_
  · exact dropTok_turns _ _ _ _
  · split
    · simp
    · split
      · next h =>
        obtain ⟨k, -, hk⟩ := List.exists_of_findSome?_eq_some h
        exact placeSaved_turns hk
      · simp

@[simp] theorem spawnWith_turns (s : State) (x : Spawn) (h : Header) : (s.spawnWith x h).turns = s.turns := placeEnt_turns _ _ _

@[simp] theorem spawn_turns (s : State) (x : Spawn) : (s.spawn x).turns = s.turns := by
  unfold State.spawn
  split
  · unfold State.voidPlace State.voidTask
    dsimp only
    split <;> simp
  · simp

@[simp] theorem takeOrd_turns (s : State) (c g ofs n : Nat) : (s.takeOrd c g ofs n).2.turns = s.turns := rfl

@[simp] theorem queueGang_turns (s : State) (c i : Nat) (d : TDesc) (src : Source) : (s.queueGang c i d src).turns = s.turns := by
  unfold State.queueGang
  dsimp only
  repeat' split
  all_goals simp

@[simp] theorem forgetCode_turns (s : State) (c va n : Nat) : (s.forgetCode c va n).turns = s.turns := rfl

@[simp] theorem launch_turns (s : State) (c addr : Nat) (src : Source) : (s.launch c addr src).2.2.turns = s.turns := by
  unfold State.launch
  dsimp only
  repeat' split
  all_goals simp

/-! #### Clauses (R111, R347) -/

@[simp] theorem makeChild_turns (s : State) (t : Task) (e : Succ) (fr tg : Word) (fid : Word × Word) (i : Nat) :
    (s.makeChild t e fr tg fid i).turns = s.turns := rfl

@[simp] theorem forkLane_turns (s : State) (l : Nat) (e : Succ) (fr pl tg : Word) : (s.forkLane l e fr pl tg).turns = s.turns := by
  unfold State.forkLane
  dsimp only
  repeat' split
  all_goals simp

@[simp] theorem taskLane_turns (s : State) (l : Nat) (e : Succ) (fr pl tg : Word) : (s.taskLane l e fr pl tg).turns = s.turns := by
  unfold State.taskLane State.countDrop
  dsimp only
  repeat' split
  all_goals simp

@[simp] theorem clauseLane_turns (s : State) (e : Succ) (c : Clause) (l : Nat) : (s.clauseLane e c l).turns = s.turns := by
  unfold State.clauseLane
  dsimp only
  repeat' split
  all_goals simp

/-! #### Arrivals and the commit of a frame (R117, R230 to R234) -/

@[simp] theorem collide_turns (s : State) (c g : Nat) (t : Token) (k : Nat) (p : Bool) (a : Option Nat) :
    (s.collide c g t k p a).turns = s.turns := by
  unfold State.collide
  split <;> simp

@[simp] theorem leaveRing_turns (s : State) (c : Nat) (t : Token) (k : Nat) (a : Option Nat) :
    (s.leaveRing c t k a).turns = s.turns := by
  unfold State.leaveRing
  split <;> rfl

@[simp] theorem clearInputs_turns (s : State) (c g ofs : Nat) (h : Header) : (s.clearInputs c g ofs h).turns = s.turns := rfl

@[simp] theorem enqueue_turns (s : State) (c g task : Nat) (h : Header) (d : Desc) : (s.enqueue c g task h d).turns = s.turns := by
  unfold State.enqueue State.binIn
  dsimp only
  repeat' split
  all_goals rfl

@[simp] theorem complete_turns (s : State) (c g : Nat) (t : Token) (h : Header) (tag : Nat) :
    (s.complete c g t h tag).turns = s.turns := by
  unfold State.complete
  dsimp only
  repeat' split
  all_goals simp

@[simp] theorem countArrival_turns (s : State) (c g : Nat) (t : Token) (h : Header) : (s.countArrival c g t h).turns = s.turns := by
  unfold State.countArrival
  dsimp only
  split <;> simp

@[simp] theorem matchTok_turns (s : State) (c g : Nat) (t : Token) (h : Header) (k : Nat) (a : Option Nat) :
    (s.matchTok c g t h k a).turns = s.turns := by
  unfold State.matchTok
  dsimp only
  repeat' split
  all_goals simp

@[simp] theorem arriveTok_turns (s : State) (c g : Nat) (t : Token) (k : Nat) : (s.arriveTok c g t k).turns = s.turns := by
  unfold State.arriveTok
  dsimp only
  repeat' split
  all_goals simp

@[simp] theorem retryTok_turns (s : State) (c g : Nat) (e : Collided) : (s.retryTok c g e).turns = s.turns := by
  unfold State.retryTok
  split <;> simp

@[simp] theorem retryReady_turns (s : State) (c g n : Nat) : (s.retryReady c g n).turns = s.turns := by
  induction n generalizing s with
  | zero => rfl
  | succ n ih =>
    unfold State.retryReady
    split
    · rfl
    · simp [ih]

@[simp] theorem arriveBehind_turns (s : State) (c g : Nat) (t : Token) (k : Nat) : (s.arriveBehind c g t k).turns = s.turns := by
  simp [State.arriveBehind]

@[simp] theorem commitFrame_turns (s : State) (c g ofs : Nat) : (s.commitFrame c g ofs).turns = s.turns := by
  unfold State.commitFrame
  split
  · rfl
  · split
    · rfl
    · exact foldl_kept (p := State.turns) (fun _ _ => arriveBehind_turns _ _ _ _ _) _ _

/-! #### Releases and the end of a warp (R112) -/

@[simp] theorem releaseFrame_turns (s : State) (c g ofs : Nat) : (s.releaseFrame c g ofs).turns = s.turns := by
  have hnote := fun (k : Ctx → Ctx) (f : Desc → FaultRec) =>
    foldl_kept (p := State.turns) (f := fun (t : State) (d : Desc) => (t.mapCtx c k).note (f d)) fun _ _ => note_turns _ _
  have hdrop := foldl_kept (p := State.turns) (f := fun (t : State) (k : Token) => t.dropTok k 2 g) fun _ _ => dropTok_turns _ _ _ _
  unfold State.releaseFrame
  dsimp only
  split
  · rfl
  · split
    · rfl
    · split <;> exact (hdrop _ _).trans (hnote _ _ _ _)

@[simp] theorem endWarp_turns (s : State) : s.endWarp.turns = s.turns := by
  have h := foldl_kept (p := State.turns) (f := fun t o => t.releaseFrame s.w.ctx s.w.core o) (fun _ _ => releaseFrame_turns _ _ _ _) s.w.pend s
  unfold State.endWarp
  dsimp only
  split <;> exact h

/-- A terminator's effect keeps the turns to come. -/
theorem terminate_turns (s : State) (x : EndW) (release : Bool) : (s.terminate x release).turns = s.turns := by
  have hclauses := foldl_kept (p := State.turns)
    (f := fun t (p : Clause × Succ) => (lanesOf (s.w.clauseOn p.1)).foldl (fun u l => u.clauseLane p.2 p.1 l) t)
    (fun _ _ => foldl_kept (p := State.turns) (fun _ _ => clauseLane_turns _ _ _ _) _ _) (s.w.clauses x) s
  have hcommit := foldl_kept (p := State.turns) (f := fun t o => t.commitFrame s.w.ctx s.w.core o) fun _ _ => commitFrame_turns _ _ _ _
  have hrelease := foldl_kept (p := State.turns) (f := fun t l => t.releaseFrame s.w.ctx s.w.core (s.w.frame.getD l 0))
    fun _ _ => releaseFrame_turns _ _ _ _
  unfold State.terminate
  dsimp only
  rw [endWarp_turns]
  split
  · exact (hrelease _ _).trans ((hcommit _ _).trans hclauses)
  · exact (hcommit _ _).trans hclauses

end Sys2Proof.Machine

namespace Sys2Proof

/-! ### Tables whose keys rise -/

namespace Map

variable {α : Type}

theorem mem_of_find {m : Map α} {k : Nat} {x : α} (h : find m k = some x) : (k, x) ∈ m := by
  induction m with
  | nil => cases h
  | cons p m ih =>
    obtain ⟨j, y⟩ := p
    unfold find at h
    split at h
    · next hk => cases h; subst hk; exact List.mem_cons_self ..
    · exact List.mem_cons_of_mem _ (ih h)

/-- An entry that stays when others leave is the one that was there. -/
theorem find_of_find_filter {m : Map α} (hm : Machine.Rising m) {q : Nat × α → Bool} {k : Nat} {x : α}
    (h : find (m.filter q) k = some x) : find m k = some x := by
  induction m with
  | nil => exact h
  | cons p m ih =>
    obtain ⟨j, y⟩ := p
    obtain ⟨hj, hm⟩ := List.pairwise_cons.mp hm
    by_cases hq : q (j, y) = true
    · rw [List.filter_cons_of_pos hq] at h
      unfold find at h ⊢
      split at h
      · next hk => rw [if_pos hk]; exact h
      · next hk => rw [if_neg hk]; exact ih hm h
    · rw [List.filter_cons_of_neg hq] at h
      have hjk : j < k := hj _ (List.mem_filter.mp (mem_of_find h)).1
      unfold find
      rw [if_neg (Nat.ne_of_gt hjk)]
      exact ih hm h

theorem key_of_mem_put {m : Map α} {k : Nat} {x : α} {p : Nat × α} (h : p ∈ put m k x) : p.1 = k ∨ p ∈ m := by
  induction m with
  | nil => exact .inl (congrArg Prod.fst (List.mem_singleton.mp h))
  | cons q m ih =>
    obtain ⟨j, y⟩ := q
    unfold put at h
    repeat' split at h
    · rcases List.mem_cons.mp h with rfl | h
      · exact .inl rfl
      · exact .inr h
    · rcases List.mem_cons.mp h with rfl | h
      · exact .inl rfl
      · exact .inr (List.mem_cons_of_mem _ h)
    · rcases List.mem_cons.mp h with rfl | h
      · exact .inr (List.mem_cons_self ..)
      · exact (ih h).imp_right (List.mem_cons_of_mem _)

theorem rising_put {m : Map α} (hm : Machine.Rising m) (k : Nat) (x : α) : Machine.Rising (put m k x) := by
  induction m with
  | nil => exact List.pairwise_singleton _ _
  | cons q m ih =>
    obtain ⟨j, y⟩ := q
    obtain ⟨hj, hm'⟩ := List.pairwise_cons.mp hm
    unfold put
    split
    · next hk =>
      refine List.pairwise_cons.mpr ⟨fun p hp => ?_, hm⟩
      rcases List.mem_cons.mp hp with rfl | hp
      · exact hk
      · exact Nat.lt_trans hk (hj p hp)
    · split
      · next hk => subst hk; exact List.pairwise_cons.mpr ⟨hj, hm'⟩
      · next hlt hne =>
        refine List.pairwise_cons.mpr ⟨fun p hp => ?_, ih hm'⟩
        rcases key_of_mem_put hp with hp | hp
        · show j < p.1
          omega
        · exact hj p hp

end Map

namespace Machine

/-! ### Frames released (R112) -/

/-- All that releases do to a share's frames: the keys still rise, and a frame is as it was, released or gone. -/
def Releases (m m' : Map Frame) : Prop :=
  Rising m → Rising m' ∧ ∀ k f, m'.find k = some f → m.find k = some f ∨ f.state = .released

theorem Releases.refl (m : Map Frame) : Releases m m := fun h => ⟨h, fun _ _ => .inl⟩

theorem Releases.trans {m m' m'' : Map Frame} (h : Releases m m') (h' : Releases m' m'') : Releases m m'' := fun hm => by
  obtain ⟨hm', hfind⟩ := h hm
  obtain ⟨hm'', hfind'⟩ := h' hm'
  exact ⟨hm'', fun k f hf => (hfind' k f hf).elim (hfind k f) .inr⟩

theorem Releases.filter (m : Map Frame) (q : Nat × Frame → Bool) : Releases m (m.filter q) := fun h =>
  ⟨List.Pairwise.filter _ h, fun _ _ hf => .inl (Map.find_of_find_filter h hf)⟩

theorem Releases.put (m : Map Frame) (k : Nat) {f : Frame} (hf : f.state = .released) : Releases m (m.put k f) := fun h => by
  refine ⟨Map.rising_put h k f, fun j g hg => ?_⟩
  rw [Map.find_put] at hg
  split at hg
  · cases hg; exact .inr hf
  · exact .inl hg

theorem SharesBut.frames {d d' : Dev} (h : SharesBut d d') (c g : Nat) : (d'.share c g).frames = (d.share c g).frames := by
  obtain ⟨b, hb⟩ := h c g
  rw [hb]

theorem foldl_sharesBut {α : Type} {f : State → α → State} (h : ∀ s a, SharesBut s.d (f s a).d) (xs : List α) (s : State) :
    SharesBut s.d (xs.foldl f s).d := by
  induction xs generalizing s with
  | nil => exact .of_eq rfl
  | cons x xs ih => exact (h s x).trans (ih _)

theorem note_shares (s : State) (r : FaultRec) : SharesBut s.d (s.note r).d := record_shares s _

/-- A note made of what a context counts leaves its shares. -/
theorem mapCtx_note_shares (s : State) (c : Nat) (k : Ctx → Ctx) (r : FaultRec) : SharesBut s.d ((s.mapCtx c k).note r).d :=
  (SharesBut.of_eq rfl : SharesBut s.d (s.mapCtx c k).d).trans (note_shares _ r)

theorem dropTok_shares (s : State) (t : Token) (n g : Nat) : SharesBut s.d (s.dropTok t n g).d := mapCtx_note_shares s _ _ _

theorem frames_sweepFrames (s : State) (c g : Nat) : ((s.sweepFrames c g).d.share c g).frames =
    (s.d.share c g).frames.filter fun p => p.2.state != .released || s.frameHeld c g p.1 := by
  simp [State.sweepFrames]

theorem releaseFrame_none {s : State} {c g ofs : Nat} (h : (s.d.share c g).frames.find ofs = none) : s.releaseFrame c g ofs = s := by
  unfold State.releaseFrame
  rw [h]

theorem releaseFrame_twice {s : State} {c g ofs : Nat} {f : Frame} (h : (s.d.share c g).frames.find ofs = some f)
    (hf : f.state = .released) : s.releaseFrame c g ofs = s := by
  unfold State.releaseFrame
  simp [h, hf]

/-- A release marks its frame, and sweeps released frames out. -/
theorem frames_releaseFrame {s : State} {c g ofs : Nat} {f : Frame} (h : (s.d.share c g).frames.find ofs = some f)
    (hf : f.state ≠ .released) : ∃ keep, ((s.releaseFrame c g ofs).d.share c g).frames =
      ((s.d.share c g).frames.put ofs { f with state := .released, park := none, waiting := [] }).filter keep := by
  have hnote := fun (k : Ctx → Ctx) (r : Desc → FaultRec) =>
    foldl_sharesBut (f := fun (t : State) (d : Desc) => (t.mapCtx c k).note (r d)) fun u _ => mapCtx_note_shares u c k _
  have hdrop := foldl_sharesBut (f := fun (t : State) (k : Token) => t.dropTok k 2 g) fun u k => dropTok_shares u k 2 g
  unfold State.releaseFrame
  rw [h]
  simp only [hf, if_false, frames_sweepFrames]
  refine ⟨_, congrArg (List.filter _) ?_⟩
  split
  all_goals exact (((hnote _ _ _ _).trans (hdrop _ _)).frames c g).trans (congrArg Share.frames (Dev.share_setShare_self ..))

theorem releaseFrame_releases (s : State) (c g ofs : Nat) :
    Releases (s.d.share c g).frames ((s.releaseFrame c g ofs).d.share c g).frames := by
  cases h : (s.d.share c g).frames.find ofs with
  | none => rw [releaseFrame_none h]; exact .refl _
  | some f =>
    by_cases hf : f.state = .released
    · rw [releaseFrame_twice h hf]; exact .refl _
    · obtain ⟨keep, hk⟩ := frames_releaseFrame h hf
      rw [hk]
      exact (Releases.put _ ofs rfl).trans (.filter _ keep)

/-- After a release its frame is marked or gone. -/
theorem releaseFrame_released {s : State} {c g ofs : Nat} (hm : Rising (s.d.share c g).frames) {f : Frame}
    (hf : ((s.releaseFrame c g ofs).d.share c g).frames.find ofs = some f) : f.state = .released := by
  cases h : (s.d.share c g).frames.find ofs with
  | none => rw [releaseFrame_none h, h] at hf; cases hf
  | some y =>
    by_cases hy : y.state = .released
    · rw [releaseFrame_twice h hy, h] at hf; cases hf; exact hy
    · obtain ⟨keep, hk⟩ := frames_releaseFrame h hy
      rw [hk] at hf
      have hput := Map.find_of_find_filter (Map.rising_put hm ofs _) hf
      rw [Map.find_put_self] at hput
      cases hput
      rfl

/-- After several each of theirs is. -/
theorem foldl_releaseFrame (c g : Nat) (ofs : Nat → Nat) (ls : List Nat) (s : State) :
    let t := ls.foldl (fun t l => t.releaseFrame c g (ofs l)) s
    Releases (s.d.share c g).frames (t.d.share c g).frames ∧ (Rising (s.d.share c g).frames →
      ∀ l, l ∈ ls → ∀ f, (t.d.share c g).frames.find (ofs l) = some f → f.state = .released) := by
  induction ls generalizing s with
  | nil => exact ⟨.refl _, fun _ l hl => absurd hl List.not_mem_nil⟩
  | cons a ls ih =>
    have hone := releaseFrame_releases s c g (ofs a)
    obtain ⟨hrest, hgone⟩ := ih (s.releaseFrame c g (ofs a))
    refine ⟨hone.trans hrest, fun hm l hl f hf => ?_⟩
    obtain ⟨hm', -⟩ := hone hm
    rcases List.mem_cons.mp hl with rfl | hl
    · exact ((hrest hm').2 _ f hf).elim (releaseFrame_released hm) id
    · exact hgone hm' l hl f hf

/-- A release changes of the issuing warp only which frames it holds uncommitted (R117). -/
theorem releaseFrame_w (s : State) (c g ofs : Nat) : ∃ ps, (s.releaseFrame c g ofs).w = { s.w with pend := ps } := by
  have hnote := fun (k : Ctx → Ctx) (r : Desc → FaultRec) =>
    foldl_kept (p := State.w) (f := fun (t : State) (d : Desc) => (t.mapCtx c k).note (r d)) fun u _ => note_w _ _
  have hdrop := foldl_kept (p := State.w) (f := fun (t : State) (k : Token) => t.dropTok k 2 g) fun u k => dropTok_w u k 2 g
  have hforget : ∃ ps, (s.forgetPend c g ofs).w = { s.w with pend := ps } := by
    unfold State.forgetPend
    dsimp only
    split <;> exact ⟨_, rfl⟩
  obtain ⟨ps, hps⟩ := hforget
  unfold State.releaseFrame
  dsimp only
  split
  · exact ⟨_, rfl⟩
  · split
    · exact ⟨_, rfl⟩
    · refine ⟨ps, ?_⟩
      rw [sweepFrames_w]
      split <;> exact ((hdrop _ _).trans (hnote _ _ _ _)).trans hps

theorem foldl_releaseFrame_w {α : Type} (c g : Nat) (ofs : α → Nat) (ls : List α) (s : State) :
    ∃ ps, (ls.foldl (fun t l => t.releaseFrame c g (ofs l)) s).w = { s.w with pend := ps } := by
  induction ls generalizing s with
  | nil => exact ⟨_, rfl⟩
  | cons a ls ih =>
    obtain ⟨ps, hps⟩ := ih (s.releaseFrame c g (ofs a))
    obtain ⟨qs, hqs⟩ := releaseFrame_w s c g (ofs a)
    exact ⟨ps, by rw [List.foldl_cons, hps, hqs]⟩

/-- The end of a warp does no more to its core's frames than releases do. -/
theorem endWarp_releases (s : State) :
    Releases (s.d.share s.w.ctx s.w.core).frames (s.endWarp.d.share s.w.ctx s.w.core).frames := by
  obtain ⟨h, -⟩ := foldl_releaseFrame s.w.ctx s.w.core id s.w.pend s
  refine h.trans ?_
  unfold State.endWarp
  dsimp only
  rw [frames_sweepFrames]
  split <;> exact .filter _ _

/-- The end of a warp that holds no uncommitted frame leaves memory and the circuits. -/
theorem endWarp_committed {s : State} (h : s.w.pend = []) : s.endWarp.mem = s.mem ∧ s.endWarp.d.net = s.d.net := by
  unfold State.endWarp
  dsimp only
  rw [h]
  split <;> exact ⟨rfl, rfl⟩

/-! ### Tokens of a SEND clause (R111, R262) -/

theorem device_laneTok {s : State} (h : s.d.devnum < 4096) (l : Nat) (a : Word) (e : Succ) (ct : Bool) (tg pl : Word) :
    (s.laneTok l a e ct tg pl).device = s.d.devnum := by
  simp only [State.laneTok, tokenTo, mkToken, Token.device, bitsOf, BitVec.toNat_ofNat]
  omega

/-- A message put on its circuit comes before those that follow it. -/
theorem posted_post {s t : State} {items : List Item} {g : Nat} {after : List (List Dep)} (k n : Nat) (tok : Token) (a : List Dep)
    (h : Posted items g after (s.post { kind := k, tok := tok, ctr := n } g a) t) :
    Posted (s.itemOf k n tok :: items) g (a :: after) s t := by
  obtain ⟨ms, hnet, hitems, hafter, hms⟩ := h
  refine ⟨{ id := s.d.nextId, item := s.itemOf k n tok, sender := g, dest := tok.dest, cclass := tok.cclass, after := a } :: ms,
    ?_, ?_, ?_, ?_⟩
  · rw [hnet, post_d]
    simp [State.itemOf]
  · rw [List.map_cons, hitems]
  · rw [List.map_cons, hafter]
  · rintro m hm
    rcases List.mem_cons.mp hm with rfl | hm
    · exact ⟨rfl, rfl, rfl⟩
    · exact hms m hm

/-- The token that a SEND clause sends in a lane (R111). -/
def State.clauseTok (s : State) (e : Succ) (c : Clause) (l : Nat) : Token :=
  s.laneTok l (s.w.clauseReg c.fr l) e false (s.w.clauseReg c.tg l) (s.w.clauseReg c.pl l)

section
variable {s : State} {e : Succ} (c : Clause) (hk : e.kind = 1) (hd : s.d.devnum < 4096) (hon : ∀ g, (s.d.core g).offline = false)
include hk hd hon

theorem clauseLane_send (l : Nat) :
    s.clauseLane e c l = s.post { kind := 0, tok := s.clauseTok e c l, ctr := 0 } s.w.core [] := by
  unfold State.clauseLane
  simp only [hk]
  exact sendTok_here s _ _ _ (device_laneTok hd _ _ _ _ _ _) (hon _)

/-- The lanes of a SEND clause send their tokens in order, and do nothing else to memory or the warp. -/
theorem foldl_clauseLane_send (ls : List Nat) :
    let t := ls.foldl (fun u l => u.clauseLane e c l) s
    t.mem = s.mem ∧ t.w = s.w ∧
      Posted (ls.map fun l => s.itemOf 0 0 (s.clauseTok e c l)) s.w.core (ls.map fun _ => []) s t := by
  induction ls generalizing s with
  | nil => exact ⟨rfl, rfl, [], (List.append_nil _).symm, rfl, rfl, fun _ h => absurd h List.not_mem_nil⟩
  | cons l ls ih =>
    rw [List.foldl_cons, clauseLane_send c hk hd hon]
    obtain ⟨hmem, hw, hposted⟩ := ih (s := s.post { kind := 0, tok := s.clauseTok e c l, ctr := 0 } s.w.core []) hd hon
    exact ⟨hmem, hw, posted_post 0 0 _ [] hposted⟩

end

/-! ### Terminators (R81, R107, R110, R112) -/

/-- A terminator acts once its warp's counters are zero and every access of the warp has been performed (R110). -/
theorem mayAct_outstanding {s : State} (i : Instr) (h : s.w.drained = false ∨ ∃ o, o ∈ s.d.ops ∧ o.uid = s.w.uid) :
    s.mayAct s.w i = false := by
  unfold State.mayAct
  rcases h with h | ⟨o, ho, hu⟩
  · simp [h]
  · have hall : (s.d.ops.all fun o => o.uid ≠ s.w.uid) = false := List.all_eq_false.mpr ⟨o, ho, by simpa using hu⟩
    rw [hall, Bool.and_false, Bool.false_and]

theorem exec_terminator {s : State} {x : EndW} {i : Instr} {release : Bool}
    (hi : (i = .endK x ∧ release = false) ∨ (i = .endR x ∧ release = true)) (hf : s.wordFault i = none) :
    exec i s = .next (s.endWord i x release) := by
  rcases hi with ⟨rfl, rfl⟩ | ⟨rfl, rfl⟩
  all_goals exact checked_ok hf fun t => t.endWord _ x _

theorem whenDrained_waits {s : State} {i : Instr} (h : s.mayAct s.w i = false) (k : State → State) :
    s.whenDrained i k = { s with w := { s.w with status := .draining i } } := by
  simp [State.whenDrained, h, State.mapWarp]

theorem whenDrained_acts {s : State} {i : Instr} (h : s.mayAct s.w i = true) (k : State → State) :
    s.whenDrained i k = k (s.mapWarp Warp.settled) := if_pos h

/-- The state after a terminator's clauses, in their order (R110). -/
def State.clausesDone (s : State) (x : EndW) : State :=
  (s.w.clauses x).foldl (fun t p => (lanesOf (s.w.clauseOn p.1)).foldl (fun u l => u.clauseLane p.2 p.1 l) t) s

/-- The state after the commit of the warp's frames, and at `ENDR` the release of its lanes' frames (R112, R117). -/
theorem terminate_committed {s : State} (h : s.w.pend = []) (x : EndW) (release : Bool) :
    let u := (s.clausesDone x).mapWarp fun v => { v with pend := [] }
    s.terminate x release =
      (if release then (lanesOf s.w.filled).foldl (fun t l => t.releaseFrame s.w.ctx s.w.core (s.w.frame.getD l 0)) u else u).endWarp := by
  unfold State.terminate State.clausesDone
  simp only [h, List.foldl_nil]

theorem terminate_w (s : State) (x : EndW) (release : Bool) : (s.terminate x release).w = Warp.absent := by
  unfold State.terminate
  exact endWarp_w _

theorem lanesOf_zero : lanesOf 0 = [] := by decide

/-- A fold none of whose steps moves its start ends there. -/
theorem foldl_of_fixed_mem {α β : Type} {f : α → β → α} {a : α} {bs : List β} (h : ∀ b, b ∈ bs → f a b = a) :
    bs.foldl f a = a := by
  induction bs with
  | nil => rfl
  | cons b bs ih =>
    rw [List.foldl_cons, h b (List.mem_cons_self ..)]
    exact ih fun c hc => h c (List.mem_cons_of_mem _ hc)

/-- Clauses that are on in no lane do nothing. -/
theorem clausesDone_off {s : State} {x : EndW} (h : ∀ p, p ∈ s.w.clauses x → s.w.clauseOn p.1 = 0) : s.clausesDone x = s := by
  unfold State.clausesDone
  exact foldl_of_fixed_mem fun p hp => by rw [h p hp, lanesOf_zero, List.foldl_nil]

/-- Where clause 0 alone is on, its lanes are all that act. -/
theorem clausesDone_first {s : State} {x : EndW} (h1 : s.w.clauseOn x.c1 = 0) (h2 : s.w.clauseOn x.c2 = 0)
    (h3 : s.w.clauseOn x.c3 = 0) : s.clausesDone x =
      (lanesOf (s.w.clauseOn x.c0)).foldl (fun u l => u.clauseLane (s.w.hdr.entry 0) x.c0 l) s := by
  simp only [State.clausesDone, Warp.clauses, List.foldl_cons, List.foldl_nil, h1, h2, h3, lanesOf_zero]

/-- An `ENDR` none of whose clauses is on leaves every frame of its filled lanes released or gone (R112). -/
theorem terminate_releases {s : State} {x : EndW} (hm : Rising (s.d.share s.w.ctx s.w.core).frames) (hp : s.w.pend = [])
    (hoff : ∀ p, p ∈ s.w.clauses x → s.w.clauseOn p.1 = 0) {l : Nat} (hl : l ∈ lanesOf s.w.filled) {f : Frame}
    (hf : ((s.terminate x true).d.share s.w.ctx s.w.core).frames.find (s.w.frame.getD l 0) = some f) : f.state = .released := by
  rw [terminate_committed hp, clausesDone_off hoff, if_pos rfl] at hf
  generalize hu : (s.mapWarp fun v => { v with pend := [] }) = u at hf
  have hshares : u.d = s.d := by rw [← hu]; rfl
  obtain ⟨hsome, hgone⟩ := foldl_releaseFrame s.w.ctx s.w.core (fun l => s.w.frame.getD l 0) (lanesOf s.w.filled) u
  obtain ⟨ps, hw⟩ := foldl_releaseFrame_w s.w.ctx s.w.core (fun l => s.w.frame.getD l 0) (lanesOf s.w.filled) u
  rw [hshares] at hsome hgone
  obtain ⟨hm', -⟩ := hsome hm
  have hend := endWarp_releases ((lanesOf s.w.filled).foldl (fun t l => t.releaseFrame s.w.ctx s.w.core (s.w.frame.getD l 0)) u)
  rw [hw, ← hu] at hend
  rw [← hu] at hm' hf hgone
  exact ((hend hm').2 _ f hf).elim (hgone hm l hl f) id

/-- An `END` with a SEND clause alone sends a token for each lane in which it is on, in lane order (R111). -/
theorem terminate_sends {s : State} {x : EndW} (hp : s.w.pend = []) (hd : s.d.devnum < 4096)
    (hon : ∀ g, (s.d.core g).offline = false) (hk : (s.w.hdr.entry 0).kind = 1) (h1 : s.w.clauseOn x.c1 = 0)
    (h2 : s.w.clauseOn x.c2 = 0) (h3 : s.w.clauseOn x.c3 = 0) :
    let on := lanesOf (s.w.clauseOn x.c0)
    (s.terminate x false).mem = s.mem ∧
      Posted (on.map fun l => s.itemOf 0 0 (s.clauseTok (s.w.hdr.entry 0) x.c0 l)) s.w.core (on.map fun _ => []) s
        (s.terminate x false) := by
  intro on
  obtain ⟨hmem, hw, ms, hnet, hposted⟩ := foldl_clauseLane_send x.c0 hk hd hon on
  rw [terminate_committed hp, clausesDone_first h1 h2 h3, if_neg Bool.false_ne_true]
  obtain ⟨hmem', hnet'⟩ := endWarp_committed (s := (on.foldl (fun u l => u.clauseLane (s.w.hdr.entry 0) x.c0 l) s).mapWarp
    fun v => { v with pend := [] }) rfl
  exact ⟨hmem'.trans hmem, ms, hnet'.trans hnet, hposted⟩

/-- Settles O37, by the wait of a terminator, its checks, and what its clauses, its releases and the end of its warp leave. -/
theorem terminators : Obligations.Terminators := by
  intro s x i release hi hf
  have hexec := exec_terminator hi hf
  refine ⟨fun hmiss => ?_, mayAct_outstanding i, fun hmiss hwait => ?_, fun hmiss hact => ?_⟩
  · rw [hexec, State.endWord, if_pos hmiss]
  · rw [hexec, State.endWord, if_neg (by simp [hmiss]), whenDrained_waits hwait]
  · intro v
    have hterm : exec i s = .next (v.termStep x release) := by
      rw [hexec, State.endWord, if_neg (by simp [hmiss]), whenDrained_acts hact]
    refine ⟨fun hbad => ?_, fun hok => ?_⟩
    · rw [hterm, State.termStep, if_pos hbad]
    · rw [State.termStep, if_neg (by simpa using hok)] at hterm
      refine ⟨_, hterm, terminate_w v x release, terminate_turns v x release, ?_, ?_⟩
      · rintro rfl hm hp hoff l hl hfill f hfind
        exact terminate_releases (s := v) hm hp hoff ((mem_lanesOf _ l).mpr ⟨hl, hfill⟩) hfind
      · rintro rfl hp hd hon hk h1 h2 h3
        exact terminate_sends (s := v) hp hd hon hk h1 h2 h3

end Machine
end Sys2Proof
